-- ==== Sys2Proof/Word.lean ====
section
/-! DEFINITION. The word types of the LX9410 and their plainest arithmetic (R8: every field is little-endian). -/
namespace Sys2Proof

/-- One byte. -/
abbrev Byte := BitVec 8

/-- A 16-bit field. -/
abbrev U16 := BitVec 16

/-- A 32-bit field. -/
abbrev U32 := BitVec 32

/-- A 64-bit field. -/
abbrev U64 := BitVec 64

/-- A 128-bit block key in CMAC output order (R41). -/
abbrev BlockKey := BitVec 128

/-- A SHA-512 digest. -/
abbrev Digest := BitVec 512

/-- `n` bytes of zeros. -/
def zeroBytes (n : Nat) : List Byte := List.replicate n 0#8

/-- Rounded-up division, used for granule, slot and page counts. -/
def ceilDiv (a b : Nat) : Nat := (a + b - 1) / b

/-- `a` rounded up to a multiple of `b`. -/
def alignUp (a b : Nat) : Nat := ceilDiv a b * b

end Sys2Proof
end

