-- ==== Sys2Proof/Syntax.lean ====
section
/-! DEFINITION. The commands of the LX9410: one constructor for each row of the opcode table, with the
row's operands. A sealed packet, object or record is written with the outcome of the check that only
the holder of the key can compute (the tag verifies, the OAEP block opens) beside its plaintext. -/
namespace Sys2Proof

/-- The entry path of a packet (Table 10.8). -/
inductive Path where
  | pcie | rdma | mgmt
deriving DecidableEq, Repr

/-- The two classes (Glossary: LC, BE). -/
inductive Cls where
  | lc | be
deriving DecidableEq, Repr

/-- The tiers that hold pages. -/
inductive Tier where
  | t1 | t2 | t3
deriving DecidableEq, Repr

/-- A descriptor (Table 10.4). -/
structure Descriptor where
  address : U64
  lenKind : U32
  rkey : U32
deriving DecidableEq, Repr

/-- The transport header of an RC packet as it arrives (R337, R344, R348): the logical port, the queue pair, the PSN, whether it
is CE-marked, whether 50 µs have passed since the queue pair's last CNP, whether it found the port's receive buffer full, and of
a command SEND whether it found room neither in its engine's command receive buffer nor at intake (R349).
[DEDUCED, log 2, 23; DESIGN CHOICE, log 14] -/
structure Bth where
  lport : Nat
  qpn : Nat
  psn : BitVec 24
  ce : Bool
  cnpDue : Bool
  full : Bool
  noRoom : Bool
deriving DecidableEq, Repr

/-- A command packet's header as it arrives (Tables 10.1 to 10.3), with the lane it arrived on, its
length in bytes, on the RDMA path its transport header, and whether its GCM tag verifies under the command key of the
job it names. [DEDUCED, log 2] -/
structure Packet where
  path : Path
  lane : Nat
  bth : Bth
  length : Nat
  opWord : U32
  jobHandle : U32
  tag : U64
  lenWord : U32
  reserved14 : U32
  replyRoute : U64
  nonce : BitVec 96
  reserved2C : U32
  gcmTag : BitVec 128
  authentic : Bool
  descs : List Descriptor
deriving DecidableEq, Repr

/-- How a descriptor read ended (R510, R294): the bytes could not be read, the object's tag failed, or
it opened to its plaintext. -/
inductive Fetched (α : Type) where
  | stopped
  | badTag
  | opened (a : α)
deriving DecidableEq, Repr

/-- JOB_OPEN's transported secret after RSA-OAEP (Table 14.3); `none` in place of it means OAEP
decoding failed. [DEDUCED, log 2] -/
structure JobSecret where
  secret : BitVec 256
  length : Nat
  resetGen : U32
  tenant : U16
  reserved : BitVec 80
deriving DecidableEq, Repr

/-- JOB_OPEN (0x0101), Table 10.12. `grantOk`: GRANT_SIG verifies under the tenant's registered key. -/
structure JobOpenParams where
  reportGen : U32
  reserved004 : U32
  secret : Option JobSecret
  grantOk : Bool
  modelId : U32
  scopeCount : Byte
  joFlags : Byte
  reserved40E : U16
  pinQuota : U32
  reserved414 : U32
  scopes : List U16
  reserved438 : U64
deriving DecidableEq, Repr

/-- The model profile descriptor (Table 2.3). -/
structure ProfileDesc where
  modelId : U32
  layers : U16
  kvHeads : Byte
  qheadsPerKv : Byte
  headDim : U16
  blockSize : Byte
  inputFormat : Byte
  kCodec : Byte
  vCodec : Byte
  ropeStyle : Byte
  profileFlags : Byte
  ropeDims : U16
  latentRank : U16
  ropeTheta : U32
  ropePosScale : U32
  maxTokens : U32
  reserved20 : BitVec 256
  weightsDigest : Digest
deriving DecidableEq, Repr

/-- MODEL_LOAD's transported model key after RSA-OAEP (Table 14.12). -/
structure ModelSecret where
  key : BitVec 256
  length : Nat
  resetGen : U32
  tenant : U16
  reserved26 : U16
  modelId : U32
  reserved2C : U32
  weightsDigest : Digest
deriving DecidableEq, Repr

/-- One codec weights layer record in plaintext (Table 5.4). FP32 fields keep their bits; the
matrices and the smoothing vectors keep their stored order. -/
structure WeightsRecord where
  layer : U16
  recordFlags : Byte
  reserved3 : Byte
  latentScale : U32
  ropeScale : U32
  smoothOffset : U32
  ukOffset : U32
  uvOffset : U32
  reservedZero : Bool
  ropeFreq : List U32
  smooth : List U32
  uk : List Byte
  ukScales : List Byte
  uv : List Byte
  uvScales : List Byte
deriving DecidableEq, Repr

/-- One sealed record of the blob (R144): whether its GCM tag verifies, and its plaintext. -/
structure SealedRecord where
  tagOk : Bool
  plain : WeightsRecord
deriving DecidableEq, Repr

/-- MODEL_LOAD (0x0201), Table 5.5. `digestOk`: the SHA-512 of the plaintext equals WEIGHTS_DIGEST.
`wrappedZero`: every byte of WRAPPED_KEY is zero. `blobLen`: bytes the WEIGHTS descriptors hold. -/
structure ModelLoadParams where
  profile : ProfileDesc
  preference : Byte
  mlFlags : Byte
  reserved082 : BitVec 112
  wrappedZero : Bool
  secret : Option ModelSecret
  blobLen : Nat
  blob : Fetched (List SealedRecord)
  digestOk : Bool
deriving DecidableEq, Repr

/-- MODEL_UNLOAD (0x0202), R151, and MODEL_QUERY (0x0203), R152, whose flags and reserved bytes are
the last three. -/
structure ModelNameParams where
  modelId : U32
  variant : Byte
  ulFlags : Byte
  reserved : U16
deriving DecidableEq, Repr

/-- LOOKUP (0x0301) and LOOKUP_PIN (0x0302), Table 3.2. `tokens` is the token input, inline or from
the TOKEN descriptors. -/
structure LookupParams where
  scopeId : U16
  variantMask : Byte
  lkFlags : Byte
  hopBudget : Byte
  reserved05 : BitVec 24
  tokenCount : U32
  maxBlocks : U32
  tokens : Fetched (List U64)
deriving DecidableEq, Repr

/-- LOOKUP_EXTEND (0x0303), Table 3.3. -/
structure ExtendParams where
  pinHandle : U64
  variantMask : Byte
  lkFlags : Byte
  hopBudget : Byte
  reserved0B : Byte
  tokenCount : U32
  maxBlocks : U32
  reserved14 : U32
  tokens : Fetched (List U64)
deriving DecidableEq, Repr

/-- UNPIN (0x0304), R76. -/
structure UnpinParams where
  pinHandle : U64
  reserved08 : U64
deriving DecidableEq, Repr

/-- INGEST_OPEN (0x0401), Table 6.8. -/
structure IngestOpenParams where
  baseHandle : U64
  scopeId : U16
  variant : Byte
  ioFlags : Byte
  tokenCount : U32
  tokens : Fetched (List U64)
deriving DecidableEq, Repr

/-- INGEST_PULL, INGEST_PUSH_SLOTS, INGEST_COMMIT and INGEST_ABORT, Table 6.9. -/
structure IngestParams where
  ingestHandle : U32
  count : U32
  rkey : U32
  reserved0C : U32
deriving DecidableEq, Repr

/-- An ingest record as it arrives (Table 6.7). `opened` is the payload's plaintext when its tag
verifies under the job's link key. -/
structure IngestRecord where
  ingestHandle : U32
  blockNo : U32
  layer : U16
  head : Byte
  recFlags : Byte
  firstToken : U16
  tokenCount : U16
  payloadLen : U32
  reserved14 : U32
  nonce : BitVec 96
  reserved24 : BitVec 96
  opened : Option (List Byte)
deriving DecidableEq, Repr

/-- DELIVER (0x0501), Table 7.1, with the opened block table of R197. -/
structure DeliverParams where
  pinHandle : U64
  firstBlock : U32
  blockCount : U16
  deliveryId : U16
  firstLayer : U16
  layerCount : U16
  lead : Byte
  outForm : Byte
  dlvFlags : Byte
  reserved17 : Byte
  qpn : U32
  dataRkey : U32
  layerStride : U64
  vOffset : U64
  headStride : U32
  tokenStride : U32
  sealAddr : U64
  sealLayerStride : U64
  sealRkey : U32
  rawRkey : U32
  rawAddr : U64
  rawLayerStride : U64
  blockTable : Fetched (List U64)
deriving DecidableEq, Repr

/-- DELIVER_CANCEL (0x0502) and DELIVER_STATUS (0x0503), Table 7.8. -/
structure DeliveryNameParams where
  qpn : U32
  deliveryId : U16
  targetFlags : Byte
  reserved07 : Byte
deriving DecidableEq, Repr

/-- ATTEND_OPEN (0x0601), Table 8.1. -/
structure AttendOpenParams where
  pinHandle : U64
  firstBlock : U32
  blockCount : U16
  maxEntries : Byte
  querySlots : Byte
  scale : U32
  softcap : U32
  windowBlocks : U32
  firstLayer : U16
  layerCount : U16
  aoFlags : U16
  reserved22 : U16
  gatherCycles : U32
  qpn : U32
  resultRkey : U32
deriving DecidableEq, Repr

/-- A query block as the device opens it (Table 8.3). `queries` holds BF16 elements in stored order;
`tagOk`: the tag verifies under the job's link key. -/
structure QueryBlock where
  nonce : BitVec 96
  entryCount : U16
  layer : U16
  tagOk : Bool
  qpos : List U32
  queries : List U16
deriving DecidableEq, Repr

/-- ATTEND (0x0602), Table 8.5. -/
structure AttendParams where
  session : U32
  layer : U16
  entryCount : Byte
  querySlot : Byte
  resultAddr : U64
  queryOffset : U64
  query : QueryBlock
deriving DecidableEq, Repr

/-- ATTEND_CLOSE (0x0603), R229. -/
structure AttendCloseParams where
  session : U32
  reserved04 : U32
deriving DecidableEq, Repr

/-- EVICT, PROMOTE and HINT, Table 6.6. -/
structure RangeParams where
  pinHandle : U64
  firstBlock : U32
  lastBlock : U32
  firstLayer : U16
  layerCount : U16
  opArg : Byte
  opFlags : Byte
  reserved16 : U16
deriving DecidableEq, Repr

/-- PURGE_SCOPE (0x0704), R185. -/
structure PurgeScopeParams where
  scopeId : U16
  reserved02 : BitVec 48
deriving DecidableEq, Repr

/-- ATTEST (0x0801), Table 14.9. -/
structure AttestParams where
  callerNonce : BitVec 256
  atFlags : Byte
  reserved21 : BitVec 56
deriving DecidableEq, Repr

/-- KEY_ROTATE (0x0802), Table 14.5: KR_OP is the row's own. -/
structure KeyRotateParams where
  reserved01 : BitVec 56
deriving DecidableEq, Repr

/-- STATS_READ (0x0901), R309. -/
structure StatsParams where
  set : Byte
  reserved01 : BitVec 56
deriving DecidableEq, Repr

/-- EVENTS_READ (0x0902), R310. -/
structure EventsParams where
  fromSlate : U64
  maxRecords : U16
  reserved0A : BitVec 48
deriving DecidableEq, Repr

/-- HOST_WINDOW_SET (0x0A01), R311. -/
structure HostWindowParams where
  port : Byte
  reserved01 : BitVec 24
  granules : U32
  reserved08 : U64
deriving DecidableEq, Repr

/-- The quota fields of Table 10.14, bytes 0x08 to 0x29. -/
structure Quotas where
  ingestBytes : U64
  t3WriteBytes : U64
  attendUnits : U32
  commandsInFlight : U32
  pins : U32
  jobPinLimit : U32
  openJobs : U16
deriving DecidableEq, Repr

/-- TENANT_QUOTA_SET (0x0A02), Table 10.14. -/
structure QuotaSetParams where
  tenant : U16
  reserved02 : BitVec 48
  quotas : Quotas
  reserved2A : BitVec 48
deriving DecidableEq, Repr

/-- CLASS_SET (0x0A03), R312. -/
structure ClassSetParams where
  tenant : U16
  classPolicy : Byte
  beFloor : Byte
  lcReserve : Byte
  reserved05 : BitVec 24
deriving DecidableEq, Repr

/-- SPARE_MAP (0x0A04), Table 10.15: SM_OP is the row's own. -/
structure SpareMapParams where
  unitKind : Byte
  reserved02 : U16
  unit : U32
  reserved08 : U64
deriving DecidableEq, Repr

/-- A firmware image (Table 14.14) with the outcome of each check of R418, the SHA-512 of the image as stored, and that of
its decrypted loader section. -/
structure Image where
  length : Nat
  format : U16
  reservedZero : Bool
  rollbackLevel : Nat
  fwVersion : U32
  signerOk : Bool
  signatureOk : Bool
  bodyTagOk : Bool
  imageDigest : Digest
  loaderDigest : Digest
deriving DecidableEq, Repr

/-- FW_STAGE (0x0A05), Table 10.16. -/
structure FwStageParams where
  imageLen : U32
  reserved04 : U32
  imageDigest : Digest
  image : Image
deriving DecidableEq, Repr

/-- FW_ACTIVATE (0x0A06), R313. -/
structure FwActivateParams where
  slot : Byte
  faFlags : Byte
  reserved02 : BitVec 48
deriving DecidableEq, Repr

/-- PORT_CONFIG (0x0A07), Table 10.17. -/
structure PortConfigParams where
  portKind : Byte
  port : Byte
  mode : Byte
  pcFlags : Byte
  pfcPriorities : Byte
  reserved05 : BitVec 24
deriving DecidableEq, Repr

/-- WEAR_BUDGET_SET (0x0A08), R314. -/
structure WearBudgetParams where
  dailyBudget : U64
deriving DecidableEq, Repr

/-- SPLICE_ROUTE_SET (0x0A09), Table 10.18: RS_OP is the row's own. -/
structure SpliceRouteParams where
  entry : Byte
  destDevice : U16
  outPort : Byte
  rsFlags : Byte
  reserved06 : U16
deriving DecidableEq, Repr

/-- DEVICE_RESET (0x0A0A), R315: RESET_KIND is the row's own. -/
structure DeviceResetParams where
  portKind : Byte
  port : Byte
  reserved03 : BitVec 40
deriving DecidableEq, Repr

/-- TENANT_REGISTER (0x0A0B), Table 10.19. -/
structure TenantRegisterParams where
  tenant : U16
  reserved002 : U16
  pubExponent : U32
  modulus : BitVec 4096
deriving DecidableEq, Repr

/-- TENANT_REMOVE (0x0A0C), R316. -/
structure TenantRemoveParams where
  tenant : U16
  trmFlags : Byte
  reserved03 : BitVec 40
deriving DecidableEq, Repr

/-- A debug token (Table 14.13) with the outcomes of its two cryptographic checks. -/
structure DebugToken where
  tokenFormat : U16
  debugScope : U16
  resetGen : U32
  deviceIdOk : Bool
  reservedZero : Bool
  authorityOk : Bool
  signatureOk : Bool
deriving DecidableEq, Repr

/-- DEBUG_UNLOCK (0x0A0D), R316. -/
structure DebugUnlockParams where
  tokenLen : U16
  reserved02 : BitVec 48
  token : DebugToken
deriving DecidableEq, Repr

/-- One submission entry of a ring (Table 13.9); `readOk` is clear when its DMA failed. -/
structure SqEntry where
  kind : Byte
  reserved01 : BitVec 24
  arg : U32
  offset : U64
  readOk : Bool
deriving DecidableEq, Repr

/-- How a unit's own check ended (R440): it passed, it failed, the check of its input failed (R156), or the codec weights that it
read are bad (R155). [DEDUCED, log 2; DESIGN CHOICE, log 7] -/
inductive UnitCheck where
  | passed | failed | inputFailed | weightsFailed
deriving DecidableEq, Repr

/-- What a mover, NAND or patrol read met in the copy it read (R441 to R443). -/
inductive ReadOutcome where
  | good | corrected | uncorrectable | sealFailed
deriving DecidableEq, Repr

/-- A connection request's fields that the device uses (R341, R342). [DEDUCED, log 2] -/
structure CmReq where
  lport : Nat
  serviceId : U64
  transportRc : Bool
  mtu : Nat
  destIp : BitVec 128
  trafficClass : Byte
  startPsn : BitVec 24
  ackTimeout : BitVec 5
  retry : BitVec 3
  rnrRetry : BitVec 3
  initiatorDepth : Byte
  responderResources : Byte
  partnerQpn : BitVec 24
deriving DecidableEq, Repr

/-- What an RDMA READ response carries (R510): ingest records of a pull, or the data of a command's
read descriptors. -/
inductive ReadData where
  | records (rs : List IngestRecord)
  | descriptors
deriving DecidableEq, Repr

/-- A client certificate as R484 and R485 judge it. -/
structure ClientCert where
  profileOk : Bool
  anchorDigest : Digest
  selfSigned : Bool
  operatorOu : Nat
  auditorOu : Nat
deriving DecidableEq, Repr

/-- The kinds of DDR5 module that SPD data can name. -/
inductive DimmKind where
  | rdimm | mrdimm | other
deriving DecidableEq, Repr

/-- One DDR5 module's SPD data (R160): its kind, its maker's part, its size. -/
structure Dimm where
  kind : DimmKind
  part : Nat
  gib : Nat
deriving DecidableEq, Repr

/-- The NAND interfaces that a parameter page can name. -/
inductive NandIf where
  | nvLpddr4 | jesd230 | other
deriving DecidableEq, Repr

/-- A NAND part's parameter page (Table 9.1): bytes of a page and its spare area, the longest operation times in µs, whether it
holds a read-retry table, and whether the part supports suspend (R280). -/
structure NandPart where
  part : Nat
  interface : NandIf
  busBits : Nat
  mts : Nat
  onePassTlc : Bool
  pslc : Bool
  pageBytes : Nat
  spareBytes : Nat
  planes : Nat
  blocksPerPlane : Nat
  pagesPerBlock : Nat
  progTlcUs : Nat
  progPslcUs : Nat
  eraseUs : Nat
  peCycles : Nat
  retryTable : Bool
  suspend : Bool
deriving DecidableEq, Repr

/-- A chip enable of a NAND channel (R253): its dies, and their parameter page where it could be read. -/
structure ChipEnable where
  dies : Nat
  page : Option NandPart
deriving DecidableEq, Repr

/-- The memory population found at step 5 of Table 17.8 (R160, R253) and the outcome of training: the modules of each DDR5
channel, and the chip enables of each NAND channel, the units that fail built-in test, and the die and plane of each factory-bad
block. -/
structure Population where
  ddr : List (List Dimm)
  nand : List (List ChipEnable)
  hbmTrained : Bool
  ddrTrained : Bool
  badUnits : List (Nat × Nat)
  factoryBad : List (Nat × Nat)
deriving DecidableEq, Repr

/-- The size of a population's DDR5. -/
def Population.ddrGib (p : Population) : Nat := p.ddr.flatten.foldl (fun n m => n + m.gib) 0

/-- The part of a population, of which R253 allows one only, and its figures. -/
def Population.nandPart (p : Population) : Option NandPart := (p.nand.flatten.head?).bind (·.page)
def Population.dies (p : Population) : Nat := p.nand.flatten.foldl (fun n e => n + e.dies) 0
def Population.planes (p : Population) : Nat := ((p.nandPart).map (·.planes)).getD 0
def Population.blocksPerPlane (p : Population) : Nat := ((p.nandPart).map (·.blocksPerPlane)).getD 0
def Population.pagesPerBlock (p : Population) : Nat := ((p.nandPart).map (·.pagesPerBlock)).getD 0
def Population.peCycles (p : Population) : Nat := ((p.nandPart).map (·.peCycles)).getD 0

/-- The splice envelope (Table 15.2); `tagOk`: the tag verifies under the link key. [DEDUCED, log 2] -/
structure Envelope where
  spFlags : Byte
  srcDevice : U16
  dstDevice : U16
  relays : Nat
  probes : Nat
  regGen : U32
  tagOk : Bool
deriving DecidableEq, Repr

/-- The body of a match-in (Table 4.6). -/
structure MatchInBody where
  lookupId : U64
  tenant : U16
  variantMask : Byte
  miFlags : Byte
  hopBudget : Nat
  countSoFar : Nat
  lastKey : BlockKey
  keys : List BlockKey
deriving DecidableEq, Repr

/-- The body of a match-out (Table 4.7). -/
structure MatchOutBody where
  lookupId : U64
  holderDevice : U16
  hopsUsed : Nat
  lowerBound : Bool
  budgetSpent : Bool
  firstBlock : Nat
  extendedCount : Nat
  tierHint : Byte
deriving DecidableEq, Repr

/-- A peer's attestation report as step 4 of Table 15.1 reads it (R427). -/
structure PeerReport where
  signatureOk : Bool
  nonceOk : Bool
  measurement1 : Digest
  measurement3 : Digest
  measurement6 : Digest
  debugUnlocked : Bool
deriving DecidableEq, Repr

/-- The directory state of a window line (R380). -/
inductive LineState where
  | inv | shared | any
deriving DecidableEq, Repr

/-- The commands: one constructor for each row of spec/opcode_table.json, in the table's order. -/
inductive Instr where
  | jobOpen (p : Packet) (a : JobOpenParams)
  | jobClose (p : Packet) (reserved : U64)
  | jobCloseFinish (job : Nat)
  | jobQuery (p : Packet) (reserved : U64)
  | modelLoad (p : Packet) (a : ModelLoadParams)
  | modelUnload (p : Packet) (a : ModelNameParams)
  | modelQuery (p : Packet) (a : ModelNameParams)
  | lookup (p : Packet) (a : LookupParams)
  | lookupPin (p : Packet) (a : LookupParams)
  | lookupExtend (p : Packet) (a : ExtendParams)
  | unpin (p : Packet) (a : UnpinParams)
  | ingestOpen (p : Packet) (a : IngestOpenParams)
  | ingestPull (p : Packet) (a : IngestParams)
  | ingestPushSlots (p : Packet) (a : IngestParams)
  | ingestCommit (p : Packet) (a : IngestParams)
  | ingestAbort (p : Packet) (a : IngestParams)
  | deliver (p : Packet) (a : DeliverParams)
  | deliverCancel (p : Packet) (a : DeliveryNameParams)
  | deliverStatus (p : Packet) (a : DeliveryNameParams)
  | attendOpen (p : Packet) (a : AttendOpenParams)
  | attend (p : Packet) (a : AttendParams)
  | attendClose (p : Packet) (a : AttendCloseParams)
  | evict (p : Packet) (a : RangeParams)
  | promote (p : Packet) (a : RangeParams)
  | hint (p : Packet) (a : RangeParams)
  | purgeScope (p : Packet) (a : PurgeScopeParams)
  | purgeTenant (p : Packet) (reserved : U64)
  | attest (p : Packet) (a : AttestParams)
  | keyRotateOpen (p : Packet) (a : KeyRotateParams)
  | keyRotateQuery (p : Packet) (a : KeyRotateParams)
  | statsRead (p : Packet) (a : StatsParams)
  | eventsRead (p : Packet) (a : EventsParams)
  | hostWindowSet (p : Packet) (a : HostWindowParams)
  | tenantQuotaSet (p : Packet) (a : QuotaSetParams)
  | classSet (p : Packet) (a : ClassSetParams)
  | spareMapRead (p : Packet) (a : SpareMapParams)
  | spareMapRetire (p : Packet) (a : SpareMapParams)
  | fwStage (p : Packet) (a : FwStageParams)
  | fwActivate (p : Packet) (a : FwActivateParams)
  | portConfig (p : Packet) (a : PortConfigParams)
  | wearBudgetSet (p : Packet) (a : WearBudgetParams)
  | spliceRouteWrite (p : Packet) (a : SpliceRouteParams)
  | spliceDeviceNumberSet (p : Packet) (a : SpliceRouteParams)
  | deviceResetCompute (p : Packet) (a : DeviceResetParams)
  | deviceResetFull (p : Packet) (a : DeviceResetParams)
  | deviceResetPort (p : Packet) (a : DeviceResetParams)
  | tenantRegister (p : Packet) (a : TenantRegisterParams)
  | tenantRemove (p : Packet) (a : TenantRemoveParams)
  | tenantRemoveComplete (tenant : BitVec 12)
  | debugUnlock (p : Packet) (a : DebugUnlockParams)
  | recStatus
  | recWriteSlot (image : Image)
  | recFormat (overprovision : Byte) (reserved : BitVec 56) (pop : Population)
  | recAnchorClear (pop : Population)
  | recReset
  | doeDiscovery (port : Nat) (index : Byte)
  | getVersion (port : Nat)
  | getCapabilities (port : Nat)
  | negotiateAlgorithms (port : Nat) (offersSupported : Bool)
  | getDigests (port : Nat)
  | getCertificate (port : Nat) (slot offset len : Nat)
  | challenge (port : Nat) (slot : Nat) (nonce : BitVec 256)
  | getMeasurements (port : Nat) (index : Nat) (nonce : BitVec 256)
  | getPoisonList (port : Nat)
  | identifyMemoryDevice (port : Nat)
  | getPartitionInfo (port : Nat)
  | getHealthInfo (port : Nat)
  | getEventRecords (port : Nat)
  | clearEventRecords (port : Nat)
  | mailboxUnsupported (port : Nat) (opcode : U16)
  | cxlMemRead (port : Nat) (line : Nat) (grant : LineState)
  | cxlMemWrite (port : Nat) (line : Nat) (data : List Byte) (enables : List Bool) (grant : LineState)
  | cxlIoBar2Request (port : Nat) (offset : Nat)
  | birsp (port : Nat) (line : Nat)
  | fenceTimeout (port : Nat) (line : Nat)
  | idcode
  | bypass
  | samplePreload
  | extest
  | intest
  | clamp
  | highz
  | pcieConfigRequest (port link fn : Nat)
  | functionLevelReset (port link fn : Nat)
  | vfEnableChange (port link : Nat) (enable : Bool) (numVfs : Nat)
  | perstAssert (port link : Nat)
  | perstRelease (port link : Nat)
  | hostLinkDown (port link : Nat)
  | doorbellSqTail (port link ring : Nat) (value : U64) (entries : List SqEntry)
  | doorbellCqHead (port link ring : Nat) (value : U64)
  | rpEnable (port link ring : Nat) (control : U32)
  | rpDisable (port link ring : Nat)
  | registerWrite (port link fn offset size : Nat) (value : U64)
  | msixCoalesceExpiry (port ring : Nat)
  | arpRequest (lport : Nat) (target : U32)
  | neighborDiscovery (lport : Nat) (target : BitVec 128)
  | icmpEcho (lport : Nat) (target : BitVec 128) (v6 : Bool)
  | rxOtherDrop (lport : Nat)
  | pfcFrameReceived (port : Nat) (prio : Nat) (quanta : Nat)
  | pfcPauseRefresh (port : Nat) (occupancy : Nat)
  | cnpReceived (qpn : Nat) (due : Bool)
  | rateLimiterTick (qpn : Nat)
  | cmReq (r : CmReq)
  | cmRtu (qpn : Nat)
  | cmMra (qpn : Nat)
  | cmRej (qpn : Nat)
  | cmDreq (qpn : Nat)
  | cmDrep (qpn : Nat)
  | cmResponseTimeout (qpn : Nat)
  | qpUnboundTimeout (qpn : Nat)
  | contextFreeTimeout (qpn : Nat)
  | rdmaWriteReceived (h : Bth) (rkey : U32) (addr : U64) (data : List Byte)
  | contextFetchDone (qpn : Nat) (ok : Bool)
  | slotConsume (h : Bth) (rkey : U32) (addr : U64) (data : List Byte) (imm : U32) (outcome : ReadOutcome)
  | cue (h : Bth) (imm : U32)
  | rdmaReadRequest (h : Bth) (rkey : U32) (addr : U64) (len : Nat)
  | rdmaInvalidRequest (h : Bth)
  | ackReceived (h : Bth)
  | nakSequenceReceived (h : Bth)
  | rnrNakReceived (h : Bth) (timer : BitVec 5)
  | nakFatalReceived (h : Bth) (kind : Nat)
  | ackTimeout (qpn : Nat)
  | rnrTimerExpiry (qpn : Nat)
  | ackSendTimer (qpn : Nat)
  | readResponseReceived (h : Bth) (slot : Nat) (data : ReadData) (last : Bool)
  | ethLinkDown (lport : Nat)
  | ethLinkUp (lport : Nat)
  | dhcpReply (port : Nat) (ip : U32)
  | routerAdvertisement (port : Nat) (pfx : U64)
  | addressLifetimeExpiry (port : Nat) (v6 : Bool) (ip : BitVec 128)
  | rawFallbackTimeout (storyboard : Nat) (layer : Nat)
  | gatherWindowExpiry (batch : Nat)
  | attentionUnitEnd (inst : Nat) (chk : UnitCheck)
  | projectionUnitEnd (inst : Nat) (chk : UnitCheck)
  | mergeUnitEnd (inst : Nat) (chk : UnitCheck)
  | codecUnitEnd (inst : Nat) (chk : UnitCheck)
  | cryptoUnitEnd (inst : Nat) (chk : UnitCheck)
  | keyHasherUnitEnd (inst : Nat) (chk : UnitCheck)
  | matchProbeResult (sect : Nat) (upsetsA upsetsB : List (Nat × Nat))
  | moverUnitEnd (inst : Nat) (chk : UnitCheck) (outcome : ReadOutcome)
  | rdmaUnitEnd (inst : Nat) (chk : UnitCheck)
  | hostPortUnitEnd (inst : Nat) (dmaOk : Bool) (recs : List IngestRecord)
  | spliceUnitEnd (inst : Nat)
  | engineUnitOverrun (kind : Nat) (inst : Nat)
  | sliverInsert (sliver : Nat)
  | sliverPin (sliver : Nat)
  | sliverPinDrop (sliver : Nat)
  | sliverScore (sliver : Nat)
  | sliverConfirm (sliver : Nat)
  | sliverDropOffer (sliver : Nat) (want : Nat)
  | sliverStateCommit (sliver : Nat)
  | sliverNodeVisit (node : Nat)
  | dollyReport
  | reelCoreWatchdog (core : Nat)
  | skometWatchdog
  | controlCoreFault (source : Nat) (detail : U32)
  | stopAllRestart
  | rootOfTrustFault (unitKind : Nat) (cause : U32)
  | entropyHealthFail
  | dollyInsert (sect : Nat)
  | dollyRemove (sect : Nat)
  | dollyHint (sect : Nat)
  | dollyRepair (sect : Nat)
  | tenantSweep (tenant : BitVec 12)
  | matchArrayRefill (sliver : Nat)
  | continuityScan (upsets : List (Nat × Nat × Nat))
  | tierEviction (tier : Tier)
  | patrolScrub (tier : Tier) (node : Nat) (grp : Nat) (row : Nat) (outcome : ReadOutcome)
  | sramScrub (corrected uncorrectable : Nat) (victims : List Nat) (ownerTagLost : Bool)
  | oldGenerationRemoval (node : Nat)
  | resealNode (node : Nat)
  | epochRetire (tenant : BitVec 12) (epoch : U32)
  | nandProgramDone (prog : Nat)
  | nandProgramFail (prog : Nat)
  | nandReadDone (node : Nat) (grp : Nat) (retries : Nat) (rain : Bool) (ok : Bool)
  | nandEraseDone (band : Nat)
  | nandEraseFail (die plane block : Nat)
  | dieReadyTimeout (die : Nat)
  | journalFlush
  | journalFlushDone
  | mapSegmentImage (segment : Nat)
  | directoryImage
  | indexCheckpoint (chunk : Nat)
  | gcStart
  | gcErase
  | patrolRead (band : Nat) (retrySteps : Nat)
  | cutMarker
  | parkedCommandWake (slot : Nat)
  | startup (vinMv : Nat) (nandVccSel : Bool)
  | pllLock (recoveryN : Bool)
  | bootVerifyDone
  | memoryTrainingDone (pop : Population)
  | ftlRecoveryDone
  | indexLoadDone
  | journalReplayDone
  | sagWarn (vinMv : Nat)
  | holdupFlushEnd
  | vinBelowReset (vinMv : Nat)
  | vinOverVoltage (vinMv : Nat)
  | thermalTick (sensor : Nat) (tj : Nat) (hbm : Nat)
  | refclkLoss
  | pllLockLoss
  | resetInAssert
  | resetInRelease (recoveryN : Bool)
  | tcpConnect
  | tlsHandshakeDone (session : Nat) (cert : ClientCert)
  | tlsSessionEnd (session : Nat)
  | mgmtLinkTrial (trained : Bool)
  | splicePhyTrained (port : Nat)
  | hello (port : Nat) (device : U16) (resetGen : U32) (nonce : BitVec 256) (drDigest : Digest)
  | report (port : Nat) (r : PeerReport)
  | key (port : Nat) (contribution : Nat) (root : Option Nat)
  | spliceDomainRetry (port : Nat)
  | spliceAttestRetry (port : Nat)
  | spliceLinkDown (port : Nat)
  | matchIn (port : Nat) (env : Envelope) (body : MatchInBody)
  | matchOut (port : Nat) (env : Envelope) (body : MatchOutBody)
  | continuationExpiry (lookupId : U64)
  | frame (port : Nat) (env : Envelope) (lport : Nat) (toRelay : Bool) (bytes : List Byte)
  | unknownOpcode (p : Packet)
  | thermalTripRelease (tj : Nat) (hbm : Nat)
  | hostLinkTrained (port link : Nat) (acceptsCxl : Bool)
  | pfcPauseTimeExpiry (port : Nat) (prio : Nat)
  | spliceFrameRetry (port : Nat)
deriving DecidableEq, Repr

end Sys2Proof
end

