-- ==== Sys2Proof/Config.lean ====
section
/-! DEFINITION. What one LX9410 fixes: its capacities (Tables 0.1, 1.1, 11.3, 11.4), and the FREE VALUES,
opaque constants with no body, for every value the spec leaves open or keeps secret. -/
namespace Sys2Proof.Config

/-- Open jobs (Table 0.1). -/
def maxJobs : Nat := 16384
/-- Command slots (R298). -/
def commandSlots : Nat := 65536
/-- Command slots kept from BE commands (Table 11.4). -/
def commandHeadroom : Nat := 4096
/-- Loaded profiles (R36). -/
def maxProfiles : Nat := 256
/-- Storyboards and their LC headroom (Table 11.4). -/
def maxStoryboards : Nat := 16384
def storyboardHeadroom : Nat := 4096
/-- Live storyboards of one job (R199). -/
def jobStoryboards : Nat := 64
/-- Memberships, their headroom, and the memberships of one job (Table 11.4, R226). -/
def maxMemberships : Nat := 8192
def membershipHeadroom : Nat := 2048
def jobMemberships : Nat := 16
/-- Ingest handles and their headroom (Table 11.4). -/
def maxIngests : Nat := 4096
def ingestHeadroom : Nat := 1024
/-- Ingest slots of the landing area and the most one job holds (Table 11.3, R192). -/
def landingSlots : Nat := 131072
def jobLandingSlots : Nat := 4096
/-- Stage slots (Table 11.3). -/
def stageSlots : Nat := 45056
/-- Link credits of each Ethernet, host and splice port (Table 11.3). -/
def ethCredits : Nat := 2048
def hostCredits : Nat := 1024
def spliceCredits : Nat := 512
/-- Pin records (R53). -/
def pinRecords : Nat := 1048576
/-- Queue-pair contexts, cache entries and pinned entries (R345). -/
def qpContexts : Nat := 131072
def cacheEntries : Nat := 8192
def pinnedEntries : Nat := 2048
/-- Event ring records (R456). -/
def eventRing : Nat := 65536
/-- Slivers (R58). -/
def slivers : Nat := 6144
/-- Management sessions (R483). -/
def maxSessions : Nat := 8
/-- The PREFIX of CM service IDs (R341). -/
def cmService : Nat := 0x4C589410
/-- Base of the landing region (R347). -/
def landingBase : Nat := 0x0000400000000000
/-- The windows of 86,400 s (R180). -/
def windowsPerDay : Nat := 2188682

/-! ## Secrets and cryptographic functions (R386, R387, R511): uninterpreted. -/

/-- The device root secret RS (Table 14.1, R511). [DESIGN CHOICE, log 3] -/
opaque rootSecret : BitVec 256
/-- The device's certificate chain in slot 0, as GET_CERTIFICATE carries it (Table 14.7). [UNVERIFIED, log 144] -/
opaque certChain : List Byte
/-- The signature of the identity key over a report (Table 14.10, R397). [DESIGN CHOICE, log 3] -/
opaque identitySignature : List Byte → BitVec 4096
/-- SHA-512 of the public fuse items with the count of blown fuses (Table 14.8). [DESIGN CHOICE, log 3] -/
opaque fuseDigest : Nat → Digest
/-- SHA-512 of the boot ROM (Table 14.8). [DESIGN CHOICE, log 3] -/
opaque romDigest : Digest
/-- The device's DRBG (R388): landing keys (R347), starting PSNs (R342), contributions. [DESIGN CHOICE, log 3] -/
opaque drbg : Nat → Nat
/-- The fused base MAC address (R333, R481). [DESIGN CHOICE, log 3] -/
opaque baseMac : BitVec 48
/-- DSCP of CM messages, and PCP and DSCP of frames that carry no RoCEv2 packet: unstated (R335). [DESIGN CHOICE, log 172] -/
opaque cmDscp : Nat
/-- [DESIGN CHOICE, log 172] -/
opaque otherPcp : Nat
/-- [DESIGN CHOICE, log 172] -/
opaque otherDscp : Nat
/-- IDCODE's value (IEEE 1149.1; the spec gives none). [UNVERIFIED, log 106] -/
opaque idcode : U32

/-- Bytes of the slot 0 certificate chain as GET_CERTIFICATE carries it (Table 14.7; the spec gives no length).
[UNVERIFIED, log 144] -/
def certChainLen : Nat := certChain.length

/-- The digest D of this device's identity modulus, and that of a peer's (Table 14.2). [UNVERIFIED, log 145] -/
opaque identityDigest : Digest
/-- [UNVERIFIED, log 145] -/
opaque peerIdentity : Nat → Digest
/-- The bytes of a sealed Ethernet frame that a relay carries (R435). [DEDUCED, log 103] -/
opaque frameBytes : Nat → List Byte

/-! ## Values the spec leaves open. -/

/-- The retry hint of ST_BUSY (R303: how it is formed is implementation-defined). [DESIGN CHOICE, log 5] -/
opaque busyHint : Nat → Nat
/-- Where an extent of some granules goes in T1 or T2, beside the runs that are taken (Table 6.3; the spec gives no placement rule):
it counts where the granules are free. [DESIGN CHOICE, log 5, 8] -/
opaque placeGranule : List (Nat × Nat) → Nat → Nat
/-- Whether the dolly is working on an insertion when a bank is switched (R117). [DESIGN CHOICE, log 175] -/
opaque dollyBusy : Nat → Bool
/-- Journal records replayed between two acts of the reel cores (R92: the pace is not given). [DESIGN CHOICE, log 157] -/
opaque replayPace : Nat → Nat
/-- Which die row a program goes to (R260: the spec gives no rule). [DESIGN CHOICE, log 8, 34] -/
opaque placeRow : Nat → Nat
/-- Which die a journal page is written on (R266: two dies of different channels; the spec names neither).
[DESIGN CHOICE, log 169] -/
opaque journalDie : Nat → Nat
/-- How the counts of a half's symbols are brought to a total of 4,096 (R138: the rounding is not given).
[DESIGN CHOICE, log 139] -/
opaque ransFreq : List Nat → List Nat
/-- exp2, tanh and log2 of the attention tiles on FP32 bits (R238, R239), cos and sin of an FP64 angle (R141), and
ROPE_THETA^(-2i/Q) in FP64 of the base, i and Q: each counts where it keeps to its bound. [DESIGN CHOICE, log 137] -/
opaque exp2 : U32 → U32
/-- [DESIGN CHOICE, log 137] -/
opaque tanh : U32 → U32
/-- [DESIGN CHOICE, log 137] -/
opaque log2 : U32 → U32
/-- [DESIGN CHOICE, log 137] -/
opaque cosAngle : U64 → U32
/-- [DESIGN CHOICE, log 137] -/
opaque sinAngle : U64 → U32
/-- [DESIGN CHOICE, log 137] -/
opaque ropeFreq : U32 → Nat → Nat → U64
/-- Stage SRAM rows in each bank, and the row numbers of a bank's 32 spares (Table 16.5 gives neither). [UNVERIFIED, log 145] -/
opaque stageRows : Nat
/-- [UNVERIFIED, log 145] -/
opaque spareRow : Nat → Nat → Nat
/-- Which slot of an extent a NAND read could not recover (the row names the extent alone). [UNVERIFIED, log 67] -/
opaque lostSlot : Nat → Nat
/-- Granules of a DDR5 row (R161 retires rows; the spec gives no row size). [UNVERIFIED, log 66] -/
opaque rowGranules : Nat
/-- RESULT1 of EVENTS_READ when no record is retained (R310 states none). [DESIGN CHOICE, log 5; UNVERIFIED, log 93] -/
opaque emptyRingSlate : Nat → U64
/-- ARG_A of EV_DEVICE_FATAL when the entropy source fails (Table 16.9: unit-specific). [DEDUCED, log 118] -/
opaque entropyCause : Nat
/-- The HBM pseudo-channel that a granule of T1 lies in (Table 16.7; the spec gives no mapping). [UNVERIFIED, log 119] -/
opaque hbmChannel : Nat → Nat
/-- Whether an HBM pseudo-channel holds contents of a shared table (R446; the spec gives no mapping). [UNVERIFIED, log 119] -/
opaque channelTables : Nat → Bool
/-- Which core a hung Skomet step ran on (R439; the row names none). [DESIGN CHOICE, log 170] -/
opaque hungCore : Nat → Nat
/-- A profiling counter's value (Table 18.6). [DESIGN CHOICE, log 141] -/
opaque profileValue : Nat → Nat → Nat

end Sys2Proof.Config
end

