-- ==== Sys2Proof/Machine/TypesCore.lean ====
section
/-! DEFINITION. Shared data types of the machine's state: free-index pools, replies, events, sealed
messages, and everything the device can be seen to send. Types only; no behaviour. -/
namespace Sys2Proof.Machine

/-- A table's free indices (R32, R53, R189, R227): `fresh` is the lowest index never used, `freed` the
freed indices in the order in which they are reused, and `gens` the generation kept with each index
that has been used, counted modulo `genMod` at each reuse. Each index from 0 to `size` - 1. -/
structure IndexPool where
  size : Nat
  genMod : Nat
  fresh : Nat
  freed : List Nat
  gens : List (Nat × Nat)
deriving DecidableEq, Repr

/-- A pool divided into an LC reserve and a shared part (R325, R326): free units of each. -/
structure Pool where
  total : Nat
  reserveSize : Nat
  lcFree : Nat
  sharedFree : Nat
deriving DecidableEq, Repr

/-- Units taken from a pool, by the part they return to (R15, R326). -/
structure Taken where
  lc : Nat
  shared : Nat
deriving DecidableEq, Repr

/-- The status codes of Table 10.10. -/
inductive Status where
  | ok | partialDone | badOpcode | badParam | noJob | denied | busy | transition | quota | noSpace
  | dataLost | modelLost | integrity | jobsLost | cancelled | epochFull | keyStale | notReady
deriving DecidableEq, Repr

/-- RFLAGS (Table 10.7). -/
structure RFlags where
  plain : Bool
  more : Bool
  degraded : Bool
  lowerBound : Bool
  raw : Bool
  late : Bool
deriving DecidableEq, Repr

/-- A reply (Table 10.6). `sealed` is `none` for a plain reply, else the job's reply key and the lane counter in
its NONCE (R295). -/
structure Reply where
  lane : Nat
  tag : U64
  status : Status
  flags : RFlags
  result0 : U32
  result1 : U64
  slate : Nat
  sealed : Option (BitVec 256 × Nat)
deriving DecidableEq, Repr

/-- A range of blocks and the device that holds it (Table 15.5), and whether its match-out was a lower bound. -/
structure HolderRange where
  device : Nat
  firstBlock : Nat
  lastBlock : Nat
  tierHint : Nat
  hopsUsed : Nat
  lowerBound : Bool
deriving DecidableEq, Repr

/-- An event record (R456, Table 16.8) in its own fields. -/
structure EventRec where
  slate : Nat
  code : Nat
  tenant : Nat
  source : Nat
  argA : Nat
  resetGen : Nat
  argB : Int
deriving DecidableEq, Repr

/-- A message sealed with AES-256-GCM (R13, R359): the key, the nonce, the additional data and the plaintext. -/
structure SealedMsg where
  key : BitVec 256
  nonce : BitVec 96
  aad : List Byte
  plain : List Byte
deriving DecidableEq, Repr

/-- One row of a statistics payload (R309). -/
structure CounterRec where
  id : Nat
  value : Nat
deriving DecidableEq, Repr

/-- One variant line of an attestation report (Table 14.10). -/
structure ReportVariant where
  variant : Nat
  kCodec : Nat
  vCodec : Nat
  loaded : Bool
  lost : Bool
  weightsDigest : Digest
deriving DecidableEq, Repr

/-- The eight measurement registers of one snapshot (Table 14.8). -/
structure Measurements where
  rom : Digest
  loader : Digest
  firmware : Digest
  config : Digest
  fuses : Digest
  staged : Digest
  spareMap : Digest
  resetGen : Nat
deriving DecidableEq, Repr

/-- The job claims of a report (Table 14.10). -/
structure JobClaims where
  tenant : Nat
  debugConsent : Bool
  rawFallback : Bool
  classDefault : Cls
  regGen : Nat
  jobHandle : U32
  modelId : U32
  scopes : List U16
  variants : List ReportVariant
deriving DecidableEq, Repr

/-- An attestation report less its signature, which the identity key makes over all of it. -/
structure AttReport where
  stagedFlag : Bool
  debugUnlocked : Bool
  slate : Nat
  callerNonce : BitVec 256
  measurements : Measurements
  claims : Option JobClaims
  certChain : Bool
deriving DecidableEq, Repr

/-- One entry of the spare map (Table 16.6): the kind, the cause, the physical unit retired, and the spare
mapped in its place, `none` when the unit was removed (R450). -/
structure SpareLine where
  kind : Nat
  cause : Nat
  failed : Nat
  spare : Option Nat
deriving DecidableEq, Repr

/-- The contents of a reply payload (R296). -/
inductive PayloadBody where
  | addresses (as : List Nat)
  | holders (localCount : Nat) (degraded lowerBound budgetSpent : Bool) (hs : List HolderRange)
  | stats (window : Nat) (rs : List CounterRec)
  | events (es : List EventRec)
  | report (r : AttReport)
  | spareMap (left : List Nat) (ls : List SpareLine)
deriving DecidableEq, Repr

/-- A reply payload as written: FULL_LEN, WRITTEN_LEN and the entries that fit, and off the management path its seal (R296). -/
structure Payload where
  lane : Nat
  tag : U64
  fullLen : Nat
  writtenLen : Nat
  body : PayloadBody
  sealedAs : Option SealedMsg
deriving DecidableEq, Repr

/-- A responder's negative acknowledgement (R339, R347, R348, R349). [DEDUCED, log 24] -/
inductive Nak where
  | sequence | remoteAccess | invalidRequest | rnr
deriving DecidableEq, Repr

/-- The reasons of a REJ (R341). [DEDUCED, log 28] -/
inductive RejReason where
  | invalidServiceId | invalidTransportType | noQpAvailable | unacceptable
deriving DecidableEq, Repr

/-- The recovery service's answers (Table 18.8). -/
inductive RecAnswer where
  | status (cause : Nat) (fuses : Nat) (validA validB strapLow : Bool)
  | done (st : Status)
deriving DecidableEq, Repr

/-- A splice message as it leaves (Table 15.2), symbolically sealed under the link key. -/
inductive SpliceBody where
  | hello (device : Nat) (resetGen : Nat) (nonce : BitVec 256) (drDigest : Digest)
  | report (nonce : BitVec 256) (slate : Nat) (debugUnlocked : Bool) (m : Measurements)
  | key (contribution : Nat) (root : Option Nat)
  | matchIn (b : MatchInBody)
  | matchOut (b : MatchOutBody)
  | frame (lport : Nat) (toRelay : Bool) (bytes : List Byte)
deriving DecidableEq, Repr

/-- The body of a completion entry (Table 13.10): a reply, or the notice word of a TO_HOST storyboard. -/
inductive CqBody where
  | reply (r : Reply)
  | notice (w : U32)
deriving DecidableEq, Repr

/-- What a write of the device carries: nothing but its immediate, one sealed message, the first bytes of one that an abort cut
off (R213), or seal records (Table 7.2). -/
inductive WriteData where
  | none
  | sealed (m : SealedMsg)
  | part (m : SealedMsg)
  | records (bytes : List Byte)
deriving DecidableEq, Repr

/-- What carries a message on an Ethernet port: the logical port, its MAC address (R333), the PCP of the priority tag with VLAN
ID 0 when frames are tagged (R335), the DSCP, and whether the packet is marked ECT(0) (R337). -/
structure Frame where
  lport : Nat
  mac : BitVec 48
  tag : Option Nat
  dscp : Nat
  ect : Bool
deriving DecidableEq, Repr

/-- Everything the device sends, in the order in which it sends it: the model's own record. [DESIGN CHOICE, log 4] -/
inductive Output where
  | framed (f : Frame) (o : Output)
  | reply (r : Reply)
  | payload (p : Payload)
  | rdmaWrite (qpn : Nat) (rkey : U32) (addr : Nat) (len : Nat) (imm : Option U32) (data : WriteData)
  | rdmaReadRequest (qpn : Nat) (rkey : U32) (addr : Nat) (len : Nat)
  | rdmaReadResponse (qpn : Nat) (psn : BitVec 24) (data : List Byte)
  | rdmaAck (qpn : Nat) (psn : BitVec 24)
  | rdmaNak (qpn : Nat) (psn : BitVec 24) (k : Nak)
  | retransmit (qpn : Nat) (psn : BitVec 24)
  | cnp (qpn : Nat)
  | pfc (port : Nat) (prios : Byte) (xoff : Bool)
  | cmRep (qpn : Nat) (startPsn : BitVec 24)
  | cmRej (lport : Nat) (reason : RejReason)
  | cmDreq (qpn : Nat)
  | cmDrep (qpn : Nat)
  | arpReply (lport : Nat) (ip : U32)
  | neighborAdvert (lport : Nat) (ip : BitVec 128)
  | echoReply (lport : Nat)
  | ethFrame (lport : Nat) (bytes : List Byte)
  | msix (port link fn vector : Nat)
  | completion (port ring index : Nat) (phase : Bool) (body : CqBody) (sqHead : Nat)
  | hostWrite (port ring : Nat) (offset : Nat) (len : Nat) (data : WriteData)
  | hostRead (port ring : Nat) (offset : Nat) (len : Nat)
  | configResponse (port link fn : Nat) (retry : Bool)
  | doeDiscovery (port : Nat) (index : Byte) (vendor : Nat) (protocol : Nat) (next : Nat)
  | spdmVersion (port : Nat)
  | spdmCapabilities (port : Nat)
  | spdmAlgorithms (port : Nat) (selected : Bool)
  | spdmDigests (port : Nat)
  | spdmCertificate (port : Nat) (slot offset len : Nat)
  | spdmChallenge (port : Nat) (nonce : BitVec 256) (m : Measurements)
  | spdmMeasurements (port : Nat) (index : Nat) (nonce : BitVec 256) (m : Measurements)
  | spdmError (port : Nat) (code : Nat)
  | poisonList (port : Nat) (lines : List Nat)
  | mailbox (port : Nat) (opcode : Nat) (granules : Nat) (records : Nat)
  | mailboxUnsupported (port : Nat) (opcode : U16)
  | cxlData (port : Nat) (line : Nat) (data : Option (List Byte))
  | cxlWriteDone (port : Nat) (line : Nat)
  | unsupportedRequest (port : Nat)
  | bisnpInv (port : Nat) (line : Nat)
  | recovery (a : RecAnswer)
  | idcodeRead (v : U32)
  | splice (port : Nat) (srcDevice dstDevice relays probes regGen : Nat) (be hi : Bool) (counter : Nat) (b : SpliceBody)
  | tcpReset
  | tcpAccept (session : Nat)
  | tlsAlert (session : Nat)
  | dhcpRequest (port : Nat)
deriving DecidableEq, Repr

/-- How a reset was caused (Table 17.4). -/
inductive ResetCause where
  | powerOn | sag | overVoltage | thermal | clock | pin | command | fatal
deriving DecidableEq, Repr

end Sys2Proof.Machine
end

