-- ==== Sys2Proof/Machine/TypesIndex.lean ====
section
/-! DEFINITION. Data types of the prefix index, the match array, the pin records and the lookups
(chapters "Prefix index and the reel array" and "The match array"). Types only; no behaviour. -/
namespace Sys2Proof.Machine

/-- One page of a node (R47, R164, Table 6.4): its layer, its body in T1 form, its page write number, the
epoch its seal was computed under, the seal and the TILE_CHECK of each tile. [DESIGN CHOICE, log 7] -/
structure Page where
  layer : Nat
  body : List Byte
  writeNo : Nat
  sealEpoch : Nat
  pageSeal : BitVec 128
  tileChecks : List U32
deriving DecidableEq, Repr

/-- The dirty state of one layer group (R169, Table 3.1 DIRTY). -/
inductive Dirty where
  | clean | t1 | t2
deriving DecidableEq, Repr

/-- One layer group's extent (Tables 3.1 and 6.3): where each tier holds it (PRESENCE is which of the three is some), its DIRTY
bits, MOVING, and whether the CHECK of its extent table entry matches. T3_LOC is flash slot × 32 + granule. Its identifier in
LOCATOR is 8 × node + group (Table 6.2). [DESIGN CHOICE, log 7] -/
structure GroupSt where
  t1 : Option Nat
  t2 : Option Nat
  t3 : Option Nat
  dirty : Dirty
  moving : Bool
  entryOk : Bool
deriving DecidableEq, Repr

/-- An index node (Table 3.1), with the model's own notes: `keyed` (R60), the registration generation and MODEL_ID under which
it was keyed (R27, R146), the pages of its extents, whether CHECK matches its contents (R62), the profile fields of its variant
(R146), the TILES of its page headers, whether it changed since its chunk was last checkpointed (R91), and whether its core
frees it once INVALIDATED arrives (R64). [DESIGN CHOICE, log 7] -/
structure Node where
  ptr : Nat
  key : BlockKey
  parentLo : U64
  epoch : Nat
  variant : Nat
  tenant : Nat
  scope : U16
  valid : Bool
  committed : Bool
  evicting : Bool
  purged : Bool
  persistHint : Bool
  lost : Bool
  blockNo : Nat
  pinCount : Nat
  score : Nat
  lastWindow : Nat
  lastReq : Nat
  groups : List GroupSt
  entryPresent : Bool
  matchPriority : Nat
  insertSeq : Nat
  pinGen : Nat
  checkOk : Bool
  keyed : Bool
  regGen : Nat
  modelId : U32
  layers : Nat
  desc : ProfileDesc
  tiles : Nat
  pages : List Page
  changed : Bool
  dying : Bool
deriving DecidableEq, Repr

/-- What a probe's HIT returns (R102). -/
structure Hit where
  ptr : Nat
  priority : Nat
  hint : Nat
deriving DecidableEq, Repr

/-- What a sliver's core is asked to do (R59). `slot` names the command slot that waits for the answer, `run` the run of keys that
does, `hit` what the match array returned. `insert` and `skip` are a commit's requests for a new block and for one found usable at
INGEST_OPEN (R83, R194), `hint` and `purge` those of HINT, EVICT, a purge or a failed commit (R184, R185, R85), `dropCopy` and
`dropNode` those of the tier manager (R165, R176). -/
inductive SliverReq where
  | insert (slot : Nat) (block : Nat)
  | skip (slot : Nat) (block : Nat)
  | pin (run : Nat) (block : Nat) (key : BlockKey) (tenant : Nat) (mask : Nat) (hit : Option Hit)
  | pinDrop (ptr : Nat)
  | score (ptr : Nat)
  | confirm (run : Nat) (block : Nat) (key : BlockKey) (tenant : Nat) (mask : Nat) (hit : Option Hit)
  | stateCommit (move : Nat)
  | hint (ptr : Nat) (slot : Nat) (arg : Nat)
  | purge (ptr : Nat) (slot : Option Nat)
  | dropCopy (ptr : Nat) (grp : Nat) (tier : Tier) (slot : Option Nat)
  | dropNode (ptr : Nat)
deriving DecidableEq, Repr

/-- A request: its class, the sequence number that its core gives it when it takes it, and what is asked (R93). -/
structure SliverEntry where
  cls : Cls
  seq : Nat
  req : SliverReq
deriving DecidableEq, Repr

/-- A dolly request (Table 4.4), in order of arrival. -/
inductive DollyReq where
  | insert (ptr : Nat) (keyLo : U64) (tenant priority tierHint : Nat)
  | remove (ptr : Nat) (keyLo : U64) (tenant : Nat)
  | hint (ptr : Nat) (keyLo : U64) (tierHint : Nat)
  | repair (bank pos : Nat)
  | sweep (tenant : Nat)
deriving DecidableEq, Repr

/-- One sliver's core: its LC and BE queues, the floor counter k (R320), its log ring of 64 (R93), its
request and insertion sequence numbers, the match-array refills asked in this window (R119), the chunks of 256 nodes that it keeps
free (R63), and its outbox of dolly requests (R109). -/
structure Sliver where
  num : Nat
  lcq : List SliverEntry
  beq : List SliverEntry
  k : Nat
  log : List SliverEntry
  nextSeq : Nat
  insertSeq : Nat
  refills : Nat
  freeChunks : List Nat
  outbox : List DollyReq
deriving DecidableEq, Repr

/-- One index journal record (R89). `frees` lists the flash granules (first, count) that FREE records give up
once this record has been written to T3 (R90); `writeNo` is the last WRITE_NO before the pages of a re-seal. -/
inductive IndexRec where
  | insert (n : Node)
  | remove (ptr : Nat) (frees : List (Nat × Nat))
  | presence (ptr : Nat) (group : Nat) (t3 : Option Nat) (frees : List (Nat × Nat))
  | epochChange (ptr : Nat) (epoch : Nat) (writeNo : Nat) (groups : List GroupSt) (frees : List (Nat × Nat))
deriving DecidableEq, Repr

/-- A pin record (R53, R56, R80): `blocks` is N, `parent` the record a FORK child reaches blocks 1 to
`parentBlocks` through, `pins` the node pointers of the blocks it pins directly, in block order, `refs`
the storyboards, sessions and children that hold it. -/
structure PinRecord where
  record : Nat
  gen : Nat
  job : Nat
  jobGen : Nat
  scope : U16
  blocks : Nat
  lastKey : BlockKey
  parent : Option Nat
  parentBlocks : Nat
  pins : List Nat
  refs : Nat
  released : Bool
  lowTier : Nat
deriving DecidableEq, Repr

/-- How one probed block of a run stands (R68 to R70, R103): `confirming` after its probe, with what the probe hit; `pinning`
while its core is asked for the pin; `good` with its node, the hint, and whether a core has confirmed it. -/
inductive ProbeState where
  | waiting | inFlight
  | confirming (hit : Option Hit)
  | pinning
  | good (ptr : Nat) (tierHint : Nat) (confirmed : Bool)
  | bad
deriving DecidableEq, Repr

/-- Which command a run serves. -/
inductive RunKind where
  | lookup | lookupPin | extend (record : Nat) (fork : Bool) | ingestOpen
deriving DecidableEq, Repr

/-- A lookup in progress (R66 to R72): the tokens not yet hashed, the last key of the chain so far, the keys, the state of each
probed block from `firstBlock` on, the blocks that may be probed, and the complete blocks of the input. `run` tells the run from
every other (R103); `isOver` is set once it has ended while its hasher still completes the chain (R68). -/
structure LookupCtx where
  run : Nat
  isOver : Bool
  slot : Nat
  kind : RunKind
  tenant : Nat
  model : U32
  scope : U16
  mask : Nat
  hopBudget : Nat
  firstBlock : Nat
  blockTokens : Nat
  tokensLeft : List U64
  lastKey : BlockKey
  keys : List BlockKey
  probes : List ProbeState
  maxBlocks : Nat
  total : Nat
deriving DecidableEq, Repr

/-- A continuation across splice ports (R432, R433): the last match-in sent covers `sentCount` keys from block
`sentFrom` + 1 on; `keys` are those after the local run, `lastKey` the key of its last block; `adds` is set for LOOKUP,
whose RESULT0 counts the continued blocks; `run` is the local run that ended, with its accept mask (R123). -/
structure Continuation where
  lookupId : U64
  slot : Nat
  localCount : Nat
  sentFrom : Nat
  sentCount : Nat
  keys : List BlockKey
  lastKey : BlockKey
  result1 : U64
  adds : Bool
  hopBudget : Nat
  run : LookupCtx
  holders : List HolderRange
  budgetSpent : Bool
deriving DecidableEq, Repr

/-- A match-array entry (Table 4.2): its bank and position, its fields, and the stored parity bit of each half (R97). `bank` is a
logical bank; a physical bank u out of service stands as 16,384 + u. [DEDUCED, log 153] -/
structure MatchEntry where
  bank : Nat
  pos : Nat
  valid : Bool
  priority : Nat
  tenant : Nat
  keyLo : U64
  nodePtr : Nat
  tierHint : Nat
  parityA : Bool
  parityB : Bool
deriving DecidableEq, Repr

/-- A dolly report on its way to the owning core (Table 4.4). -/
inductive DollyReport where
  | valid (ptr : Nat)
  | declined (ptr : Nat)
  | cancelled (ptr : Nat)
  | displaced (ptr : Nat)
  | invalidated (ptr : Nat)
  | repaired (ptr : Nat) (bank : Nat) (tagLo : Nat)
deriving DecidableEq, Repr

/-- A probe waiting for or inside its section (R101, R102). -/
structure Probe where
  run : Nat
  block : Nat
  keyLo : U64
  tenant : Nat
  mask : Nat
deriving DecidableEq, Repr

/-- One section of the match array: its probe queue (R121) and its dolly queue (R109). -/
structure Section where
  num : Nat
  probes : List Probe
  requests : List DollyReq
deriving DecidableEq, Repr

/-- The match array's whole state (R96 to R118). `entries` lists positions ever written since the last clear; `absent` the
logical banks with no spare (R118); `bankMap` the logical banks moved to a spare; `errors` the scan's findings of the last 256
windows (R116); `scanPos` the next position (R113), `refilled` the slivers whose nodes have had their entries asked for since
the last clear (R119). -/
structure MatchArray where
  entries : List MatchEntry
  sections : List Section
  reports : List DollyReport
  absent : List Nat
  bankMap : List (Nat × Nat)
  errors : List (Nat × Nat × Nat)
  repaired : List (Nat × Nat)
  scanPos : Nat
  refilled : List Nat
deriving DecidableEq, Repr

end Sys2Proof.Machine
end

