-- ==== Sys2Proof/Machine/TypesWork.lean ====
section
/-! DEFINITION. Data types of model profiles, ingests, storyboards, attention, tier moves, flash media and
engine units (chapters "KV codec" to "Flash media management" and "Jobs, classes and engine sharing").
Types only; no behaviour. -/
namespace Sys2Proof.Machine

/-- A weights record's copies in the tiers (R153, R155). -/
structure WeightsCopy where
  record : WeightsRecord
  t1 : Bool
  t2 : Bool
  t3 : Bool
deriving DecidableEq, Repr

/-- A loaded model profile and its slot (R36, R148, R151): `users` counts the storyboards, memberships
and ingests that hold it; `unloading` is set by MODEL_UNLOAD; `key` is the model key in its crypto slot (R414), none where the load
transported none (R150). -/
structure Profile where
  slot : Nat
  tenant : Nat
  desc : ProfileDesc
  variant : Nat
  preference : Nat
  weights : List WeightsCopy
  users : Nat
  lost : Bool
  unloading : Bool
  sealEpoch : Nat
  loadSeq : Nat
  key : Option (BitVec 256)
deriving DecidableEq, Repr

/-- An entry of the persistent variant table (R146). `desc` carries the fields that R45 compares. -/
structure VariantEntry where
  tenant : Nat
  variant : Nat
  preference : Nat
  desc : ProfileDesc
deriving DecidableEq, Repr

/-- A T3 copy of codec weights (R150, R256). -/
structure WeightsT3 where
  tenant : Nat
  desc : ProfileDesc
  variant : Nat
  records : List WeightsRecord
  sealEpoch : Nat
  unloadedAt : Option Nat
deriving DecidableEq, Repr

/-- One page being filled by an ingest (R187, R188): the ranges of tokens accepted for each (head, half),
the encoded bytes with their offset, whether its input was rejected under R127, and whether it stands sealed in T1. -/
structure IngestPage where
  block : Nat
  layer : Nat
  accepted : List (Nat × Nat × Nat × Nat)
  body : List Byte
  rejected : Bool
  writeNo : Option Nat
  epoch : Nat
  pageSeal : BitVec 128
  tileChecks : List U32
  stored : Bool
deriving DecidableEq, Repr

/-- How far an ingest record is on its way into its page (Table 6.10): it waits, it is opened, its tokens are encoded. -/
inductive RecordStep where
  | waiting | opening | encoding
deriving DecidableEq, Repr

/-- An ingest record on its way into its page: the ingest, the command slot of its pull or the landing slot that brought it, and the
stage slots that its opened payload fills. -/
structure Incoming where
  id : Nat
  ingest : Nat
  cls : Cls
  pull : Option Nat
  landing : Option Nat
  record : IngestRecord
  step : RecordStep
  held : Taken
deriving DecidableEq, Repr

/-- How far an ingest has gone (Table 6.10): it takes records, its commit has been accepted, its blocks are being
inserted, the blocks after a failed insert are being removed again (R85). -/
inductive IngestPhase where
  | taking | committing | inserting | undoing
deriving DecidableEq, Repr

/-- An open ingest (R189). `newBlocks` is B, `skip` SKIP, `base` N; `keys` the keys of blocks 1 to B after the base; `places`
where each extent of the new blocks lies in T1, as (block, group, first granule, granules); `inserts` what each core answered to
its insert or SKIP request (R83). -/
structure Ingest where
  index : Nat
  gen : Nat
  job : Nat
  slot : Nat
  cls : Cls
  scope : U16
  variant : Nat
  baseRecord : Option Nat
  base : Nat
  newBlocks : Nat
  skip : Nat
  keys : List BlockKey
  baseKey : BlockKey
  pinOnCommit : Bool
  persist : Bool
  reserved : Nat
  places : List (Nat × Nat × Nat × Nat)
  phase : IngestPhase
  pages : List IngestPage
  inserts : List (Nat × Option Nat)
  failedAt : Option Nat
  dupPtrs : List Nat
deriving DecidableEq, Repr

/-- Who holds a granted landing slot (R192, R227, R347). -/
inductive SlotHolder where
  | ingest (index : Nat) | query (membership : Nat) (querySlot : Nat)
deriving DecidableEq, Repr

/-- A granted landing slot: its number, its job, its holder, whether it came from the LC reserve, and whether it is consumed
while its record waits in it (R177). -/
structure LandingSlot where
  num : Nat
  job : Nat
  holder : SlotHolder
  fromLc : Bool
  consumed : Bool
deriving DecidableEq, Repr

/-- Storyboard states (Table 7.5); settled and cancelled ones have left the table. -/
inductive SbState where
  | built | priming | running | draining
deriving DecidableEq, Repr

/-- What one message of a layer is (R201 to R206): a data message in the output form or in raw form, with its number, or
the seal records. -/
inductive MsgKind where
  | data (i : Nat) | raw (i : Nat) | records
deriving DecidableEq, Repr

/-- One sealed message of a storyboard's layer: the tile it belongs to, the nonce counter of its seal, the message
as it was sealed, whether it waits on its queue pair, and whether it has been transmitted. -/
structure SbMsg where
  kind : MsgKind
  tile : Nat
  counter : Nat
  sealed : Option SealedMsg
  queued : Bool
  sent : Bool
deriving DecidableEq, Repr

/-- The work of one layer of a storyboard (R206, R211, R217, R219): the tiles sent to the first engine, those
decoded or rebuilt, the stage slots that tiles hold, and the messages sealed so far. -/
structure LayerWork where
  layer : Nat
  started : List Nat
  decoded : List Nat
  held : List (Nat × Taken)
  msgs : List SbMsg
  notified : Bool
  late : Bool
  raw : Bool
deriving DecidableEq, Repr

/-- A live storyboard (R197, R210 to R213). `opened` is set once its command has run: until then the storyboard stands
in the table, with its block table unread. `slots` names the profile slot of each block, `current` is the C of
R211, `cancels` the command slots of the DELIVER_CANCELs that wait for its end; `begun` is set once its first unit has been
dispatched (Table 7.6). -/
structure Storyboard where
  id : Nat
  slot : Nat
  job : Nat
  cls : Cls
  prm : DeliverParams
  record : Nat
  target : Nat
  toHost : Bool
  opened : Bool
  begun : Bool
  blockTable : List U64
  ptrs : List Nat
  slots : List Nat
  firstLayer : Nat
  lastLayer : Nat
  state : SbState
  enable : Nat
  current : Nat
  abort : Option Status
  layers : List LayerWork
  ackedBytes : Nat
  lateSeen : Bool
  rawSeen : Bool
  notices : Nat
  lastNotice : Option Nat
  cancels : List Nat
  reserved : Nat
deriving DecidableEq, Repr

/-- An attention membership (R225 to R229). -/
structure Membership where
  index : Nat
  gen : Nat
  job : Nat
  cls : Cls
  prm : AttendOpenParams
  record : Nat
  tenant : Nat
  ptrs : List Nat
  slots : List Nat
  group : Nat
  firstLayer : Nat
  lastLayer : Nat
  lastAttend : Option Nat
  broken : Bool
  closeSlot : Option Nat
deriving DecidableEq, Repr

/-- The running partial (m, l, acc) of one row over one or more spans (R238, R239), FP32 bit patterns. -/
structure Partial where
  row : Nat
  span : Nat
  m : U32
  l : U32
  acc : List U32
  overflow : Bool
deriving DecidableEq, Repr

/-- One ATTEND in a batch (R231, R246, R247). `gone` marks one that ended after its batch had closed: its rows
keep their places; `held` are the stage slots of its sealed result until that is transmitted (R15). -/
structure AttendCtx where
  slot : Nat
  membership : Nat
  prm : AttendParams
  entries : Nat
  late : Bool
  acked : Bool
  gone : Bool
  held : Taken
deriving DecidableEq, Repr

/-- A batch of ATTENDs for one layer (R246): open until it closes, then its units run. `started` lists the
(head, span) pairs begun, `staged` the stage slots that their decoded tiles hold, `spansDone` the units ended
as (head, span, row group), `rowsDone` the (head, row group) pairs whose partials are merged. -/
structure Batch where
  id : Nat
  group : Nat
  layer : Nat
  members : List AttendCtx
  isOpen : Bool
  started : List (Nat × Nat)
  staged : List (Nat × Nat × Taken)
  spansDone : List (Nat × Nat × Nat)
  rowsDone : List (Nat × Nat)
  partials : List Partial
deriving DecidableEq, Repr

/-- Why a mover carries an extent (Table 6.5, R182, R183, R248). -/
inductive MoveWhy where
  | promote | evict | demand | reseal | mask | admission | rowRetire
deriving DecidableEq, Repr

/-- The steps of a transfer (R168, R172, R173): movers carry the extent, a codec engine applies or removes the lossless stage, a
crypto engine verifies the seals as it encrypts or decrypts, and a copy for T3 is programmed. -/
inductive MoveStep where
  | carry | code | crypt | program
deriving DecidableEq, Repr

/-- A transfer of an extent between tiers (R172): `left` units, or flash slots to program, of its present step are
still to run; `loc` is where the copy goes. -/
structure Move where
  id : Nat
  ptr : Nat
  group : Nat
  src : Tier
  dst : Tier
  why : MoveWhy
  slot : Option Nat
  cls : Cls
  step : MoveStep
  left : Nat
  granules : Nat
  loc : Nat
  failed : Bool
  escalated : Bool
deriving DecidableEq, Repr

/-- A message that the device sends as requester on a queue pair or writes into a bounce region, and what its acknowledgement
retires (R350, R351): a storyboard's message, an ATTEND's result, a READ for a command's descriptors or for an INGEST_PULL, or
the `n`th message of the queue pair that the event before it formed whole: a reply, a reply payload, a settle or an abort
notice. `bytes` counts data payload. -/
inductive SentWhat where
  | sbMsg (sb layer : Nat) (kind : MsgKind) (bytes : Nat)
  | formed (n : Nat) (cls : Cls) (o : Output)
  | result (slot : Nat)
  | readDesc (slot : Nat) (rkey : U32) (addr : Nat)
  | readPull (slot : Nat) (rkey : U32) (addr : Nat)
deriving DecidableEq, Repr

/-- The engine kinds that run units (Table 11.2); port engines and key hashers each have a queue of their own, and the control
complex has the dispatch queues of woken commands (R18). -/
inductive EngineKind where
  | tile | codec | crypto | mover | control
  | hasher (n : Nat)
  | rdma (port : Nat)
  | host (port : Nat)
  | splice (port : Nat)
deriving DecidableEq, Repr

/-- The work of one engine unit. `left` counts the bytes of a message still to send, or the units of a weights record still to
carry or encrypt, this unit's included; `stageTile` carries stored bytes from T1 into stage slots (R172), `resend` transmits a
message again from its first PSN (R351), `openRecord` to `storeIngest` take an ingest record to its page (Table 6.10, Table
1.5); `discard` is a running unit whose output nothing wants any more, `step` a Skomet step that takes a woken command on (R18).
-/
inductive UnitWork where
  | hash (run : Nat) (blocks : Nat)
  | move (id : Nat)
  | moveCode (id : Nat)
  | moveCrypt (id part : Nat)
  | weightsMove (profileSlot layer : Nat) (src dst : Tier) (left : Nat)
  | weightsCrypt (profileSlot layer : Nat) (src dst : Tier) (left : Nat)
  | decode (sb layer tile part : Nat)
  | project (sb layer tile part : Nat)
  | stageTile (sb layer tile part : Nat)
  | openRecord (id : Nat)
  | encode (id part : Nat)
  | sealIngest (ingest block layer part : Nat)
  | storeIngest (ingest block layer part : Nat)
  | crypt (sb layer tile part : Nat)
  | send (qpn : Nat) (what : SentWhat) (left : Nat)
  | resend (qpn : Nat) (psn : BitVec 24) (what : SentWhat) (left : Nat)
  | hostSend (ring : Nat) (what : SentWhat) (left : Nat)
  | hostRead (ring slot : Nat) (offset left : Nat)
  | span (batch head span group : Nat)
  | merge (batch head group step : Nat)
  | decodeSpan (batch head span part : Nat)
  | projectSpan (batch head span part : Nat)
  | sealResult (slot part : Nat)
  | discard
  | step (slot : Nat)
  | spliceMsg (src dst relays probes regGen : Nat) (b : SpliceBody) (left : Nat)
deriving DecidableEq, Repr

/-- An engine unit (R322): its class, its work, the stage slots and link credits it must take before it starts, those it holds,
how often it was rerun (R440), the instance that it is bound to (R244), and the codec weights that it reads, as (profile slot,
layer, head) (R153). -/
structure EUnit where
  cls : Cls
  work : UnitWork
  slots : Nat
  credits : Nat
  held : Taken
  creditsHeld : Taken
  reruns : Nat
  bound : Option Nat
  weights : Option (Nat × Nat × Nat)
deriving DecidableEq, Repr

/-- An engine kind's queues and instances (R319, R320, R322). `active` instances serve commands. -/
structure Engine where
  active : List Nat
  lcq : List EUnit
  beq : List EUnit
  k : Nat
  busy : List (Nat × EUnit)
deriving DecidableEq, Repr

/-- What one flash slot's map entry says (Table 9.2); `none` means unmapped. -/
structure MapEntry where
  slot : Nat
  live : Nat
  place : Option (Nat × Nat × Nat)
  seqNo : Nat
deriving DecidableEq, Repr

/-- A slot being assembled by the packer (R257, R258): the granules placed in it, those of each move, whether a cut marker has
passed since, and the stage slot that it is assembled in. -/
structure Assembling where
  slot : Nat
  used : Nat
  parts : List (Nat × Nat)
  due : Bool
  held : Taken
deriving DecidableEq, Repr

/-- The write streams (R260). -/
inductive Stream where
  | host | gc | metaStream
deriving DecidableEq, Repr

/-- The states of a band (Table 9.5), and that of a band whose blocks are being erased. -/
inductive BandState where
  | free | reserved | openBand | closed | erasing
deriving DecidableEq, Repr

/-- The FTL's account of one band (R259, R260, R272, R274): its row and index, its state, stream and write
pointer in pages, its erase count, the window that closed it, the reads since its erase, its absent
members (channel, plane), and whether a patrol read needed 4 or more retry steps. -/
structure Band where
  row : Nat
  index : Nat
  state : BandState
  stream : Stream
  writePtr : Nat
  eraseCount : Nat
  closedAt : Nat
  reads : Nat
  absent : List (Nat × Nat)
  weak : Bool
  reservedFlushed : Bool
deriving DecidableEq, Repr

/-- What a NAND program of the three streams writes (Table 9.3 KIND): a slot's data, a copy of a page with the content
sequence number and the place of its source, or a stripe's parity. -/
inductive ProgKind where
  | data (slot : Nat) | parity
  | gcCopy (slot : Nat) (sourceSeq : Nat) (source : Nat × Nat × Nat)
deriving DecidableEq, Repr

/-- The tag of a programmed data page (Table 9.3): its slot, its place, its content sequence number, its WRITE_SEQ. -/
structure PageTag where
  slot : Nat
  place : Nat × Nat × Nat
  contentSeq : Nat
  writeSeq : Nat
deriving DecidableEq, Repr

/-- A NAND program (R263): its stream, its band (row and index) and place (die, plane, page) once it has them,
its WRITE_SEQ, whether a trim of its slot waits for it (R275), the granules of each move in it, and the stage slot
that holds its data. -/
structure Program where
  id : Nat
  kind : ProgKind
  stream : Stream
  band : Option (Nat × Nat)
  place : Nat × Nat × Nat
  seqNo : Nat
  trimmed : Bool
  parts : List (Nat × Nat)
  held : Taken
deriving DecidableEq, Repr

/-- What the NAND channels are asked to do (Table 9.10): to read an extent, to program a page, to erase a band, to write a journal
flush. -/
inductive NandJob where
  | read (ptr grp : Nat)
  | program (id : Nat)
  | erase (row index : Nat)
  | flush
deriving DecidableEq, Repr

/-- An operation of the NAND channels (R280): the order of its request, the dies it needs, whether it has been issued, and the
dies on which a read has suspended it, once for each time. -/
structure NandOp where
  seq : Nat
  job : NandJob
  dies : List Nat
  issued : Bool
  cuts : List Nat
deriving DecidableEq, Repr

/-- A journal record (Table 9.5). `map` carries the content sequence number of the page's tag, `free` the WRITE_SEQ at
the time of the record. -/
inductive JournalRec where
  | map (slot : Nat) (place : Nat × Nat × Nat) (contentSeq : Nat)
  | alloc (slot granule count : Nat)
  | free (slot granule count seq : Nat)
  | segment (segment : Nat)
  | band (row index : Nat) (stream : Stream) (state : BandState) (writePtr : Nat)
  | retire (die plane block cause : Nat)
  | counters (writeSeq writeNo : Nat) (credit : Int) (theta : Nat)
  | index (r : IndexRec)
deriving DecidableEq, Repr

/-- A directory image and its anchor (R269). -/
structure DirectoryImage where
  slate : Nat
  window : Nat
  writeSeq : Nat
  map : List MapEntry
  bands : List Band
  retired : List (Nat × Nat × Nat)
deriving DecidableEq, Repr

end Sys2Proof.Machine
end

