-- ==== Sys2Proof/Machine/TypesPlat.lean ====
section
/-! DEFINITION. Data types of jobs and commands, the network and host ports, power and start-up, security,
management, splice ports and faults. Types only; no behaviour. -/
namespace Sys2Proof.Machine

/-- The job counters of Table 10.13, in the order of their IDs 0x0001 to 0x000C. -/
structure JobCounters where
  commandsAccepted : Nat
  commandsFailed : Nat
  authFailures : Nat
  busyReplies : Nat
  lateLayers : Nat
  rawLayers : Nat
  cueDiscards : Nat
  ingestDuplicates : Nat
  ingestRejects : Nat
  slotDiscards : Nat
  codecSaturations : Nat
  overflowRows : Nat
deriving DecidableEq, Repr

/-- A job's session keys (R29, Table 14.2): the command key, the reply key and the link key. -/
structure JobKeys where
  command : BitVec 256
  reply : BitVec 256
  link : BitVec 256
deriving DecidableEq, Repr

/-- A job table entry in use (R29, Table 2.1, Table 11.1); `closing` is set from JOB_CLOSE's acceptance. -/
structure Job where
  index : Nat
  gen : Nat
  tenant : Nat
  closing : Bool
  closeSlot : Option Nat
  scopes : List U16
  clsDefault : Cls
  debugConsent : Bool
  rawFallback : Bool
  modelId : U32
  pinQuota : Nat
  keys : JobKeys
  landingKey : U32
  linkCounter : Nat
  lanesEver : List Nat
  cancelledSinceClose : Nat
  counters : JobCounters
  snapshot : JobCounters
deriving DecidableEq, Repr

/-- A bound lane (R288, R291, R295): its job, the last counter accepted, and the device's reply counter. -/
structure Lane where
  lane : Nat
  job : Nat
  lastCounter : Nat
  txCounter : Nat
deriving DecidableEq, Repr

/-- What a command in flight waits for (R17, R300); `busy` while its own work runs. -/
inductive Wait where
  | busy | fence | cqEntry | deliverEntries | quotaWindow | storyboard | ingestIndex | t1Space
  | descRead | pulls | purgeOrder | maintenance | windowBusy | reads | gather | slivers | storyboardEnd
  | attendDrain | jobDrain | continuation | fencing | reset | moves
deriving DecidableEq, Repr

/-- A command in flight: its slot, the command itself, whose it is, its class (R302), where it replies, when it was accepted,
what it waits for, the record it holds a reference on from its acceptance (R56), the slots of the profiles it holds from its
acceptance (R151), and the counts that a command keeps of its own work, `moved` the extents that an EVICT has moved (R182);
`fetched` is set once its descriptors' data has arrived, `phase` counts the stages of its work. -/
structure Cmd where
  slot : Nat
  instr : Instr
  tenant : Nat
  job : Option Nat
  lane : Nat
  replyLane : Nat
  tag : U64
  cls : Cls
  acceptSlate : Nat
  fence : Bool
  wait : Wait
  late : Bool
  count : Nat
  dups : Nat
  rejects : Nat
  left : Nat
  payloadCap : Option Nat
  ref : Option Nat
  holds : List Nat
  fetched : Bool
  phase : Nat
  moved : List (Nat × Nat)
deriving DecidableEq, Repr

/-- One row of the opcode index (Table 10.11): the opcode, whether the PCIe and RDMA paths take it, whether
the management path does, whether an auditor may issue it (R297), and whether it is served before step 3
of Table 3.5. -/
structure OpInfo where
  opcode : Nat
  onJob : Bool
  onMgmt : Bool
  auditor : Bool
  early : Bool
deriving DecidableEq, Repr

/-- A tenant's use in the current window and at the last marker (Tables 11.6 and 11.7). -/
structure TenantUse where
  tenant : Nat
  ingestBytes : Nat
  t3Bytes : Nat
  attendUnits : Nat
  refusals : Nat
  parks : Nat
  snapshot : List CounterRec
deriving DecidableEq, Repr

/-- A tenant's key epochs (R402): the live counters from `oldest` to `newest`. -/
structure Epochs where
  tenant : Nat
  oldest : Nat
  newest : Nat
deriving DecidableEq, Repr

/-- A registry entry (Table 18.3), with what the next cut marker brings into force (R312, R321). -/
structure Registry where
  tenant : Nat
  policy : Nat
  registered : Bool
  withdrawn : Bool
  regGen : Nat
  keyDigest : Digest
  quotas : Quotas
  livePolicy : Nat
  liveQuotas : Quotas
deriving DecidableEq, Repr

/-- A PORT_CONFIG block (Table 10.17). -/
structure PortCfg where
  mode : Nat
  adminDown : Bool
  pfcEnable : Bool
  ecnEnable : Bool
  cxlEnable : Bool
  priorities : Byte
deriving DecidableEq, Repr

/-- A route entry (Table 10.18). -/
structure Route where
  dest : Nat
  outPort : Nat
  valid : Bool
deriving DecidableEq, Repr

/-- The configuration record (Table 18.2). -/
structure ConfigRecord where
  seq : Nat
  anchor : Digest
  overprovision : Nat
  debugState : Nat
  beFloor : Nat
  lcReserve : Nat
  deviceNumber : Nat
  dailyBudget : Nat
  ports : List PortCfg
  windows : List Nat
  routes : List Route
  tenants : List Registry
deriving DecidableEq, Repr

/-- A logical Ethernet port (R333, Table 12.1) with its fifteen counters in their listed order. -/
structure LogicalPort where
  num : Nat
  present : Bool
  up : Bool
  ipv4 : Option U32
  ipv6 : List (BitVec 128)
  counters : List Nat
deriving DecidableEq, Repr

/-- A physical Ethernet port's receive buffer and flow control (R336): the bytes it held when last seen, its XOFF state,
and the priorities that the peer has paused. -/
structure EthPort where
  num : Nat
  rxBytes : Nat
  xoff : Bool
  paused : List Nat
deriving DecidableEq, Repr

/-- A sent message's PSN range and bytes, and what acknowledging it retires. -/
structure Sent where
  firstPsn : BitVec 24
  lastPsn : BitVec 24
  bytes : Nat
  what : SentWhat
deriving DecidableEq, Repr

/-- The life of a queue pair (R341 to R343, R356); `leaving` once its DREP has come or its time is over, until nothing
references it. -/
inductive QpState where
  | awaitingRtu | ready | error | disconnecting | leaving
deriving DecidableEq, Repr

/-- A queue-pair context (R342, R344, R338). Rates are in Gb/s × 2^16, alpha in units of 2^-16; `localIp` is the
address that the partner named; `held` are the packets that wait for the context, with their bytes (Table 12.4); `formed` counts the
replies, payloads and notices formed for it, and `leaveDue` is set while its DREQ waits for the last of them (R343). -/
structure Qp where
  context : Nat
  gen : Nat
  lport : Nat
  state : QpState
  partnerQpn : BitVec 24
  mtu : Nat
  dscp : Nat
  localIp : BitVec 128
  expectedPsn : BitVec 24
  nakSent : Bool
  ackDue : Nat
  sendPsn : BitVec 24
  sent : List Sent
  sending : Option SentWhat
  retryMax : Nat
  retries : Nat
  rnrMax : Nat
  rnrRetries : Nat
  rnrWaiting : Bool
  ackTimeout : Nat
  initiatorDepth : Nat
  responderResources : Nat
  resident : Bool
  pinnedInCache : Bool
  lastUse : Nat
  fetching : Bool
  held : List (Nat × Instr)
  cues : List (Nat × Nat)
  rc : Nat
  rt : Nat
  alpha : Nat
  increases : Nat
  readySince : Nat
  formed : Nat
  leaveDue : Bool
deriving DecidableEq, Repr

/-- A host ring pair (Tables 13.5 to 13.8). `waitingEntries` lie before SQ_TAIL and are not fetched yet; `arriving` counts the
COMMAND entries fetched whose packets have still to arrive (R371). -/
structure RingPair where
  port : Nat
  ring : Nat
  fn : Nat
  link : Nat
  bounceBase : U64
  bouncePages : U32
  enable : Bool
  sqOrder : Nat
  cqOrder : Nat
  coalesce : Nat
  vector : Nat
  faultCause : Nat
  fault : Bool
  sqHead : Nat
  sqTail : Nat
  cqTail : Nat
  cqHead : Nat
  phase : Bool
  reserved : Nat
  coalescing : Bool
  coalescePending : Bool
  waitingEntries : List SqEntry
  arriving : Nat
deriving DecidableEq, Repr

/-- A function's own registers (Table 13.3), its MSI-X table as the dwords written, and the vectors pending in its PBA. -/
structure FuncRegs where
  port : Nat
  link : Nat
  fn : Nat
  events : Nat
  mask : Nat
  vector : Nat
  msix : List (Nat × U32)
  pba : List Nat
deriving DecidableEq, Repr

/-- A host link (R361, R385, R501): held by PERST_N, up, VFs enabled and their number. -/
structure HostLink where
  port : Nat
  link : Nat
  perst : Bool
  up : Bool
  vfs : Nat
deriving DecidableEq, Repr

/-- A host window (R378 to R383): granules backed, the lines not in I, the lines poisoned, the fence. -/
structure HostWindow where
  port : Nat
  cxl : Bool
  granules : Nat
  fenceFrom : Option Nat
  lines : List (Nat × LineState)
  poisoned : List Nat
  mem : List (Nat × BitVec 8)
  misses : Nat
  fencedWrites : Nat
  fenceTimeouts : Nat
  eventRecords : Nat
  waitSlot : Option Nat
  key : Option (BitVec 512)
deriving DecidableEq, Repr

/-- The role of a management session (R484, R486). -/
inductive Role where
  | operator | auditor
deriving DecidableEq, Repr

/-- A management session (R483, R487): `role` is none during the handshake. -/
structure Session where
  num : Nat
  role : Option Role
  provisional : Bool
deriving DecidableEq, Repr

/-- Bring-up of a splice link (Table 15.1): down, HELLO sent, REPORT sent, KEY sent, up; `held` at step 5 under R425, `failed`
for 1 s after a failed check of the peer, `refused` when the two domain roots differ (R423). [DEDUCED, log 101] -/
inductive SpliceStep where
  | down | hello | report | key | up | held | failed | refused
deriving DecidableEq, Repr

/-- A splice port: whether its PHY is trained, its step, what the peer said (device, reset generation, digest of its domain
root, the root and the contribution it sent), this device's own contribution and whether its KEY carried the root, its
transmit counter, its frame retries. -/
structure SplicePort where
  num : Nat
  phy : Bool
  step : SpliceStep
  peerDevice : Nat
  peerGen : Nat
  peerRoot : Digest
  offeredRoot : Option Nat
  peerContribution : Nat
  contribution : Nat
  rootSent : Bool
  txCounter : Nat
  frameRetries : Nat
deriving DecidableEq, Repr

/-- A match-in being probed for another device (R124). -/
structure RemoteRun where
  run : Nat
  lookupId : U64
  cls : Cls
  body : MatchInBody
  probesField : Nat
  regGen : Nat
  probes : List ProbeState
  hopBudget : Nat
deriving DecidableEq, Repr

/-- An image slot of boot NOR (R418, R473): its image, none when it is empty. -/
structure BootSlot where
  image : Option Image
deriving DecidableEq, Repr

/-- A boot record copy (Table 17.6). -/
structure BootRecord where
  valid : Bool
  seq : Nat
  active : Nat
  fallback : Bool
deriving DecidableEq, Repr

/-- Boot NOR, fuses and the root of trust's own state (chapters 14 and 17). `staged` is the staged state (R493): the slot and
the digest of measurement 6. -/
structure Boot where
  record0 : BootRecord
  record1 : BootRecord
  slotA : BootSlot
  slotB : BootSlot
  fuses : Nat
  running : Option Nat
  staged : Option (Nat × Digest)
  recovery : Bool
  strapLow : Bool
  strapSampled : Bool
deriving DecidableEq, Repr

/-- TAP instructions (R417). -/
inductive TapInstr where
  | idcode | bypass | samplePreload | extest | intest | clamp | highz
deriving DecidableEq, Repr

/-- Power supervision, clocks, temperature and start-up (chapter 17). -/
structure Power where
  step : Nat
  vinMv : Nat
  clocksOn : Bool
  refclkOk : Bool
  resetIn : Bool
  thermTrip : Bool
  sagWarn : Bool
  sagArmed : Bool
  nandVcc : Option Bool
  overVolt : Bool
  skip : Nat
  flushing : Option Nat
  stopCause : Nat
  lastResetCause : Nat
  flushCause : Nat
  fullChipStarts : Nat
  throttleWindows : Nat
  throttledNow : Bool
  holdupFlushes : Nat
  fatalRecord : Option EventRec
  trained : Option Population
deriving DecidableEq, Repr

end Sys2Proof.Machine
end

