-- ==== Sys2Proof/Machine/State.lean ====
section
/-! DEFINITION. The machine's whole state, as plain data, the reasons it can stop, and the state right
after power-up. Every piece of state the spec names has one home here. -/
namespace Sys2Proof.Machine

/-- Why the machine stops with a fault. The spec gives every row of the opcode table an effect, so no
meaning raises one. -/
inductive Fault where
  /-- Raised by nothing: kept so that the type is inhabited. Safe. -/
  | none
deriving DecidableEq, Repr

/-- Why a command has no meaning. -/
inductive Refusal where
  /-- Raised by Dispatch for a command that has no meaning yet. Safe. -/
  | notModelled (mnemonic : String)
deriving DecidableEq, Repr

/-- The clapper (R453 to R456): the last slate number given, the number of windows closed, the event ring
of the last 65,536 records, newest last, the records it lost since start-up, and the device counters as they stood at the
last cut marker (R309). -/
structure Clapper where
  slate : Nat
  window : Nat
  events : List EventRec
  overwritten : Nat
  stats : List CounterRec
deriving DecidableEq, Repr

/-- The root of trust's running state (chapter 14): the reset generation and whether it has reached T3 (R391), TRANSITION (Table
14.11), the TAP instruction, the key slots loaded (tenant and generation, tenant and epoch), the command slots that a reset
will answer, whether a stop-all runs, and the slot of an FW_ACTIVATE in progress. -/
structure Security where
  resetGen : Nat
  genProgrammed : Bool
  transition : Bool
  tap : TapInstr
  hashKeys : List (Nat × Nat)
  memKeys : List (Nat × Nat)
  resetSlots : List Nat
  stopAllPending : Bool
  activation : Option Nat
deriving DecidableEq, Repr

/-- What survives a full-chip reset in T3 and in the persistent tables (chapters 2, 9, 16, 17, 18). `unflushed` lists the
tags of the data pages programmed since the last flush that holds their MAP records (R270), `journalSeq` is the JOURNAL_SEQ
of the last journal page (R266). -/
structure Persist where
  formatted : Bool
  erased : Bool
  config : ConfigRecord
  resetGen : Nat
  root : Option Nat
  epochs : List Epochs
  variants : List VariantEntry
  weights : List WeightsT3
  spareMap : List SpareLine
  checkpoint : List Node
  journal : List JournalRec
  directory : Option DirectoryImage
  writeSeq : Nat
  writeNo : Nat
  credit : Int
  theta : Nat
  usable : Nat
  faults : List Nat
  flashCounters : List Nat
  unflushed : List PageTag
  deadDies : List Nat
  journalSeq : Nat
deriving DecidableEq, Repr

/-- Jobs, lanes, commands in flight and tenants' use (chapters 10 and 11). -/
structure JobTable where
  table : List Job
  pool : IndexPool
  lanes : List Lane
  cmds : List Cmd
  slotsFree : Nat
  use : List TenantUse
  liveBeFloor : Nat
  scopeSnap : List (Nat × U16)
deriving DecidableEq, Repr

/-- The prefix index, its pin records and the lookups that run (chapter 3). `nextRun` numbers the runs of keys, `replayLeft`
holds the journal records that step 4 of Table 3.5 has not replayed yet (R92). -/
structure Index where
  capacity : Nat
  nodes : List Node
  nextRun : Nat
  records : List PinRecord
  recordPool : IndexPool
  slivers : List Sliver
  dropsInFlight : Nat
  lookups : List LookupCtx
  continuations : List Continuation
  nextLookup : Nat
  remote : List RemoteRun
  journalBuf : List IndexRec
  recovering : Bool
  replayLeft : List IndexRec
deriving DecidableEq, Repr

/-- The tiers, the wear governor, the movers' transfers and the ingests (chapter 6). `retiredRows` lists the T2 rows whose
granules are never allocated again (R161), `evicting` the tiers whose eviction goes on to its high mark (R174), `freed` the
granules that eviction has freed since the dirty mark was reached and that no ingest record has used yet (R177). -/
structure Tiers where
  t1Total : Nat
  t1Free : Nat
  t1Reserved : Nat
  t2Total : Nat
  t2Free : Nat
  dirtyT1 : Nat
  dirtyT2 : Nat
  aboveMark : Bool
  suspended : Bool
  charged : Nat
  liveBudget : Nat
  moves : List Move
  nextMove : Nat
  promoteQueue : List (Nat × Nat × Tier)
  writeNo : Nat
  weightsT1 : Nat
  ingests : List Ingest
  ingestPool : IndexPool
  landing : List LandingSlot
  landingPool : Pool
  landingMem : List Host.Cell
  incoming : List Incoming
  nextIncoming : Nat
  badRows : List (Nat × Nat)
  retiredRows : List Nat
  evicting : List Tier
  freed : Nat
deriving DecidableEq, Repr

/-- Profiles, storyboards, attention and the engines that work for them (chapters 5, 7, 8 and 11). `codecBufs` lists the
smoothing vectors (profile slot, layer) in each codec engine's weight buffer, `tileWeights` the (profile slot, layer, head)
whose W_UK and W_UV a tile holds (R153). -/
structure Engines where
  profiles : List Profile
  loadSeq : Nat
  storyboards : List Storyboard
  nextSb : Nat
  memberships : List Membership
  memberPool : IndexPool
  batches : List Batch
  nextBatch : Nat
  stage : Pool
  tiles : Engine
  codecs : Engine
  cryptos : Engine
  hashers : List Engine
  movers : Engine
  rdma : List Engine
  hostEng : List Engine
  spliceEng : List Engine
  control : Engine
  codecBufs : List (Nat × List (Nat × Nat))
  tileWeights : List (Nat × (Nat × Nat × Nat))
  ethCredits : List Pool
  hostCredits : List Pool
  spliceCredits : List Pool
deriving DecidableEq, Repr

/-- The FTL's volatile state (chapter 9). `reads` lists the NAND reads in flight: the node, the group, and the bands read;
`markerDue` a flush that a cut marker calls for (Table 9.6), `ops` the operations of the channels, `nextOp` the number of the
next, `nandFloor` the floor counter of each channel (R320). -/
structure Flash where
  map : List MapEntry
  bands : List Band
  programs : List Program
  waiting : List Program
  nextProgram : Nat
  assembling : List Assembling
  cursor : Nat
  writeSeq : Nat
  pendingRecs : List JournalRec
  flushing : Option (List JournalRec)
  trimmed : List Nat
  mapRecs : Nat
  dataBytes : Nat
  markerDue : Bool
  dirtySegs : List Nat
  gcVictim : Option (Nat × Nat)
  gcLeft : List Nat
  gcInFlush : Bool
  gcFlushed : Bool
  reads : List (Nat × Nat × List (Nat × Nat))
  retired : List (Nat × Nat × Nat)
  retiredWindow : List (Nat × Nat)
  ops : List NandOp
  nextOp : Nat
  nandFloor : List Nat
deriving DecidableEq, Repr

/-- The Ethernet ports and the queue pairs (chapter 12). -/
structure Net where
  lports : List LogicalPort
  eports : List EthPort
  qps : List Qp
  qpPool : IndexPool
  useClock : Nat
deriving DecidableEq, Repr

/-- The host ports (chapter 13). -/
structure HostPorts where
  links : List HostLink
  funcs : List FuncRegs
  rings : List RingPair
  windows : List HostWindow
deriving DecidableEq, Repr

/-- The management port (chapter 18): link, trial mode, addresses, sessions, connections awaiting TLS. -/
structure Mgmt where
  linkUp : Bool
  trialMode : Nat
  ipv4 : Option U32
  ipv6 : List (BitVec 128)
  sessions : List Session
  recordLoaded : Bool
deriving DecidableEq, Repr

/-- The splice ports and their counters 0x0701 to 0x0707 (chapters 15 and 18). -/
structure SpliceSt where
  ports : List SplicePort
  counters : List Nat
deriving DecidableEq, Repr

/-- Faults and spares (chapter 16): the counters 0x0301 to 0x0311, the spare map in force, and failed units
of kinds that have no spares. -/
structure Faults where
  counters : List Nat
  spareMap : List SpareLine
  failedUnits : List (Nat × Nat)
  badSlots : Nat
deriving DecidableEq, Repr

/-- The machine. `pending` is the queue of commands waiting, `out` what the device has sent, `free` the
counter the free values are applied to; these three are the model's own. -/
structure State where
  pending : List Instr
  out : List Output
  free : Nat
  clk : Clapper
  power : Power
  boot : Boot
  sec : Security
  cfg : ConfigRecord
  persist : Persist
  jobs : JobTable
  index : Index
  marr : MatchArray
  tiers : Tiers
  eng : Engines
  flash : Flash
  net : Net
  host : HostPorts
  mgmt : Mgmt
  splice : SpliceSt
  faults : Faults
deriving DecidableEq, Repr

/-- A table with every index free (R32, R53, R189). -/
def freshPool (size genMod : Nat) : IndexPool :=
  { size := size, genMod := genMod, fresh := 0, freed := [], gens := [] }

/-- A pool of `total` units with an LC reserve of `pct` percent, all free (R325, R16). -/
def fullPool (total pct : Nat) : Pool :=
  { total := total, reserveSize := total * pct / 100, lcFree := total * pct / 100,
    sharedFree := total - total * pct / 100 }

/-- An engine kind with instances 0 to `n` - 1, all idle (Table 1.1). -/
def idleEngine (n : Nat) : Engine :=
  { active := List.range n, lcq := [], beq := [], k := 0, busy := [] }

/-- A port's PORT_CONFIG before any command sets it. [DESIGN CHOICE, log 6] -/
def defaultPort : PortCfg :=
  { mode := 0, adminDown := false, pfcEnable := false, ecnEnable := false, cxlEnable := false, priorities := 0 }

/-- The record in which every field takes its default (Table 18.2, R320, R325, R314, R422). [DESIGN CHOICE, log 6] -/
def defaultConfig : ConfigRecord :=
  { seq := 0, anchor := 0, overprovision := 0, debugState := 0, beFloor := 0, lcReserve := 25,
    deviceNumber := 0, dailyBudget := 0, ports := List.replicate 11 defaultPort, windows := [0, 0],
    routes := List.replicate 64 { dest := 0, outPort := 0, valid := false }, tenants := [] }

/-- T3 as the device leaves the factory: every block erased, nothing persisted (R496). [DESIGN CHOICE, log 6; DEDUCED, log 78] -/
def erasedMedia : Persist :=
  { formatted := false, erased := true, config := defaultConfig, resetGen := 0, root := none, epochs := [],
    variants := [], weights := [], spareMap := [], checkpoint := [], journal := [],
    directory := none, writeSeq := 0, writeNo := 0, credit := 0, theta := 0, usable := 0,
    faults := List.replicate 17 0, flashCounters := List.replicate 9 0, unflushed := [],
    deadDies := [], journalSeq := 0 }

/-- Boot NOR with no image and no valid record, and no fuse blown. [DESIGN CHOICE, log 6] -/
def blankBoot : Boot :=
  { record0 := { valid := false, seq := 0, active := 0, fallback := false },
    record1 := { valid := false, seq := 0, active := 0, fallback := false },
    slotA := { image := none }, slotB := { image := none }, fuses := 0, running := none, staged := none,
    recovery := false, strapLow := false, strapSampled := false }

/-- The gaffer before power: held in reset, no VIN (Table 17.8). [DESIGN CHOICE, log 6] -/
def coldPower : Power :=
  { step := 0, vinMv := 0, clocksOn := false, refclkOk := true, resetIn := false, thermTrip := false,
    sagWarn := false, sagArmed := true, nandVcc := none, overVolt := false, skip := 0, flushing := none, stopCause := 0,
    lastResetCause := 0, flushCause := 0, fullChipStarts := 0, throttleWindows := 0, throttledNow := false,
    holdupFlushes := 0, fatalRecord := none, trained := none }

/-- The logical Ethernet ports of MODE 0 on every physical port (Table 12.1), links down, no address. [DESIGN CHOICE, log 6] -/
def downPorts : List LogicalPort :=
  (List.range 16).map fun n =>
    { num := n, present := n % 4 == 0, up := false, ipv4 := none, ipv6 := [], counters := List.replicate 15 0 }

/-- The match array with every VALID bit clear (R97, R119). [DESIGN CHOICE, log 6] -/
def clearArray : MatchArray :=
  { entries := [], sections := (List.range 4).map fun n => { num := n, probes := [], requests := [] },
    reports := [], absent := [], bankMap := [], errors := [], repaired := [], scanPos := 0, refilled := [] }

/-- A host window as a full-chip reset leaves it: nothing backed (R378, R379). -/
def emptyWindow (p : Nat) : HostWindow :=
  { port := p, cxl := false, granules := 0, fenceFrom := none, lines := [], poisoned := [], mem := [], misses := 0,
    fencedWrites := 0, fenceTimeouts := 0, eventRecords := 0, waitSlot := none, key := none }

/-- The state a full-chip reset leaves (Table 17.7), given what it keeps: T3 and the persistent tables,
boot NOR and the fuses, the gaffer's own state, and the clapper's counters. [DESIGN CHOICE, log 6; DEDUCED, log 126] -/
def State.cold (per : Persist) (b : Boot) (pw : Power) (c : Clapper) : State :=
  { pending := [], out := [], free := 0,
    clk := { c with events := [], overwritten := 0 },
    power := pw,
    boot := { b with running := none, staged := none, recovery := false, strapSampled := false },
    sec := { resetGen := per.resetGen, genProgrammed := false, transition := false, tap := .idcode,
             hashKeys := [], memKeys := [], resetSlots := [], stopAllPending := false, activation := none },
    cfg := defaultConfig,
    persist := per,
    jobs := { table := [], pool := freshPool Config.maxJobs 64, lanes := [], cmds := [],
              slotsFree := Config.commandSlots, use := [], liveBeFloor := 0, scopeSnap := [] },
    index := { capacity := 0, nodes := [], nextRun := 0, records := [], recordPool := freshPool Config.pinRecords (2 ^ 24),
               slivers := [], dropsInFlight := 0, lookups := [], continuations := [], nextLookup := 0, remote := [],
               journalBuf := [], recovering := false, replayLeft := [] },
    marr := clearArray,
    tiers := { t1Total := 0, t1Free := 0, t1Reserved := 0, t2Total := 0, t2Free := 0, dirtyT1 := 0, dirtyT2 := 0,
               aboveMark := false, suspended := false, charged := 0, liveBudget := 0, moves := [], nextMove := 0,
               promoteQueue := [], writeNo := 0, weightsT1 := 0, ingests := [],
               ingestPool := freshPool Config.maxIngests (2 ^ 20), landing := [],
               landingPool := fullPool Config.landingSlots 25, landingMem := [], incoming := [], nextIncoming := 0, badRows := [],
               retiredRows := [], evicting := [], freed := 0 },
    eng := { profiles := [], loadSeq := 0, storyboards := [], nextSb := 0, memberships := [],
             memberPool := freshPool Config.maxMemberships (2 ^ 19), batches := [], nextBatch := 0,
             stage := fullPool Config.stageSlots 25, tiles := idleEngine 256, codecs := idleEngine 64,
             cryptos := idleEngine 64, hashers := List.replicate 16 (idleEngine 8), movers := idleEngine 48,
             rdma := List.replicate 4 (idleEngine 1), hostEng := List.replicate 2 (idleEngine 1),
             spliceEng := List.replicate 4 (idleEngine 1), control := idleEngine 16, codecBufs := [], tileWeights := [],
             ethCredits := List.replicate 4 (fullPool Config.ethCredits 25),
             hostCredits := List.replicate 2 (fullPool Config.hostCredits 25),
             spliceCredits := List.replicate 4 (fullPool Config.spliceCredits 25) },
    flash := { map := [], bands := [], programs := [], waiting := [], nextProgram := 0, assembling := [], cursor := 0, writeSeq := 0,
               pendingRecs := [], flushing := none, trimmed := [], mapRecs := 0, dataBytes := 0, markerDue := false, dirtySegs := [],
               gcVictim := none, gcLeft := [], gcInFlush := false, gcFlushed := false, reads := [], retired := [],
               retiredWindow := [], ops := [], nextOp := 0, nandFloor := List.replicate 32 0 },
    net := { lports := downPorts,
             eports := (List.range 4).map fun n =>
               { num := n, rxBytes := 0, xoff := false, paused := [] },
             qps := [], qpPool := freshPool Config.qpContexts 63, useClock := 0 },
    host := { links := [0, 1].flatMap fun p => [0, 1].map fun l =>
                { port := p, link := l, perst := true, up := false, vfs := 0 },
              funcs := [], rings := [], windows := [emptyWindow 0, emptyWindow 1] },
    mgmt := { linkUp := false, trialMode := 0, ipv4 := none, ipv6 := [], sessions := [], recordLoaded := false },
    splice := { ports := (List.range 4).map fun n =>
                  { num := n, phy := false, step := .down, peerDevice := 0, peerGen := 0, peerRoot := 0, offeredRoot := none,
                    peerContribution := 0, contribution := 0, rootSent := false, txCounter := 0, frameRetries := 0 },
                counters := List.replicate 7 0 },
    faults := { counters := per.faults, spareMap := [], failedUnits := [], badSlots := 0 } }

/-- The machine right after its first reset, before power is applied: nothing running, T3 erased. [DESIGN CHOICE, log 6] -/
def State.reset : State :=
  State.cold erasedMedia blankBoot coldPower { slate := 0, window := 0, events := [], overwritten := 0, stats := [] }

end Sys2Proof.Machine
end

