-- ==== Sys2Proof/Machine/Crypto.lean ====
section
/-! DEFINITION. The cryptographic functions the spec names: AES-256 (FIPS 197), AES-CMAC (SP 800-38B, R40), AES-256-GCM (R291,
R294, R295, R205), AES-256-XTS (R168), SHA-512, the key derivation of R389, and CRC-32C. Only the secrets are opaque constants
of Config. -/
namespace Sys2Proof.Machine

/-! ## Bytes -/

/-- `n` bytes of a number, least significant first (R8). -/
def leBytes : Nat → Nat → List Byte
  | 0, _ => []
  | n + 1, v => BitVec.ofNat 8 (v % 256) :: leBytes n (v / 256)

/-- `n` bytes of a number, most significant first. -/
def beBytes (n v : Nat) : List Byte := (leBytes n v).reverse

/-- The number that bytes spell, least significant first. -/
def leNat : List Byte → Nat
  | [] => 0
  | b :: bs => b.toNat + 256 * leNat bs

/-- The number that bytes spell, most significant first. -/
def beNat (l : List Byte) : Nat := l.foldl (fun n b => 256 * n + b.toNat) 0

/-- Two byte strings added bit by bit, as long as the shorter. -/
def xorBytes (a b : List Byte) : List Byte := List.zipWith (· ^^^ ·) a b

/-- `l` cut into pieces of `n`, looking at `fuel` pieces; the last may be shorter. -/
def chunksOf {α : Type} (n : Nat) : Nat → List α → List (List α)
  | 0, _ => []
  | fuel + 1, l => if l.isEmpty then [] else l.take n :: chunksOf n fuel (l.drop n)

/-- The 16-byte blocks of a string. -/
def blocksOf (l : List Byte) : List (List Byte) := chunksOf 16 (l.length / 16 + 1) l

/-- Zeros up to the next multiple of 16 bytes. -/
def padBlock (l : List Byte) : List Byte := l ++ zeroBytes (alignUp l.length 16 - l.length)

/-! ## AES-256 (FIPS 197) -/

/-- The S-box, entry b in byte b. -/
def sboxTable : Nat :=
  0x16bb54b00f2d99416842e6bf0d89a18cdf2855cee9871e9b948ed9691198f8e19e1dc186b95735610ef6034866b53e708a8bbd4b1f74dde8c6b4a61c2e2578ba * 2 ^ 1536
    + 0x08ae7a65eaf4566ca94ed58d6d37c8e779e4959162acd3c25c2406490a3a32e0db0b5ede14b8ee4688902a22dc4f816073195d643d7ea7c41744975fec130ccd * 2 ^ 1024
    + 0xd2f3ff1021dab6bcf5389d928f40a351a89f3c507f02f94585334d43fbaaefd0cf584c4a39becb6a5bb1fc20ed00d153842fe329b3d63b52a05a6e1b1a2c8309 * 2 ^ 512
    + 0x75b227ebe28012079a059618c323c7041531d871f1e5a534ccf73f362693fdb7c072a49cafa2d4adf04759fa7dc982ca76abd7fe2b670130c56f6bf27b777c63

/-- One entry of the S-box. -/
def sbox (b : Byte) : Byte := BitVec.ofNat 8 (sboxTable >>> (8 * b.toNat))

/-- Multiplication by x in the field of AES. -/
def xtime (b : Byte) : Byte := if b.msb then (b <<< 1) ^^^ 0x1B else b <<< 1

/-- MixColumns of one column. -/
def mixColumn : List Byte → List Byte
  | [a, b, c, d] =>
    let t := a ^^^ b ^^^ c ^^^ d
    [a ^^^ t ^^^ xtime (a ^^^ b), b ^^^ t ^^^ xtime (b ^^^ c), c ^^^ t ^^^ xtime (c ^^^ d), d ^^^ t ^^^ xtime (d ^^^ a)]
  | l => l

/-- MixColumns. -/
def mixColumns (st : List Byte) : List Byte := (chunksOf 4 4 st).flatMap mixColumn

/-- ShiftRows, the state held by columns. -/
def shiftRows (st : List Byte) : List Byte :=
  (List.range 16).map fun i => st.getD ((i % 4 + 4 * (i / 4 + i % 4)) % 16) 0

/-- The next word of the key schedule, after `i` words, held last first. -/
def nextWord (i : Nat) (rcon : Byte) (ws : List (List Byte)) : List Byte :=
  let prev := ws.getD 0 []
  let t :=
    if i % 8 == 0 then xorBytes ((prev.drop 1 ++ prev.take 1).map sbox) [rcon, 0, 0, 0]
    else if i % 8 == 4 then prev.map sbox
    else prev
  xorBytes (ws.getD 7 []) t

/-- `n` more words of the key schedule after `i`. -/
def expandWords : Nat → Nat → Byte → List (List Byte) → List (List Byte)
  | 0, _, _, ws => ws
  | n + 1, i, rcon, ws => expandWords n (i + 1) (if i % 8 == 0 then xtime rcon else rcon) (nextWord i rcon ws :: ws)

/-- The 15 round keys of a 32-byte key. -/
def roundKeys (key : List Byte) : List (List Byte) :=
  let ws := (expandWords 52 8 1 (chunksOf 4 8 key).reverse).reverse
  (List.range 15).map fun r => (ws.drop (4 * r)).take 4 |>.flatten

/-- One block through AES-256 with its round keys. -/
def aesRounds : List (List Byte) → List Byte → List Byte
  | [], st => st
  | [last], st => xorBytes (shiftRows (st.map sbox)) last
  | k :: ks, st => aesRounds ks (xorBytes (mixColumns (shiftRows (st.map sbox))) k)

/-- AES-256 of one block under round keys. -/
def aesBlock (ks : List (List Byte)) (block : List Byte) : List Byte :=
  aesRounds (ks.drop 1) (xorBytes block (ks.getD 0 []))

/-! ## AES-CMAC (SP 800-38B) -/

/-- A 128-bit string doubled (SP 800-38B, 6.1). -/
def cmacDouble (l : List Byte) : List Byte :=
  let n := 2 * beNat l
  beBytes 16 (if n < 2 ^ 128 then n else (n - 2 ^ 128) ^^^ 0x87)

/-- The message's last block with its subkey (SP 800-38B, 6.2). -/
def cmacLast (k1 last : List Byte) : List Byte :=
  if last.length == 16 then xorBytes last k1 else xorBytes (padBlock (last ++ [0x80])) (cmacDouble k1)

/-- AES-CMAC of a message under a 32-byte key. -/
def aesCmac (key msg : List Byte) : List Byte :=
  let ks := roundKeys key
  let k1 := cmacDouble (aesBlock ks (zeroBytes 16))
  let bs := blocksOf msg
  let st := bs.dropLast.foldl (fun st b => aesBlock ks (xorBytes st b)) (zeroBytes 16)
  aesBlock ks (xorBytes st (cmacLast k1 (bs.getLast?.getD [])))

/-! ## AES-256-GCM (SP 800-38D) -/

/-- One step of the product in GHASH's field: the accumulator, and the multiplicand shifted. -/
def ghashStep (x : Nat) (zv : Nat × Nat) (i : Nat) : Nat × Nat :=
  (if x.testBit (127 - i) then zv.1 ^^^ zv.2 else zv.1,
   if zv.2.testBit 0 then (zv.2 / 2) ^^^ (0xE1 * 2 ^ 120) else zv.2 / 2)

/-- The product of two blocks in GHASH's field. -/
def ghashMul (x y : Nat) : Nat := ((List.range 128).foldl (ghashStep x) (0, y)).1

/-- GHASH of whole blocks. -/
def ghash (h : Nat) (data : List Byte) : Nat := (blocksOf data).foldl (fun y b => ghashMul (y ^^^ beNat b) h) 0

/-- The key stream of GCM for `n` blocks after the one that the tag takes. -/
def gcmStream (ks : List (List Byte)) (iv : List Byte) (n : Nat) : List Byte :=
  (List.range n).flatMap fun i => aesBlock ks (iv ++ beBytes 4 (i + 2))

/-- AES-256-GCM: the ciphertext of a plaintext under a 96-bit nonce, which its bytes carry least significant first (R8). -/
def gcmSeal (key : List Byte) (nonce : BitVec 96) (plain : List Byte) : List Byte :=
  xorBytes plain (gcmStream (roundKeys key) (leBytes 12 nonce.toNat) (ceilDiv plain.length 16))

/-- The tag that AES-256-GCM gives a ciphertext and its additional data. -/
def gcmTag (key : List Byte) (nonce : BitVec 96) (aad cipher : List Byte) : List Byte :=
  let ks := roundKeys key
  let h := beNat (aesBlock ks (zeroBytes 16))
  let y := ghash h (padBlock aad ++ padBlock cipher ++ beBytes 8 (8 * aad.length) ++ beBytes 8 (8 * cipher.length))
  xorBytes (beBytes 16 y) (aesBlock ks (leBytes 12 nonce.toNat ++ [0, 0, 0, 1]))

/-- AES-256-GCM opened: the plaintext when the tag is the one that the ciphertext and its additional data have. -/
def gcmOpen (key : List Byte) (nonce : BitVec 96) (aad cipher tag : List Byte) : Option (List Byte) :=
  if gcmTag key nonce aad cipher == tag then some (gcmSeal key nonce cipher) else none

/-! ## AES-256-XTS (IEEE 1619) -/

/-- A tweak times x, its bytes least significant first. -/
def xtsDouble (t : List Byte) : List Byte :=
  let n := 2 * leNat t
  leBytes 16 (if n < 2 ^ 128 then n else (n - 2 ^ 128) ^^^ 0x87)

/-- The blocks of one data unit from a tweak on. -/
def xtsBlocks (ks : List (List Byte)) : List Byte → List (List Byte) → List Byte
  | _, [] => []
  | t, b :: bs => xorBytes (aesBlock ks (xorBytes b t)) t ++ xtsBlocks ks (xtsDouble t) bs

/-- One data unit of whole blocks under the data key and the tweak key, `tweak` its number. -/
def xtsUnit (dataKey tweakKey : List Byte) (tweak : Nat) (plain : List Byte) : List Byte :=
  xtsBlocks (roundKeys dataKey) (aesBlock (roundKeys tweakKey) (leBytes 16 tweak)) (blocksOf plain)

/-! ## SHA-512 and the key derivation (R389) -/

/-- The 80 round constants of SHA-512. -/
def shaConstants : List U64 :=
  [0x428a2f98d728ae22, 0x7137449123ef65cd, 0xb5c0fbcfec4d3b2f, 0xe9b5dba58189dbbc,
   0x3956c25bf348b538, 0x59f111f1b605d019, 0x923f82a4af194f9b, 0xab1c5ed5da6d8118]
    ++ [0xd807aa98a3030242, 0x12835b0145706fbe, 0x243185be4ee4b28c, 0x550c7dc3d5ffb4e2,
         0x72be5d74f27b896f, 0x80deb1fe3b1696b1, 0x9bdc06a725c71235, 0xc19bf174cf692694]
    ++ [0xe49b69c19ef14ad2, 0xefbe4786384f25e3, 0x0fc19dc68b8cd5b5, 0x240ca1cc77ac9c65,
         0x2de92c6f592b0275, 0x4a7484aa6ea6e483, 0x5cb0a9dcbd41fbd4, 0x76f988da831153b5]
    ++ [0x983e5152ee66dfab, 0xa831c66d2db43210, 0xb00327c898fb213f, 0xbf597fc7beef0ee4,
         0xc6e00bf33da88fc2, 0xd5a79147930aa725, 0x06ca6351e003826f, 0x142929670a0e6e70]
    ++ [0x27b70a8546d22ffc, 0x2e1b21385c26c926, 0x4d2c6dfc5ac42aed, 0x53380d139d95b3df,
         0x650a73548baf63de, 0x766a0abb3c77b2a8, 0x81c2c92e47edaee6, 0x92722c851482353b]
    ++ [0xa2bfe8a14cf10364, 0xa81a664bbc423001, 0xc24b8b70d0f89791, 0xc76c51a30654be30,
         0xd192e819d6ef5218, 0xd69906245565a910, 0xf40e35855771202a, 0x106aa07032bbd1b8]
    ++ [0x19a4c116b8d2d0c8, 0x1e376c085141ab53, 0x2748774cdf8eeb99, 0x34b0bcb5e19b48a8,
         0x391c0cb3c5c95a63, 0x4ed8aa4ae3418acb, 0x5b9cca4f7763e373, 0x682e6ff3d6b2b8a3]
    ++ [0x748f82ee5defb2fc, 0x78a5636f43172f60, 0x84c87814a1f0ab72, 0x8cc702081a6439ec,
         0x90befffa23631e28, 0xa4506cebde82bde9, 0xbef9a3f7b2c67915, 0xc67178f2e372532b]
    ++ [0xca273eceea26619c, 0xd186b8c721c0c207, 0xeada7dd6cde0eb1e, 0xf57d4f7fee6ed178,
         0x06f067aa72176fba, 0x0a637dc5a2c898a6, 0x113f9804bef90dae, 0x1b710b35131c471b]
    ++ [0x28db77f523047d84, 0x32caab7b40c72493, 0x3c9ebe0a15c9bebc, 0x431d67c49c100d4c,
         0x4cc5d4becb3e42b6, 0x597f299cfc657e2a, 0x5fcb6fab3ad6faec, 0x6c44198c4a475817]

/-- The initial hash value of SHA-512. -/
def shaInitial : List U64 :=
  [0x6a09e667f3bcc908, 0xbb67ae8584caa73b, 0x3c6ef372fe94f82b, 0xa54ff53a5f1d36f1,
   0x510e527fade682d1, 0x9b05688c2b3e6c1f, 0x1f83d9abfb41bd6b, 0x5be0cd19137e2179]

/-- A 64-bit word turned right. -/
def ror (x : U64) (n : Nat) : U64 := x.rotateRight n

/-- The next word of the message schedule, of the words held last first. -/
def shaWord (ws : List U64) : U64 :=
  let a := ws.getD 1 0
  let b := ws.getD 14 0
  (ror a 19 ^^^ ror a 61 ^^^ (a >>> 6)) + ws.getD 6 0 + (ror b 1 ^^^ ror b 8 ^^^ (b >>> 7)) + ws.getD 15 0

/-- `n` more words of the message schedule. -/
def shaSchedule : Nat → List U64 → List U64
  | 0, ws => ws
  | n + 1, ws => shaSchedule n (shaWord ws :: ws)

/-- One round, of a constant and a word. -/
def shaRound (v : List U64) (kw : U64 × U64) : List U64 :=
  match v with
  | [a, b, c, d, e, f, g, h] =>
    let t1 := h + (ror e 14 ^^^ ror e 18 ^^^ ror e 41) + ((e &&& f) ^^^ (~~~e &&& g)) + kw.1 + kw.2
    let t2 := (ror a 28 ^^^ ror a 34 ^^^ ror a 39) + ((a &&& b) ^^^ (a &&& c) ^^^ (b &&& c))
    [t1 + t2, a, b, c, d + t1, e, f, g]
  | l => l

/-- One block of 128 bytes. -/
def shaBlock (h : List U64) (block : List Byte) : List U64 :=
  let ws := (chunksOf 8 16 block).map fun b => BitVec.ofNat 64 (beNat b)
  let all := (shaSchedule 64 ws.reverse).reverse
  List.zipWith (· + ·) h ((shaConstants.zip all).foldl shaRound h)

/-- SHA-512 of a byte string, as bytes. -/
def sha512 (msg : List Byte) : List Byte :=
  let body := msg ++ [0x80]
  let full := body ++ zeroBytes (alignUp (body.length + 16) 128 - body.length - 16) ++ beBytes 16 (8 * msg.length)
  ((chunksOf 128 (full.length / 128 + 1) full).foldl shaBlock shaInitial).flatMap fun w => beBytes 8 w.toNat

/-- SHA-512 as a digest, its bytes in order. -/
def shaDigest (msg : List Byte) : Digest := BitVec.ofNat 512 (beNat (sha512 msg))

/-- HMAC-SHA-512 of a key of at most 128 bytes. -/
def hmac512 (key msg : List Byte) : List Byte :=
  let k := key ++ zeroBytes (128 - key.length)
  sha512 (k.map (· ^^^ 0x5C) ++ sha512 (k.map (· ^^^ 0x36) ++ msg))

/-- The ASCII bytes of a label. -/
def ascii (label : String) : List Byte := label.toList.map fun c => BitVec.ofNat 8 c.toNat

/-- KDF(K, label, context) (R389). -/
def kdf (key : List Byte) (label : String) (context : List Byte) : List Byte :=
  (hmac512 key (beBytes 4 1 ++ ascii label ++ [0] ++ context ++ beBytes 4 256)).take 32

/-! ## CRC-32C -/

/-- One bit of a reflected CRC with polynomial 0x82F63B78. -/
def crcBit (c : U32) (_ : Nat) : U32 := if c.getLsbD 0 then (c >>> 1) ^^^ 0x82F63B78 else c >>> 1

/-- CRC-32C (Castagnoli) of a byte string. -/
def crc32c (l : List Byte) : U32 :=
  ~~~ (l.foldl (fun c b => (List.range 8).foldl crcBit (c ^^^ b.setWidth 32)) 0xFFFFFFFF)

end Sys2Proof.Machine
end

