-- ==== Sys2Proof/Machine/Flags.lean ====
section
/-! DEFINITION. The encodings of statuses and flags: STATUS codes (Table 10.10), RFLAGS (Table 10.7) and the class bit. -/
namespace Sys2Proof.Machine

/-- The code of a status (Table 10.10). -/
def statusCode : Status → Nat
  | .ok => 0x0000
  | .partialDone => 0x0001
  | .badOpcode => 0x0010
  | .badParam => 0x0011
  | .noJob => 0x0012
  | .denied => 0x0013
  | .busy => 0x0020
  | .transition => 0x0021
  | .quota => 0x0022
  | .noSpace => 0x0023
  | .dataLost => 0x0030
  | .modelLost => 0x0031
  | .integrity => 0x0032
  | .jobsLost => 0x0040
  | .cancelled => 0x0041
  | .epochFull => 0x0050
  | .keyStale => 0x0051
  | .notReady => 0x0060

/-- A Boolean as bit `i` of a word. -/
def flagBit (b : Bool) (i : Nat) : Nat := if b then 2 ^ i else 0

/-- RFLAGS as bits [21:16] of STATUS_WORD (Table 10.7). -/
def rflagsBits (f : RFlags) : Nat :=
  flagBit f.late 16 + flagBit f.raw 17 + flagBit f.lowerBound 18 + flagBit f.degraded 19 + flagBit f.more 20
    + flagBit f.plain 21

/-- STATUS_WORD of a reply (Table 10.6). -/
def statusWord (r : Reply) : U32 := BitVec.ofNat 32 (statusCode r.status + rflagsBits r.flags)

/-- The class as the bit it takes in words: LC 0, BE 1. -/
def clsBit : Cls → Nat
  | .lc => 0
  | .be => 1

/-- RFLAGS with nothing set. -/
def noFlags : RFlags :=
  { plain := false, more := false, degraded := false, lowerBound := false, raw := false, late := false }

/-- RFLAGS with LATE alone, or nothing. -/
def lateFlags (b : Bool) : RFlags := { noFlags with late := b }

/-- RFLAGS with LOWER_BOUND alone, or nothing. -/
def lowerBoundFlags (b : Bool) : RFlags := { noFlags with lowerBound := b }

end Sys2Proof.Machine
end

