-- ==== Sys2Proof/Machine/Wire.lean ====
section
/-! DEFINITION. The byte form of the structures that cross the device's boundary, every multi-byte field little-endian (R8):
packet headers and descriptors (Tables 10.1, 10.4), replies (Table 10.6), reply payloads (R296) and their contents, ring
entries (Tables 13.9, 13.10), ingest record headers (Table 6.7), seal records (Table 7.2), the configuration record (Table
18.2); and the keys of Table 14.2 that the model derives. -/
namespace Sys2Proof.Machine

/-! ## Keys (R389, Table 14.2) -/

/-- A 256-bit key as the bytes that an engine takes. -/
def keyBytes (k : BitVec 256) : List Byte := leBytes 32 k.toNat

/-- The bytes of a digest, in its order. -/
def digestBytes (d : Digest) : List Byte := beBytes 64 d.toNat

/-- A key derived from a secret (R389). -/
def deriveKey (secret : BitVec 256) (label : String) (context : List Byte) : BitVec 256 :=
  BitVec.ofNat 256 (leNat (kdf (keyBytes secret) label context))

/-- T ∥ G and T ∥ G ∥ e, the contexts of a tenant's keys. -/
def genContext (tenant gen : Nat) : List Byte := leBytes 2 tenant ++ leBytes 4 gen
def epochContext (tenant gen epoch : Nat) : List Byte := genContext tenant gen ++ leBytes 4 epoch

/-- hk_tenant: from the domain root of a device that belongs to a domain (R423), else from RS. -/
def hashKey (root : Option Nat) (tenant gen : Nat) : BitVec 256 :=
  deriveKey ((root.map (BitVec.ofNat 256)).getD Config.rootSecret) "hash" (genContext tenant gen)

/-- The three keys of K_mem(e): the XTS data key, the XTS tweak key and the seal key. -/
def xtsDataKey (tenant gen epoch : Nat) : BitVec 256 := deriveKey Config.rootSecret "mem xts1" (epochContext tenant gen epoch)
def xtsTweakKey (tenant gen epoch : Nat) : BitVec 256 := deriveKey Config.rootSecret "mem xts2" (epochContext tenant gen epoch)
def sealKey (tenant gen epoch : Nat) : BitVec 256 := deriveKey Config.rootSecret "mem seal" (epochContext tenant gen epoch)

/-- A job's three keys, from its session secret, its tenant and the reset generation. -/
def jobKeys (secret : BitVec 256) (tenant resetGen : Nat) : JobKeys :=
  { command := deriveKey secret "cmd" (genContext tenant resetGen),
    reply := deriveKey secret "reply" (genContext tenant resetGen),
    link := deriveKey secret "link" (genContext tenant resetGen) }

/-- Whether this device's identity digest is the higher of the two on a link, read as numbers. [UNVERIFIED, log 145] -/
def higherIdentity (peer : Nat) : Bool := decide (Config.peerIdentity peer < Config.identityDigest)

/-- The two contributions of a splice link, the lower identity's first. -/
def contributions (lo hi : Nat) : List Byte := leBytes 32 lo ++ leBytes 32 hi

/-- The domain root that two devices form (R423). -/
def formRoot (lo hi : Nat) (dLo dHi : Digest) : Nat :=
  leNat (kdf (contributions lo hi) "domain" (digestBytes dLo ++ digestBytes dHi))

/-- The key of a splice link. -/
def spliceKey (lo hi : Nat) (dLo dHi : Digest) (gLo gHi : Nat) : BitVec 256 :=
  BitVec.ofNat 256 (leNat (kdf (contributions lo hi) "splice" (digestBytes dLo ++ digestBytes dHi ++ leBytes 4 gLo ++ leBytes 4 gHi)))

/-- SHA-512 of a domain root (Table 15.1), and of MODULUS followed by PUB_EXPONENT (Table 18.3). -/
def rootDigest (root : Nat) : Digest := shaDigest (leBytes 32 root)
def modulusDigest (modulus : BitVec 4096) (exponent : U32) : Digest := shaDigest (leBytes 512 modulus.toNat ++ leBytes 4 exponent.toNat)

/-! ## Nonces -/

/-- A nonce of Table 10.3. -/
def nonceOf (reply object : Bool) (kind lane counter : Nat) : BitVec 96 :=
  BitVec.ofNat 96 (flagBit reply 95 + flagBit object 94 + kind % 64 * 2 ^ 88 + lane % 2 ^ 24 * 2 ^ 64 + counter % 2 ^ 64)

/-! ## Sealed messages -/

/-- The ciphertext of a sealed message and its tag. -/
def cipherOf (m : SealedMsg) : List Byte := gcmSeal (keyBytes m.key) m.nonce m.plain
def tagOf (m : SealedMsg) : List Byte := gcmTag (keyBytes m.key) m.nonce m.aad (cipherOf m)

/-- A message's seal record (Table 7.2). -/
def sealRecord (m : SealedMsg) : List Byte := leBytes 12 m.nonce.toNat ++ leBytes 4 m.plain.length ++ tagOf m

/-! ## Packets -/

/-- A packet's 64-byte header (Table 10.1). -/
def packetHeader (p : Packet) : List Byte :=
  leBytes 4 p.opWord.toNat ++ leBytes 4 p.jobHandle.toNat ++ leBytes 8 p.tag.toNat ++ leBytes 4 p.lenWord.toNat
    ++ leBytes 4 p.reserved14.toNat ++ leBytes 8 p.replyRoute.toNat ++ leBytes 12 p.nonce.toNat ++ leBytes 4 p.reserved2C.toNat
    ++ leBytes 16 p.gcmTag.toNat

/-- A descriptor (Table 10.4). -/
def descriptorBytes (d : Descriptor) : List Byte := leBytes 8 d.address.toNat ++ leBytes 4 d.lenKind.toNat ++ leBytes 4 d.rkey.toNat

/-- An ingest record's header, the additional data of its seal (Table 6.7). -/
def ingestHeader (r : IngestRecord) : List Byte :=
  leBytes 4 r.ingestHandle.toNat ++ leBytes 4 r.blockNo.toNat ++ leBytes 2 r.layer.toNat ++ [r.head, r.recFlags]
    ++ leBytes 2 r.firstToken.toNat ++ leBytes 2 r.tokenCount.toNat ++ leBytes 4 r.payloadLen.toNat ++ leBytes 4 r.reserved14.toNat
    ++ leBytes 12 r.nonce.toNat ++ leBytes 12 r.reserved24.toNat

/-! ## Replies (Table 10.6) -/

/-- Bytes 0x08 to 0x1F, which a sealed reply carries as ciphertext (R295). -/
def replyBody (r : Reply) : List Byte :=
  leBytes 4 (statusWord r).toNat ++ leBytes 4 r.result0.toNat ++ leBytes 8 r.result1.toNat ++ leBytes 8 r.slate

/-- The sealed form of a reply. -/
def replySeal (r : Reply) (key : BitVec 256) (counter : Nat) : SealedMsg :=
  { key := key, nonce := nonceOf true false 0 r.lane counter, aad := leBytes 8 r.tag.toNat, plain := replyBody r }

/-- A reply's 64 bytes. -/
def replyBytes (r : Reply) : List Byte :=
  match r.sealed with
  | none => leBytes 8 r.tag.toNat ++ replyBody r ++ zeroBytes 32
  | some (key, counter) =>
    let m := replySeal r key counter
    leBytes 8 r.tag.toNat ++ cipherOf m ++ leBytes 12 m.nonce.toNat ++ zeroBytes 4 ++ tagOf m

/-! ## Reply payloads (R296) -/

/-- An entry of the holder list (Table 15.5), of a statistics payload (R309), an event record (Table 16.8), and an entry of the
spare map (Table 16.6). -/
def holderBytes (h : HolderRange) : List Byte :=
  leBytes 2 h.device ++ leBytes 1 h.hopsUsed ++ leBytes 1 h.tierHint ++ leBytes 4 h.firstBlock ++ leBytes 4 h.lastBlock ++ zeroBytes 4
def counterBytes (r : CounterRec) : List Byte := leBytes 2 r.id ++ zeroBytes 6 ++ leBytes 8 r.value
def eventBytes (e : EventRec) : List Byte :=
  leBytes 8 e.slate ++ leBytes 2 e.code ++ leBytes 2 e.tenant ++ leBytes 4 e.source ++ leBytes 4 e.argA ++ leBytes 4 e.resetGen
    ++ leBytes 8 (e.argB % 2 ^ 64).toNat
def spareBytes (l : SpareLine) : List Byte :=
  leBytes 1 l.kind ++ leBytes 1 l.cause ++ zeroBytes 2 ++ leBytes 4 l.failed ++ leBytes 4 (l.spare.getD 0xFFFFFFFF) ++ zeroBytes 4

/-- The eight registers of Table 14.8. -/
def measurementBytes (m : Measurements) : List Byte :=
  digestBytes m.rom ++ digestBytes m.loader ++ digestBytes m.firmware ++ digestBytes m.config ++ digestBytes m.fuses
    ++ digestBytes m.staged ++ digestBytes m.spareMap ++ leBytes 4 m.resetGen ++ zeroBytes 60

/-- One of the four VARIANTS entries. -/
def variantBytes (v : ReportVariant) : List Byte :=
  leBytes 1 v.variant ++ leBytes 1 v.kCodec ++ leBytes 1 v.vCodec ++ leBytes 1 (flagBit v.loaded 0 + flagBit v.lost 1) ++ zeroBytes 12
    ++ digestBytes v.weightsDigest

/-- Job claims, bytes 0x230 to 0x3AF. -/
def claimBytes (c : JobClaims) : List Byte :=
  leBytes 2 c.tenant ++ leBytes 2 (flagBit c.debugConsent 0 + flagBit c.rawFallback 1 + flagBit (c.classDefault == .be) 2)
    ++ leBytes 4 c.regGen ++ leBytes 4 c.jobHandle.toNat ++ leBytes 4 c.modelId.toNat
    ++ (c.scopes.flatMap fun x => leBytes 2 x.toNat) ++ zeroBytes (2 * (16 - c.scopes.length)) ++ leBytes 1 c.scopes.length
    ++ leBytes 1 c.variants.length ++ zeroBytes 14 ++ c.variants.flatMap variantBytes ++ zeroBytes (80 * (4 - c.variants.length))

/-- A report's bytes 0x000 to 0x3AF (Table 14.10). -/
def reportBody (r : AttReport) : List Byte :=
  leBytes 2 1 ++ leBytes 2 (flagBit r.claims.isSome 0 + flagBit r.stagedFlag 1 + flagBit r.debugUnlocked 2)
    ++ leBytes 4 r.measurements.resetGen ++ leBytes 8 r.slate ++ leBytes 32 r.callerNonce.toNat ++ measurementBytes r.measurements
    ++ (r.claims.map claimBytes).getD (zeroBytes 384)

/-- A report with its signature, and the certificate chain when it was asked for (R409). -/
def reportBytes (r : AttReport) : List Byte :=
  reportBody r ++ beBytes 512 (Config.identitySignature (reportBody r)).toNat ++ (if r.certChain then Config.certChain else [])

/-- The plaintext of a reply payload. -/
def payloadPlain : PayloadBody → List Byte
  | .addresses l => l.flatMap (leBytes 8)
  | .holders localCount degraded lowerBound budgetSpent hs =>
    leBytes 4 localCount ++ leBytes 2 hs.length ++ leBytes 2 (flagBit degraded 0 + flagBit lowerBound 1 + flagBit budgetSpent 2)
      ++ zeroBytes 8 ++ hs.flatMap holderBytes
  | .stats window rs => leBytes 8 window ++ leBytes 4 rs.length ++ zeroBytes 4 ++ rs.flatMap counterBytes
  | .events es => leBytes 4 es.length ++ zeroBytes 12 ++ es.flatMap eventBytes
  | .report r => reportBytes r
  | .spareMap left ls => leBytes 4 ls.length ++ left.flatMap (leBytes 2) ++ zeroBytes 2 ++ ls.flatMap spareBytes

/-- The 16 bytes before a payload's ciphertext. -/
def payloadHead (full written : Nat) : List Byte := leBytes 4 full ++ leBytes 4 written ++ zeroBytes 8

/-- The seal of a payload under the reply key, with the nonce of its reply changed to OBJECT = 1 and OBJECT_KIND = 5. -/
def payloadSeal (key : BitVec 256) (lane counter : Nat) (tag : U64) (full written : Nat) (body : PayloadBody) : SealedMsg :=
  { key := key, nonce := nonceOf true true 5 lane counter, aad := payloadHead full written ++ leBytes 8 tag.toNat,
    plain := (payloadPlain body).take written }

/-- A payload as it is written: header, ciphertext and tag, or in plaintext where TLS protects it (R293). -/
def payloadBytes (p : Payload) : List Byte :=
  payloadHead p.fullLen p.writtenLen ++ match p.sealedAs with
    | none => (payloadPlain p.body).take p.writtenLen ++ zeroBytes 16
    | some m => cipherOf m ++ tagOf m

/-! ## Ring entries -/

/-- A submission entry (Table 13.9). -/
def sqEntryBytes (e : SqEntry) : List Byte := [e.kind] ++ leBytes 3 e.reserved01.toNat ++ leBytes 4 e.arg.toNat ++ leBytes 8 e.offset.toNat

/-- A completion entry (Table 13.10). -/
def cqEntryBytes (phase : Bool) (sqHead : Nat) : CqBody → List Byte
  | .reply r => replyBytes r ++ leBytes 1 1 ++ leBytes 1 (flagBit phase 0) ++ zeroBytes 2 ++ leBytes 2 sqHead ++ zeroBytes 58
  | .notice w => leBytes 4 w.toNat ++ zeroBytes 60 ++ leBytes 1 2 ++ leBytes 1 (flagBit phase 0) ++ zeroBytes 2 ++ leBytes 2 sqHead
      ++ zeroBytes 58

/-! ## The configuration record (Tables 18.2, 18.3, 10.17, 10.18) -/

/-- PC_FLAGS of a PORT_CONFIG block. -/
def portFlags (c : PortCfg) : Nat :=
  flagBit c.adminDown 0 + flagBit c.pfcEnable 1 + flagBit c.ecnEnable 2 + flagBit c.cxlEnable 3

/-- PORT_KIND and PORT of the record's eleven blocks. -/
def portIdent (i : Nat) : Nat × Nat := if i < 4 then (1, i) else if i < 6 then (2, i - 4) else if i < 10 then (3, i - 6) else (4, 0)

/-- A port block, a route entry and a registry entry of the record. -/
def portBytes (i : Nat) (c : PortCfg) : List Byte :=
  leBytes 1 (portIdent i).1 ++ leBytes 1 (portIdent i).2 ++ leBytes 1 c.mode ++ leBytes 1 (portFlags c) ++ [c.priorities] ++ zeroBytes 3
def routeBytes (i : Nat) (r : Route) : List Byte :=
  [0] ++ leBytes 1 i ++ leBytes 2 r.dest ++ leBytes 1 r.outPort ++ leBytes 1 (flagBit r.valid 0) ++ zeroBytes 2
def quotaBytes (q : Quotas) : List Byte :=
  leBytes 8 q.ingestBytes.toNat ++ leBytes 8 q.t3WriteBytes.toNat ++ leBytes 4 q.attendUnits.toNat ++ leBytes 4 q.commandsInFlight.toNat
    ++ leBytes 4 q.pins.toNat ++ leBytes 4 q.jobPinLimit.toNat ++ leBytes 2 q.openJobs.toNat
def registryBytes (t : Registry) : List Byte :=
  leBytes 2 t.tenant ++ leBytes 1 t.policy ++ leBytes 1 (flagBit t.registered 0) ++ leBytes 4 t.regGen ++ digestBytes t.keyDigest
    ++ quotaBytes t.quotas ++ zeroBytes 22

/-- `f` of every element with its position. -/
def numbered {α : Type} (f : Nat → α → List Byte) : Nat → List α → List Byte
  | _, [] => []
  | i, x :: xs => f i x ++ numbered f (i + 1) xs

/-- The configuration record, which measurement 4 covers (R489). -/
def recordBytes (c : ConfigRecord) : List Byte :=
  leBytes 4 1 ++ leBytes 4 (0x2C8 + 128 * c.tenants.length) ++ leBytes 8 c.seq ++ digestBytes c.anchor ++ leBytes 1 c.overprovision
    ++ leBytes 1 c.debugState ++ leBytes 1 c.beFloor ++ leBytes 1 c.lcReserve ++ leBytes 2 c.deviceNumber ++ zeroBytes 2
    ++ leBytes 8 c.dailyBudget ++ numbered portBytes 0 c.ports ++ c.windows.flatMap (leBytes 4) ++ numbered routeBytes 0 c.routes
    ++ leBytes 4 c.tenants.length ++ zeroBytes 4 ++ c.tenants.flatMap registryBytes

end Sys2Proof.Machine
end

