-- ==== Sys2Proof/Machine/Ops.lean ====
section
/-! DEFINITION. The named operations every meaning is built from: events, pools, free orders, jobs, lanes,
command slots, replies and payloads. -/
namespace Sys2Proof.Machine

/-! ## Lists -/

/-- `l` with `f` applied to every element that `p` names. -/
def updWhere {α : Type} (p : α → Bool) (f : α → α) (l : List α) : List α :=
  l.map fun x => if p x then f x else x

/-- The lowest number from `i` on that `used` does not name, looking at `fuel` numbers. -/
def lowestFreeFrom (used : List Nat) : Nat → Nat → Nat
  | 0, i => i
  | fuel + 1, i => if used.contains i then lowestFreeFrom used fuel (i + 1) else i

/-- The lowest number that `used` does not name. [DEDUCED, log 11, 15] -/
def lowestFree (used : List Nat) : Nat := lowestFreeFrom used (used.length + 1) 0

/-- `l` with `x` put before the first element that `lt x` names: a stable insertion. [DEDUCED, log 142] -/
def insertBy {α : Type} (lt : α → α → Bool) (x : α) : List α → List α
  | [] => [x]
  | y :: ys => if lt x y then x :: y :: ys else y :: insertBy lt x ys

/-- Stable insertion sort. [DEDUCED, log 142] -/
def sortBy {α : Type} (lt : α → α → Bool) (l : List α) : List α :=
  l.foldl (fun acc x => insertBy lt x acc) []

/-- The sum of `f` over a list. -/
def sumOf {α : Type} (f : α → Nat) (l : List α) : Nat := l.foldl (fun n x => n + f x) 0

/-- Bits [lo + w - 1 : lo] of a number. -/
def bitsOf (n lo w : Nat) : Nat := n / 2 ^ lo % 2 ^ w

/-- Bit `i` of a number. -/
def bitOf (n i : Nat) : Bool := bitsOf n i 1 == 1

/-! ## The clapper -/

/-- The next event takes the next slate number (R453). -/
def tick (s : State) : State := { s with clk := { s.clk with slate := s.clk.slate + 1 } }

/-- The MAC address of a port: 0 to 15 are the logical Ethernet ports (R333), 16 is the management port (R481). -/
def macOf (port : Nat) : BitVec 48 := Config.baseMac + BitVec.ofNat 48 port

/-- A frame of a logical port: priority-tagged with PFC_ENABLE (R335), and ECT(0) for a RoCEv2 packet with ECN_ENABLE (R337). -/
def frameOf (s : State) (lport pcp dscp : Nat) (roce : Bool) : Frame :=
  let c := s.cfg.ports[lport / 4]?
  { lport := lport, mac := macOf lport, tag := if (c.map (·.pfcEnable)).getD false then some pcp else none, dscp := dscp,
    ect := roce && (c.map (·.ecnEnable)).getD false }

/-- The queue pair with a number (Table 12.3). -/
def qpnOf (q : Qp) : Nat := q.gen * 2 ^ 17 + q.context
def findQp (s : State) (qpn : Nat) : Option Qp := s.net.qps.find? fun q => qpnOf q == qpn

/-- A frame of a queue pair, whose PCP is DSCP[5:3] (R335). -/
def qpFrame (s : State) (qpn : Nat) (o : Output) : Output :=
  match findQp s qpn with
  | none => o
  | some q => .framed (frameOf s q.lport (q.dscp / 8) q.dscp true) o

/-- A frame of QP1 on a logical port: PCP 6 (R335); the spec states no DSCP for a CM message. [DESIGN CHOICE, log 172] -/
def cmFrame (s : State) (lport : Nat) (o : Output) : Output := .framed (frameOf s lport 6 Config.cmDscp true) o
def cmFrameOf (s : State) (qpn : Nat) (o : Output) : Output :=
  match findQp s qpn with
  | none => o
  | some q => cmFrame s q.lport o

/-- A frame that no RoCEv2 packet fills: the spec states neither its PCP nor its DSCP. [DESIGN CHOICE, log 172] -/
def plainFrame (s : State) (lport : Nat) (o : Output) : Output :=
  .framed (frameOf s lport Config.otherPcp Config.otherDscp false) o

/-- What the device sends, in its frame where an Ethernet port sends it. -/
def dressed (s : State) : Output → Output
  | .reply r => if r.lane < 0x800000 then qpFrame s r.lane (.reply r) else .reply r
  | .payload p => if p.lane < 0x800000 then qpFrame s p.lane (.payload p) else .payload p
  | .rdmaWrite qpn rkey addr len imm data => qpFrame s qpn (.rdmaWrite qpn rkey addr len imm data)
  | .rdmaReadRequest qpn rkey addr len => qpFrame s qpn (.rdmaReadRequest qpn rkey addr len)
  | .rdmaReadResponse qpn psn data => qpFrame s qpn (.rdmaReadResponse qpn psn data)
  | .rdmaAck qpn psn => qpFrame s qpn (.rdmaAck qpn psn)
  | .rdmaNak qpn psn k => qpFrame s qpn (.rdmaNak qpn psn k)
  | .cnp qpn => match findQp s qpn with
    | none => .cnp qpn
    | some q => .framed (frameOf s q.lport 6 48 true) (.cnp qpn)
  | .cmRep qpn psn => cmFrameOf s qpn (.cmRep qpn psn)
  | .cmRej lport why => cmFrame s lport (.cmRej lport why)
  | .cmDreq qpn => cmFrameOf s qpn (.cmDreq qpn)
  | .cmDrep qpn => cmFrameOf s qpn (.cmDrep qpn)
  | .arpReply lport ip => plainFrame s lport (.arpReply lport ip)
  | .neighborAdvert lport ip => plainFrame s lport (.neighborAdvert lport ip)
  | .echoReply lport => plainFrame s lport (.echoReply lport)
  | .dhcpRequest port => if port < 16 then plainFrame s port (.dhcpRequest port) else .dhcpRequest port
  | o => o

/-- Sends `o`. [DESIGN CHOICE, log 4] -/
def emit (o : Output) (s : State) : State := { s with out := s.out ++ [dressed s o] }

/-- Appends a record to the ring of the last 65,536 (R456). -/
def addEvent (e : EventRec) (c : Clapper) : Clapper :=
  if c.events.length < Config.eventRing then { c with events := c.events ++ [e] }
  else { c with events := c.events.drop 1 ++ [e], overwritten := c.overwritten + 1 }

/-- Raises an event (Tables 16.8 and 16.9). -/
def raise (code tenant source argA : Nat) (argB : Int) (s : State) : State :=
  let s1 := tick s
  { s1 with clk := addEvent { slate := s1.clk.slate, code := code, tenant := tenant, source := source, argA := argA,
                              resetGen := s1.sec.resetGen, argB := argB } s1.clk }

/-- A fresh index into the free values. [DESIGN CHOICE, log 5] -/
def useFree (s : State) : Nat × State := (s.free, { s with free := s.free + 1 })

/-- Changes a function's registers. -/
def setFunc (port link fn : Nat) (f : FuncRegs → FuncRegs) (s : State) : State :=
  { s with host := { s.host with funcs := updWhere (fun x => x.port == port && x.link == link && x.fn == fn) f s.host.funcs } }

/-- Whether a vector's mask bit is set in the MSI-X table: it is until the host writes its control dword. [PRESUMED, log 84] -/
def vectorMasked (f : FuncRegs) (v : Nat) : Bool :=
  let control : U32 := ((f.msix.find? fun x => x.1 == 4 * v + 3).map fun x => x.2).getD 1
  bitOf control.toNat 0

/-- Sends an MSI-X message; a masked vector's stays pending in the PBA. [PRESUMED, log 84] -/
def sendMsix (port link fn v : Nat) (s : State) : State :=
  match s.host.funcs.find? fun f => f.port == port && f.link == link && f.fn == fn with
  | none => s
  | some f =>
    if vectorMasked f v then setFunc port link fn (fun f => { f with pba := v :: f.pba.filter fun x => x != v }) s
    else emit (.msix port link fn v) s

/-- Every function of both ports takes FUNC_EVENTS bit `bit`, and sends its message where the bit is
unmasked (R366). -/
def setFuncEvent (bit : Nat) (s : State) : State :=
  let fs := s.host.funcs.map fun f => if bitOf f.events bit then f else { f with events := f.events + 2 ^ bit }
  (s.host.funcs.filter fun f => !bitOf f.mask bit).foldl (fun s f => sendMsix f.port f.link f.fn f.vector s)
    { s with host := { s.host with funcs := fs } }

/-- Adds `n` to fault counter 0x0301 + `i` (Table 16.10). -/
def countFault (i n : Nat) (s : State) : State :=
  { s with faults := { s.faults with counters := s.faults.counters.modify i (· + n) } }

/-- Adds 1 to splice counter 0x0701 + `i` (Table 18.5). -/
def countSplice (i : Nat) (s : State) : State :=
  { s with splice := { s.splice with counters := s.splice.counters.modify i (· + 1) } }

/-- Adds `n` to counter `i` of a logical port, in the order of "Network counters". -/
def countPort (lport i n : Nat) (s : State) : State :=
  let ps := updWhere (fun l => l.num == lport) (fun l => { l with counters := l.counters.modify i (· + n) }) s.net.lports
  { s with net := { s.net with lports := ps } }

/-! ## Free orders -/

/-- The index that has been free longest, its generation for this use, and the pool without it (R32, R53,
R189): generation 0 at first use, one higher at each reuse. `none` when every index is in use. -/
def IndexPool.take (p : IndexPool) : Option (Nat × Nat × IndexPool) :=
  if p.fresh < p.size then
    some (p.fresh, 0, { p with fresh := p.fresh + 1, gens := (p.fresh, 0) :: p.gens })
  else
    match p.freed with
    | [] => none
    | i :: rest =>
      let g := (((p.gens.find? fun x => x.1 == i).map (·.2)).getD 0 + 1) % p.genMod
      some (i, g, { p with freed := rest, gens := updWhere (fun x => x.1 == i) (fun _ => (i, g)) p.gens })

/-- `i` joins the end of the free order. -/
def IndexPool.give (i : Nat) (p : IndexPool) : IndexPool := { p with freed := p.freed ++ [i] }

/-- How many indices are free. -/
def IndexPool.free (p : IndexPool) : Nat := (p.size - p.fresh) + p.freed.length

/-! ## Pools (R325, R326) -/

/-- What a class may take of `n` units: LC from its reserve first, BE from the shared part only. -/
def Pool.take (c : Cls) (n : Nat) (p : Pool) : Option (Taken × Pool) :=
  match c with
  | .lc =>
    if n ≤ p.lcFree + p.sharedFree then
      some ({ lc := min n p.lcFree, shared := n - p.lcFree },
            { p with lcFree := p.lcFree - n, sharedFree := p.sharedFree - (n - p.lcFree) })
    else none
  | .be =>
    if n ≤ p.sharedFree then some ({ lc := 0, shared := n }, { p with sharedFree := p.sharedFree - n }) else none

/-- Units return to the part they came from. -/
def Pool.give (t : Taken) (p : Pool) : Pool :=
  { p with lcFree := p.lcFree + t.lc, sharedFree := p.sharedFree + t.shared }

/-- A new reserve size (R325): free units move between the two parts as far as they are free. [DEDUCED, log 122] -/
def Pool.resize (pct : Nat) (p : Pool) : Pool :=
  let want := p.total * pct / 100
  if want ≥ p.reserveSize then
    let d := min (want - p.reserveSize) p.sharedFree
    { p with reserveSize := want, lcFree := p.lcFree + d, sharedFree := p.sharedFree - d }
  else
    let d := min (p.reserveSize - want) p.lcFree
    { p with reserveSize := want, lcFree := p.lcFree - d, sharedFree := p.sharedFree + d }

/-! ## The configuration record (R489) -/

/-- A change of the configuration record: CR_SEQ rises and the record is programmed, its DEBUG_STATE as zero. [DEDUCED, log 104] -/
def commitRecord (f : ConfigRecord → ConfigRecord) (s : State) : State :=
  let c := { f s.cfg with seq := (s.cfg.seq + 1) % 2 ^ 64 }
  { s with cfg := c, persist := { s.persist with config := { c with debugState := 0 } } }

/-! ## Device state -/

/-- DEVICE_STATE (Table 13.3): 5 during a compute-domain reset, else by the start-up step (Table 17.8). -/
def deviceState (s : State) : Nat :=
  if s.sec.transition then 5 else if s.power.step ≤ 5 then 0 else s.power.step - 5

/-- Intake answers ST_TRANSITION: a compute-domain reset is in progress, the new reset generation has not
yet reached T3 (R391), or a hold-up flush runs (Table 17.3). [DEDUCED, log 20] -/
def inTransition (s : State) : Bool := s.sec.transition || !s.sec.genProgrammed || s.power.flushing.isSome

/-! ## Jobs, lanes and handles -/

/-- The job entry with an index. -/
def findJob (s : State) (j : Nat) : Option Job := s.jobs.table.find? fun x => x.index == j

/-- Changes a job entry. -/
def setJob (j : Nat) (f : Job → Job) (s : State) : State :=
  { s with jobs := { s.jobs with table := updWhere (fun x => x.index == j) f s.jobs.table } }

/-- Changes a job's counters (Table 10.13). -/
def countJob (j : Nat) (f : JobCounters → JobCounters) (s : State) : State :=
  setJob j (fun x => { x with counters := f x.counters }) s

/-- The binding of a lane. -/
def findLane (s : State) (l : Nat) : Option Lane := s.jobs.lanes.find? fun x => x.lane == l

/-- A job handle (Table 2.2). -/
def jobHandle (j : Job) : Nat := j.tenant * 2 ^ 20 + j.index * 2 ^ 6 + j.gen

/-- The job a handle names, unless R31 or R307 refuses it. -/
def resolveJob (s : State) (h : Nat) : Option Job :=
  (findJob s (bitsOf h 6 14)).bind fun j =>
    if j.tenant == bitsOf h 20 12 && j.gen == bitsOf h 0 6 && !j.closing then some j else none

/-- Whether a lane identifier is an RDMA queue pair's (R289). -/
def isRdmaLane (l : Nat) : Bool := l < 0x800000

/-- The lane identifier of a ring pair (R289), and of a management session (the model's own). -/
def ringLane (port ring : Nat) : Nat := 0x800000 + 4096 * port + ring
/-- [DEDUCED, log 75] -/
def mgmtLane (n : Nat) : Nat := 0x1000000 + n

/-- The registry entry of a tenant. -/
def findTenant (s : State) (t : Nat) : Option Registry := s.cfg.tenants.find? fun x => x.tenant == t

/-- The registration generation of a tenant, 0 when it was never registered. -/
def regGenOf (s : State) (t : Nat) : Nat := ((findTenant s t).map (·.regGen)).getD 0

/-- The live epochs of a tenant (R402). -/
def epochsOf (s : State) (t : Nat) : Epochs :=
  (s.persist.epochs.find? fun e => e.tenant == t).getD { tenant := t, oldest := 0, newest := 0 }

/-- Whether an EPOCH value is live (R402). -/
def epochLive (s : State) (t e : Nat) : Bool :=
  let ep := epochsOf s t
  (List.range (ep.newest + 1 - ep.oldest)).any fun i => (ep.oldest + i) % 4 == e

/-- A tenant's use in this window (Table 11.6). -/
def useOf (s : State) (t : Nat) : TenantUse :=
  (s.jobs.use.find? fun u => u.tenant == t).getD
    { tenant := t, ingestBytes := 0, t3Bytes := 0, attendUnits := 0, refusals := 0, parks := 0, snapshot := [] }

/-- Changes a tenant's use. -/
def setUse (t : Nat) (f : TenantUse → TenantUse) (s : State) : State :=
  { s with jobs := { s.jobs with use := f (useOf s t) :: s.jobs.use.filter fun u => u.tenant != t } }

/-- A tenant's quotas in force; no limit for a tenant without an entry (R312). -/
def quotasOf (s : State) (t : Nat) : Quotas :=
  ((findTenant s t).map (·.liveQuotas)).getD
    { ingestBytes := BitVec.allOnes 64, t3WriteBytes := BitVec.allOnes 64, attendUnits := BitVec.allOnes 32,
      commandsInFlight := BitVec.allOnes 32, pins := BitVec.allOnes 32, jobPinLimit := BitVec.allOnes 32,
      openJobs := BitVec.allOnes 16 }

/-- A limit that is not all ones and that `used` has reached (R312, R330). -/
def spent {w : Nat} (limit : BitVec w) (used : Nat) : Bool :=
  limit != BitVec.allOnes w && limit.toNat ≤ used

/-- A job's pins as R55 counts them: the sum of N over its pin records. -/
def jobPins (s : State) (j : Nat) : Nat :=
  sumOf (·.blocks) (s.index.records.filter fun r => r.job == j)

/-- A tenant's pins, summed as R55 counts them. -/
def tenantPins (s : State) (t : Nat) : Nat :=
  sumOf (fun j => jobPins s j.index) (s.jobs.table.filter fun j => j.tenant == t)

/-- Commands of a tenant in flight. -/
def tenantCommands (s : State) (t : Nat) : Nat :=
  (s.jobs.cmds.filter fun c => c.job.isSome && c.tenant == t).length

/-- Open jobs of a tenant. -/
def tenantJobs (s : State) (t : Nat) : Nat := (s.jobs.table.filter fun j => j.tenant == t).length

/-! ## Ring pairs -/

/-- The ring pair of a lane identifier. -/
def findRing (s : State) (port ring : Nat) : Option RingPair :=
  s.host.rings.find? fun r => r.port == port && r.ring == ring

/-- Changes a ring pair. -/
def setRing (port ring : Nat) (f : RingPair → RingPair) (s : State) : State :=
  { s with host := { s.host with rings := updWhere (fun r => r.port == port && r.ring == ring) f s.host.rings } }

/-- Port and ring-pair number of a PCIe lane identifier. -/
def laneRing (l : Nat) : Nat × Nat := ((l - 0x800000) / 4096, (l - 0x800000) % 4096)

/-- The entries of a completion ring (Table 13.6). -/
def cqSize (r : RingPair) : Nat := 64 * 2 ^ r.cqOrder

/-- Free completion entries that no reservation holds (R373). One entry always separates tail from head. -/
def cqFree (r : RingPair) : Nat :=
  cqSize r - 1 - ((r.cqTail + cqSize r - r.cqHead) % cqSize r) - r.reserved

/-- Sends a ring pair's MSI-X message at most once per COALESCE_US (R375). -/
def ringInterrupt (port ring : Nat) (s : State) : State :=
  match findRing s port ring with
  | none => s
  | some r =>
    if r.coalesce == 0 then sendMsix port r.link r.fn r.vector s
    else if r.coalescing then setRing port ring (fun r => { r with coalescePending := true }) s
    else setRing port ring (fun r => { r with coalescing := true }) (sendMsix port r.link r.fn r.vector s)

/-- Writes one completion entry into the place reserved for it (R372, R373). -/
def writeCompletion (port ring : Nat) (b : CqBody) (s : State) : State :=
  match findRing s port ring with
  | none => s
  | some r =>
    if r.enable then
      let s1 := emit (.completion port ring r.cqTail r.phase b r.sqHead) s
      let s2 := setRing port ring (fun r =>
        let t := (r.cqTail + 1) % cqSize r
        { r with cqTail := t, phase := if t == 0 then !r.phase else r.phase, reserved := r.reserved - 1 }) s1
      ringInterrupt port ring s2
    else s

/-! ## Engine queues and contexts -/

/-- The engine of a kind. -/
def getEngine (s : State) : EngineKind → Engine
  | .tile => s.eng.tiles
  | .codec => s.eng.codecs
  | .crypto => s.eng.cryptos
  | .mover => s.eng.movers
  | .control => s.eng.control
  | .hasher n => (s.eng.hashers[n]?).getD (idleEngine 0)
  | .rdma n => (s.eng.rdma[n]?).getD (idleEngine 0)
  | .host n => (s.eng.hostEng[n]?).getD (idleEngine 0)
  | .splice n => (s.eng.spliceEng[n]?).getD (idleEngine 0)

/-- The state with an engine replaced. -/
def putEngine (k : EngineKind) (e : Engine) (s : State) : State :=
  match k with
  | .tile => { s with eng := { s.eng with tiles := e } }
  | .codec => { s with eng := { s.eng with codecs := e } }
  | .crypto => { s with eng := { s.eng with cryptos := e } }
  | .mover => { s with eng := { s.eng with movers := e } }
  | .control => { s with eng := { s.eng with control := e } }
  | .hasher n => { s with eng := { s.eng with hashers := s.eng.hashers.set n e } }
  | .rdma n => { s with eng := { s.eng with rdma := s.eng.rdma.set n e } }
  | .host n => { s with eng := { s.eng with hostEng := s.eng.hostEng.set n e } }
  | .splice n => { s with eng := { s.eng with spliceEng := s.eng.spliceEng.set n e } }

/-- Puts a unit at the end of its class's queue: it became ready to be chosen now (R319). -/
def queueUnit (kind : EngineKind) (u : EUnit) (s : State) : State :=
  let e := getEngine s kind
  putEngine kind (match u.cls with
    | .lc => { e with lcq := e.lcq ++ [u] }
    | .be => { e with beq := e.beq ++ [u] }) s

/-- A unit with nothing held yet. -/
def newUnit (cls : Cls) (w : UnitWork) (slots credits : Nat) : EUnit :=
  { cls := cls, work := w, slots := slots, credits := credits, held := { lc := 0, shared := 0 },
    creditsHeld := { lc := 0, shared := 0 }, reruns := 0, bound := none, weights := none }

/-- Link credits of the next unit of a message: one for each 4 KiB (R326). -/
def unitCredits (left : Nat) : Nat := max 1 (ceilDiv (min left 65536) 4096)

/-- Changes a queue pair. -/
def setQp (qpn : Nat) (f : Qp → Qp) (s : State) : State :=
  { s with net := { s.net with qps := updWhere (fun q => qpnOf q == qpn) f s.net.qps } }

/-- Asks for a context that a packet or a message needs (R346, Table 12.4). [DEDUCED, log 30] -/
def needContext (qpn : Nat) (s : State) : State :=
  match findQp s qpn with
  | none => s
  | some q =>
    if q.resident || q.fetching then s
    else countPort q.lport 13 1 (setQp qpn (fun q => { q with fetching := true }) s)

/-! ## Replies (R295, R301) -/

/-- Whether a queue pair can still carry traffic. [DEDUCED, log 26] -/
def qpCarries (s : State) (qpn : Nat) : Bool :=
  s.net.qps.any fun q => q.gen * 2 ^ 17 + q.context == qpn && (q.state == .ready || q.state == .awaitingRtu)

/-- The PSNs that `bytes` take on a queue pair: one packet for each MTU, and one for an empty message. -/
def packetsOf (q : Qp) (bytes : Nat) : Nat := max 1 (ceilDiv bytes (max q.mtu 1))

/-- A message of `bytes` bytes takes the next PSNs of its queue pair and waits for its acknowledgement (R350). -/
def noteSent (qpn bytes : Nat) (what : SentWhat) (s : State) : State :=
  let qs := updWhere (fun q => q.gen * 2 ^ 17 + q.context == qpn) (fun q =>
    let n := packetsOf q bytes
    { q with sendPsn := q.sendPsn + BitVec.ofNat 24 n,
             sent := q.sent ++ [{ firstPsn := q.sendPsn, lastPsn := q.sendPsn + BitVec.ofNat 24 (n - 1), bytes := bytes, what := what }] })
    s.net.qps
  { s with net := { s.net with qps := qs } }

/-- The bytes of a message that was formed whole. -/
def formedBytes : Output → Nat
  | .reply _ => 64
  | .payload p => p.writtenLen + 32
  | _ => 0

/-- A message that an event forms whole becomes a candidate on its queue pair (R350). [DEDUCED, log 16] -/
def sendFormed (cls : Cls) (qpn : Nat) (o : Output) (s : State) : State :=
  match findQp s qpn with
  | none => s
  | some q =>
    let n := formedBytes o
    queueUnit (.rdma (q.lport / 4)) (newUnit cls (.send qpn (.formed q.formed cls o) n) 0 (unitCredits n))
      (needContext qpn (setQp qpn (fun q => { q with formed := q.formed + 1 }) s))

/-- The formed messages of a queue pair that are still to be sent. -/
def formsOf (s : State) (qpn : Nat) : List (Nat × Output) :=
  s.eng.rdma.flatMap fun e => (e.busy.map (·.2) ++ e.lcq ++ e.beq).filterMap fun u => match u.work with
    | .send n (.formed k _ o) _ => if n == qpn then some (k, o) else none
    | _ => none

/-- Puts a finished reply on its lane: a management session's stream, a completion entry, or a SEND. A lane
that can no longer carry it drops it (R301). [DEDUCED, log 16] -/
def putReply (cls : Cls) (r : Reply) (s : State) : State :=
  if r.lane ≥ 0x1000000 then
    if s.mgmt.sessions.any fun m => mgmtLane m.num == r.lane && m.role.isSome then emit (.reply r) s else s
  else if isRdmaLane r.lane then
    if qpCarries s r.lane then sendFormed cls r.lane (.reply r) s else s
  else writeCompletion (laneRing r.lane).1 (laneRing r.lane).2 (.reply r) s

/-- A plain reply at its own event: a rejection, whose packet became no command and goes out as LC, or any reply of the management
path. [DEDUCED, log 16] -/
def plainReply (lane : Nat) (tag : U64) (st : Status) (f : RFlags) (r0 : U32) (r1 : U64) (s : State) : State :=
  let s1 := tick s
  putReply .lc { lane := lane, tag := tag, status := st, flags := { f with plain := true }, result0 := r0, result1 := r1,
                 slate := s1.clk.slate, sealed := none } s1

/-- The reply key of a job. -/
def replyKey (s : State) (job : Nat) : BitVec 256 := ((findJob s job).map (·.keys.reply)).getD 0

/-- A reply sealed under the reply key of the job bound to the lane, with the lane's next counter (R295). A
lane bound to no job carries none (R301). -/
def sealedReply (cls : Cls) (lane : Nat) (tag : U64) (st : Status) (f : RFlags) (r0 : U32) (r1 : U64) (s : State) : State :=
  let s1 := tick s
  match findLane s1 lane with
  | none => s1
  | some l =>
    let ls := updWhere (fun x => x.lane == lane) (fun x => { x with txCounter := x.txCounter + 1 }) s1.jobs.lanes
    let s2 := { s1 with jobs := { s1.jobs with lanes := ls } }
    putReply cls { lane := lane, tag := tag, status := st, flags := f, result0 := r0, result1 := r1,
                   slate := s2.clk.slate, sealed := some (replyKey s2 l.job, l.txCounter + 1) } s2

/-- A reply on any path: plain on the management path, sealed elsewhere. -/
def anyReply (cls : Cls) (lane : Nat) (tag : U64) (st : Status) (f : RFlags) (r0 : U32) (r1 : U64) (s : State) : State :=
  if lane ≥ 0x1000000 then plainReply lane tag st f r0 r1 s else sealedReply cls lane tag st f r0 r1 s

/-- Counts a sealed reply of a job (Table 10.13), an ST_QUOTA of its tenant (Table 11.7), and an
ST_CANCELLED after the job's close (R307). -/
def countReply (job : Option Nat) (tenant : Nat) (st : Status) (s : State) : State :=
  match job with
  | none => s
  | some j =>
    let s1 := setJob j (fun x =>
      { x with
        cancelledSinceClose := x.cancelledSinceClose + (if x.closing && st == .cancelled then 1 else 0)
        counters := { x.counters with
          commandsFailed := x.counters.commandsFailed + (if st == .ok || st == .partialDone then 0 else 1)
          busyReplies := x.counters.busyReplies + (if st == .busy then 1 else 0) } }) s
    if st == .quota then setUse tenant (fun u => { u with refusals := u.refusals + 1 }) s1 else s1

/-! ## Commands in flight -/

/-- The command in a slot. -/
def findCmd (s : State) (slot : Nat) : Option Cmd := s.jobs.cmds.find? fun c => c.slot == slot

/-- Changes a command's record. -/
def setCmd (slot : Nat) (f : Cmd → Cmd) (s : State) : State :=
  { s with jobs := { s.jobs with cmds := updWhere (fun c => c.slot == slot) f s.jobs.cmds } }

/-- Parks a command (R17). -/
def park (slot : Nat) (w : Wait) (s : State) : State := setCmd slot (fun c => { c with wait := w }) s

/-- Frees a command's slot (R298). -/
def freeSlot (slot : Nat) (s : State) : State :=
  if s.jobs.cmds.any fun c => c.slot == slot then
    { s with jobs := { s.jobs with cmds := s.jobs.cmds.filter (fun c => c.slot != slot),
                                   slotsFree := s.jobs.slotsFree + 1 } }
  else s

/-- Completes a command: its slot is freed, its reply counted and sent on its reply lane. -/
def complete (c : Cmd) (st : Status) (f : RFlags) (r0 : U32) (r1 : U64) (s : State) : State :=
  anyReply c.cls c.replyLane c.tag st f r0 r1 (countReply c.job c.tenant st (freeSlot c.slot s))

/-- Completes a command with a status alone. -/
def fail (c : Cmd) (st : Status) (s : State) : State := complete c st noFlags 0 0 s

/-- Completes with ST_OK. -/
def done (c : Cmd) (r0 : U32) (r1 : U64) (s : State) : State := complete c .ok noFlags r0 r1 s

/-- ST_BUSY with its cause and a retry hint, a free value of 0 to 65,535 (R303). -/
def busy (c : Cmd) (cause : Nat) (s : State) : State :=
  let (k, s1) := useFree s
  complete c .busy noFlags (BitVec.ofNat 32 (Config.busyHint k % 65536)) (BitVec.ofNat 64 cause) s1

/-- Whether a lane can carry a reply (R301). -/
def laneCarries (s : State) (lane : Nat) : Bool :=
  if lane ≥ 0x1000000 then s.mgmt.sessions.any fun m => mgmtLane m.num == lane && m.role.isSome
  else if isRdmaLane lane then qpCarries s lane
  else ((findRing s (laneRing lane).1 (laneRing lane).2).map (·.enable)).getD false

/-- Writes a payload whose lane can carry it: on a queue pair as a message ahead of its reply (R296). [DEDUCED, log 95] -/
def putPayload (cls : Cls) (p : Payload) (s : State) : State :=
  if !laneCarries s p.lane then s else if isRdmaLane p.lane then sendFormed cls p.lane (.payload p) s else emit (.payload p) s

/-- The bytes of a payload that a buffer holds: all of it, or its head and the whole entries that fit (R296). [DEDUCED, log 95] -/
def fitting (cap full head entry : Nat) : Nat :=
  let room := cap - 32
  if full ≤ room then full else head + (room - head) / max entry 1 * entry

/-- The seal of a payload: under the reply key of the job bound to the lane, with the counter that the lane's next reply takes
(R295, R296); none on the management path. -/
def sealPayload (lane : Nat) (tag : U64) (full written : Nat) (body : PayloadBody) (s : State) : Option SealedMsg :=
  if lane ≥ 0x1000000 then none
  else (findLane s lane).map fun l => payloadSeal (replyKey s l.job) lane (l.txCounter + 1) tag full written body

/-- Completes a command with a payload written before its reply, or after it on the management path (R293), when its
buffer holds the 32 bytes that the header and the tag take, and the payload's head (R296). `full` is the whole payload's
length, `entry` the length of an entry after a head of `head` bytes. [DEDUCED, log 95] -/
def completeWith (c : Cmd) (full head entry : Nat) (body : PayloadBody) (f : RFlags) (r0 : U32) (r1 : U64)
    (s : State) : State :=
  match c.payloadCap with
  | none => complete c .ok f r0 r1 s
  | some cap =>
    if cap < 32 + head then complete c .ok f r0 r1 s
    else
      let n := fitting cap full head entry
      let p : Payload := { lane := c.replyLane, tag := c.tag, fullLen := full, writtenLen := n, body := body,
                           sealedAs := sealPayload c.replyLane c.tag full n body s }
      let g := { f with more := true }
      if c.replyLane ≥ 0x1000000 then putPayload c.cls p (complete c .ok g r0 r1 s) else complete c .ok g r0 r1 (putPayload c.cls p s)

end Sys2Proof.Machine
end

