-- ==== Sys2Proof/Machine/Operands.lean ====
section
/-! DEFINITION. The operand forms: the fields of a packet's header (Tables 10.1 to 10.3), of a descriptor
(Tables 10.4, 10.5), of a pin handle, an ingest handle and a session (Tables 2.6, 6.8, 8.1), and the
checks of reserved fields that every opcode shares. -/
namespace Sys2Proof.Machine

/-! ## OP_WORD, LEN_WORD, REPLY_ROUTE and NONCE -/

/-- OPCODE and VERSION (Table 10.2). -/
def opcodeOf (p : Packet) : Nat := bitsOf p.opWord.toNat 0 16
def versionOf (p : Packet) : Nat := bitsOf p.opWord.toNat 16 8

/-- CLASS, FENCE, BIND and the reserved bits of OP_WORD. -/
def beOf (p : Packet) : Bool := bitOf p.opWord.toNat 24
def fenceOf (p : Packet) : Bool := bitOf p.opWord.toNat 25
def bindOf (p : Packet) : Bool := bitOf p.opWord.toNat 26
def opReserved (p : Packet) : Nat := bitsOf p.opWord.toNat 27 5

/-- PARAM_LEN and DESC_COUNT. -/
def paramLen (p : Packet) : Nat := bitsOf p.lenWord.toNat 0 16
def descCount (p : Packet) : Nat := bitsOf p.lenWord.toNat 16 16

/-- ROUTE_KIND, the reserved bits and the lane of REPLY_ROUTE. -/
def routeKind (p : Packet) : Nat := bitsOf p.replyRoute.toNat 62 2
def routeReserved (p : Packet) : Nat := bitsOf p.replyRoute.toNat 24 38
def routeLane (p : Packet) : Nat := bitsOf p.replyRoute.toNat 0 24

/-- REPLY, OBJECT, OBJECT_KIND, LANE and COUNTER of NONCE (Table 10.3). -/
def nonceReply (n : BitVec 96) : Bool := bitOf n.toNat 95
def nonceObject (n : BitVec 96) : Bool := bitOf n.toNat 94
def nonceKind (n : BitVec 96) : Nat := bitsOf n.toNat 88 6
def nonceLane (n : BitVec 96) : Nat := bitsOf n.toNat 64 24
def nonceCounter (n : BitVec 96) : Nat := bitsOf n.toNat 0 64

/-- Step 1 of Table 10.9: the packet is exactly as long as LEN_WORD says, and LEN_WORD is in its ranges
(R290, Table 10.1). -/
def framingOk (p : Packet) : Bool :=
  paramLen p % 8 == 0 && decide (paramLen p ≤ 4032) && decide (descCount p ≤ 4096)
    && p.descs.length == descCount p && p.length == 64 + paramLen p + 16 * descCount p

/-- The header's reserved fields are zero (R9, Table 10.1): with ROUTE_KIND 0 the lane identifier is zero,
and ROUTE_KIND is not 2 or 3. -/
def headerReservedZero (p : Packet) : Bool :=
  opReserved p == 0 && p.reserved14 == 0 && p.reserved2C == 0 && routeReserved p == 0
    && decide (routeKind p < 2) && (routeKind p == 1 || routeLane p == 0)

/-- The fields that must be zero on the management path (R292). -/
def mgmtFieldsZero (p : Packet) : Bool :=
  p.nonce == 0 && p.gcmTag == 0 && p.jobHandle == 0 && p.replyRoute == 0

/-! ## Descriptors -/

/-- LENGTH and KIND of a descriptor (Table 10.4). -/
def descLen (d : Descriptor) : Nat := bitsOf d.lenKind.toNat 0 24
def descKind (d : Descriptor) : Nat := bitsOf d.lenKind.toNat 24 6

/-- The kinds of Table 10.5. -/
def kindToken : Nat := 1
def kindWeights : Nat := 2
def kindBlockTable : Nat := 3
def kindRemoteBuffer : Nat := 4
def kindReplyPayload : Nat := 5
def kindFirmware : Nat := 6

/-- A descriptor is well formed on a path, and of a kind that the opcode takes (R293, Table 10.4). -/
def descOk (path : Path) (kinds : List Nat) (d : Descriptor) : Bool :=
  kinds.contains (descKind d) && decide (1 ≤ descLen d) && bitsOf d.lenKind.toNat 30 2 == 0
    && (path == .rdma || d.rkey == 0) && (path != .mgmt || d.address == 0)

/-- The descriptors of one kind, in descriptor order (R293). -/
def descsOf (kind : Nat) (p : Packet) : List Descriptor := p.descs.filter fun d => descKind d == kind

/-- The bytes that the descriptors of one kind hold. -/
def descBytes (kind : Nat) (p : Packet) : Nat := sumOf descLen (descsOf kind p)

/-- The reply payload buffer's bytes; `none` without a REPLY_PAYLOAD descriptor (R296). -/
def payloadCapOf (p : Packet) : Option Nat :=
  if (descsOf kindReplyPayload p).isEmpty then none else some (descBytes kindReplyPayload p)

/-- PARAM_LEN is what the opcode defines, its reserved parameter fields are zero and its descriptors are
well formed (R9, R290, R293). -/
def formOk (p : Packet) (len : Nat) (kinds : List Nat) (reservedZero : Bool) : Bool :=
  paramLen p == len && reservedZero && p.descs.all (descOk p.path kinds)

/-! ## Handles -/

/-- The four fields of a pin handle (Table 2.6). -/
def handleJob (h : U64) : Nat := bitsOf h.toNat 50 14
def handleJobGen (h : U64) : Nat := bitsOf h.toNat 44 6
def handleRecord (h : U64) : Nat := bitsOf h.toNat 24 20
def handleGen (h : U64) : Nat := bitsOf h.toNat 0 24

/-- A pin handle from its fields. -/
def pinHandle (r : PinRecord) : U64 :=
  BitVec.ofNat 64 (r.job * 2 ^ 50 + r.jobGen * 2 ^ 44 + r.record * 2 ^ 24 + r.gen)

/-- What a pin handle named by a job's command resolves to: R54's ST_DENIED for another job's handle or record,
ST_BAD_PARAM for a free, stale or released record (R54, R56, R76). [DEDUCED, log 61] -/
def resolvePin (s : State) (j : Job) (h : U64) : Except Status PinRecord :=
  if handleJob h != j.index || handleJobGen h != j.gen then .error .denied
  else
    match s.index.records.find? fun r => r.record == handleRecord h && r.gen == handleGen h && !r.released with
    | some r => if r.job == j.index && r.jobGen == j.gen then .ok r else .error .denied
    | none => .error .badParam

/-- A token input is the bytes of one sealed object: 8 bytes a token and, off the management path, the
16-byte tag (R294). -/
def objectBytes (path : Path) (words : Nat) : Nat := 8 * words + (if path == .mgmt then 0 else 16)

end Sys2Proof.Machine
end

