-- ==== Sys2Proof/Machine/Transport.lean ====
section
/-! DEFINITION. The RC transport as responder (chapter "Network ports and RDMA"): queue pairs, contexts that are not resident,
congestion marks, and the checks of PSNs (R337, R344 to R348). -/
namespace Sys2Proof.Machine

/-- A logical port. -/
def findLport (s : State) (n : Nat) : Option LogicalPort := s.net.lports.find? fun l => l.num == n

/-- The PORT_CONFIG of a physical Ethernet port. -/
def ethCfg (s : State) (port : Nat) : PortCfg :=
  (s.cfg.ports[port]?).getD { mode := 0, adminDown := false, pfcEnable := false, ecnEnable := false, cxlEnable := false, priorities := 0 }

/-! ## Routing (R430) -/

/-- Route entry `i`. -/
def routeEntry (s : State) (i : Nat) : Option Route := (s.cfg.routes[i]?).bind fun r => if r.valid then some r else none

/-- The outgoing port for a device: the lowest-numbered valid entry that names it, else the default route. -/
def routePort (s : State) (dst : Nat) : Option Nat :=
  match s.cfg.routes.find? fun r => r.valid && r.dest == dst with
  | some r => some r.outPort
  | none => (s.cfg.routes.find? fun r => r.valid && r.dest == 0xFFFF).map (·.outPort)

/-- A splice port. -/
def findSplice (s : State) (n : Nat) : Option SplicePort := s.splice.ports.find? fun p => p.num == n

/-- Whether a link carries the messages of Table 15.3. -/
def spliceUp (s : State) (n : Nat) : Bool := ((findSplice s n).map fun p => p.step == .up).getD false

/-! ## Addresses (R333, R482) -/

/-- The interface identifier that SLAAC forms from a MAC address (RFC 4862). [PRESUMED, log 32] -/
def interfaceId (mac : BitVec 48) : BitVec 64 :=
  let hi := (mac.extractLsb' 24 24) ^^^ (0x020000 : BitVec 24)
  hi ++ (0xFFFE : BitVec 16) ++ mac.extractLsb' 0 24

/-- A port's link-local address, and the address of a prefix. [PRESUMED, log 32] -/
def linkLocal (port : Nat) : BitVec 128 := (0xFE80000000000000 : BitVec 64) ++ interfaceId (macOf port)
/-- [PRESUMED, log 32] -/
def slaacAddress (port : Nat) (pfx : U64) : BitVec 128 := pfx ++ interfaceId (macOf port)

/-- An IPv4 address as a GID (RFC 4291). [PRESUMED, log 32] -/
def mappedV4 (ip : U32) : BitVec 128 := (0xFFFF : BitVec 96) ++ ip

/-- Whether a logical port holds an address. -/
def holdsAddress (s : State) (lport : Nat) (ip : BitVec 128) : Bool :=
  ((findLport s lport).map fun l => (l.ipv4.map mappedV4) == some ip || l.ipv6.contains ip || linkLocal l.num == ip).getD false

/-- Whether a logical port's link is up. -/
def lportUp (s : State) (n : Nat) : Bool := ((findLport s n).map fun l => l.present && l.up).getD false

/-- Whether a down logical port's frames go through the relay device (R435): entry 63 is valid and its link is up.
[DEDUCED, log 103] -/
def relayed (s : State) (n : Nat) : Bool :=
  !lportUp s n && ((findLport s n).map fun l => l.present).getD false && !s.sec.transition && s.power.flushing.isNone
    && ((routeEntry s 63).bind fun r => (routePort s r.dest).map (spliceUp s)).getD false

/-- Whether a logical port carries traffic, on its own link or through the relay. [DEDUCED, log 103] -/
def lportServed (s : State) (n : Nat) : Bool := lportUp s n || relayed s n

/-! ## Contexts (R345, R346) -/

/-- A context used now. -/
def touchQp (qpn : Nat) (s : State) : State :=
  let s1 := setQp qpn (fun q => { q with lastUse := s.net.useClock + 1 }) s
  { s1 with net := { s1.net with useClock := s1.net.useClock + 1 } }

/-- The least recently used resident context that is neither pinned nor in use (R345). [DEDUCED, log 30] -/
def cacheVictim (s : State) : Option Qp :=
  (sortBy (fun a b => decide (a.lastUse < b.lastUse))
    (s.net.qps.filter fun q => q.resident && !q.pinnedInCache && q.sending.isNone && q.held.isEmpty)).head?

/-- A context enters the cache; when the cache is full, its victim leaves it. [DEDUCED, log 30] -/
def makeResident (qpn : Nat) (s : State) : State :=
  let s1 :=
    if (s.net.qps.filter (·.resident)).length < Config.cacheEntries then s
    else match cacheVictim s with
      | none => s
      | some v =>
        let wanted := s.eng.rdma.any fun e => (e.lcq ++ e.beq).any fun u => match u.work with
          | .send n _ _ => n == qpnOf v
          | .resend n _ _ _ => n == qpnOf v
          | _ => false
        setQp (qpnOf v) (fun q => { q with resident := false, fetching := wanted }) s
  touchQp qpn (setQp qpn (fun q => { q with resident := true, fetching := false }) s1)

/-- Bytes in a physical port's miss buffer. -/
def missBytes (s : State) (port : Nat) : Nat :=
  sumOf (fun q => sumOf (·.1) q.held) (s.net.qps.filter fun q => q.lport / 4 == port)

/-! ## Arrival (R336, R337, R344, Table 12.4) -/

/-- A CE-marked packet is counted, and draws a CNP with ECN_ENABLE (R337). -/
def noteCe (h : Bth) (s : State) : State :=
  if !h.ce then s
  else
    let s1 := countPort h.lport 6 1 s
    if (ethCfg s (h.lport / 4)).ecnEnable && h.cnpDue then countPort h.lport 7 1 (emit (.cnp h.qpn) s1) else s1

/-- Steps 1 and 2 of Table 12.4: a packet is dropped, held, or goes on to its PSN check. -/
def rcEnter (i : Instr) (h : Bth) (bytes : Nat) (s : State) : State × Bool :=
  if !lportServed s h.lport then (s, false)
  else if h.full && !(ethCfg s (h.lport / 4)).pfcEnable then (countPort h.lport 1 1 s, false)
  else match findQp s h.qpn with
    | none => (countPort h.lport 3 1 s, false)
    | some q =>
      if !(q.state == .ready || q.state == .awaitingRtu) || !holdsAddress s q.lport q.localIp then (s, false)
      else
        let s1 := noteCe h (touchQp h.qpn s)
        if q.resident then (s1, true)
        else if missBytes s (q.lport / 4) + bytes ≤ 4194304 then
          (needContext h.qpn (setQp h.qpn (fun q => { q with held := q.held ++ [(bytes, i)] }) s1), false)
        else (countPort h.lport 2 1 s1, false)

/-! ## PSNs (R347 to R349) -/

/-- Sends the acknowledgement of everything accepted so far. [DEDUCED, log 16] -/
def sendAck (qpn : Nat) (s : State) : State :=
  match findQp s qpn with
  | none => s
  | some q => emit (.rdmaAck qpn (q.expectedPsn - 1)) (setQp qpn (fun q => { q with ackDue := 0 }) s)

/-- A request of `n` packets has been executed: its PSNs are used, and an ACK is due within 16 packets (R349). -/
def advancePsn (qpn n : Nat) (s : State) : State :=
  let s1 := setQp qpn (fun q => { q with expectedPsn := q.expectedPsn + BitVec.ofNat 24 n, ackDue := q.ackDue + n, nakSent := false }) s
  if ((findQp s1 qpn).map fun q => decide (16 ≤ q.ackDue)).getD false then sendAck qpn s1 else s1

/-- The negative acknowledgement of a refused request, with its counter. [DEDUCED, log 26] -/
def sendNak (h : Bth) (psn : BitVec 24) (k : Nak) (s : State) : State :=
  let s1 := emit (.rdmaNak h.qpn psn k) s
  match k with
  | .sequence => countPort h.lport 9 1 s1
  | .remoteAccess => countPort h.lport 10 1 s1
  | .rnr => countPort h.lport 11 1 s1
  | .invalidRequest => s1

/-- R348: a request of `n` packets in order is executed by `k`, unless `refuse` names a NAK; a duplicate is handled by
`again`; a gap draws one sequence-error NAK. [DEDUCED, log 23, 24, 26] -/
def rcAccept (h : Bth) (n : Nat) (refuse : Option Nak) (again k : State → State) (s : State) : State :=
  match findQp s h.qpn with
  | none => s
  | some q =>
    let d := (h.psn - q.expectedPsn).toNat
    if d == 0 then
      match refuse with
      | some x => sendNak h h.psn x s
      | none => k (advancePsn h.qpn n s)
    else if d < 2 ^ 23 then
      if q.nakSent then s
      else sendNak h q.expectedPsn .sequence (setQp h.qpn (fun q => { q with nakSent := true }) s)
    else again s

/-- The packets that `bytes` take on a queue pair. [DEDUCED, log 23] -/
def rcPackets (s : State) (qpn bytes : Nat) : Nat := ((findQp s qpn).map fun q => packetsOf q bytes).getD 1

end Sys2Proof.Machine
end

