-- ==== Sys2Proof/Machine/Memory.lean ====
section
/-! DEFINITION. Byte memories in one canonical form: addresses strictly rising, and no entry equal to 0, which an unlisted
address reads as. The landing region (R347) and the host windows (R378) are such memories. -/
namespace Sys2Proof.Machine

/-- What a byte reads as. [DESIGN CHOICE, log 10] -/
def memRead (m : List Host.Cell) (a : Nat) : Byte := ((m.find? fun c => c.1 == a).map (·.2)).getD 0

/-- A cell put before the first one of a higher address. -/
def memInsert (x : Host.Cell) : List Host.Cell → List Host.Cell
  | [] => [x]
  | c :: t => if x.1 < c.1 then x :: c :: t else c :: memInsert x t

/-- Stores one byte. A zero is stored by listing nothing. -/
def memPut (a : Nat) (b : Byte) (m : List Host.Cell) : List Host.Cell :=
  let rest := m.filter fun c => c.1 != a
  if b == 0 then rest else memInsert (a, b) rest

/-- Stores bytes from an address on. [DESIGN CHOICE, log 10] -/
def memWrite : Nat → List Byte → List Host.Cell → List Host.Cell
  | _, [], m => m
  | a, b :: bs, m => memWrite (a + 1) bs (memPut a b m)

/-- The `n` bytes from an address on. -/
def memBytes (m : List Host.Cell) (a n : Nat) : List Byte := (List.range n).map fun i => memRead m (a + i)

/-- The canonical form. [DESIGN CHOICE, log 10] -/
def Memory.wf : List Host.Cell → Bool
  | [] => true
  | c :: t => c.2 != 0 && t.all (fun d => decide (c.1 < d.1)) && Memory.wf t

end Sys2Proof.Machine
end

