-- ==== Sys2Proof/Machine/Intake.lean ====
section
/-! DEFINITION. Intake of one packet (Table 10.9): the checks in their order, the lane that BIND binds, the
command slot, and the parking of a command with FENCE. -/
namespace Sys2Proof.Machine

/-- Whether the lane exists and is served (Table 17.9, R371, R480, R484): a ring that fetches, a queue pair
that carries traffic, a session with a role outside the recovery service. [DEDUCED, log 9, 20] -/
def laneServed (s : State) (p : Packet) : Bool :=
  match p.path with
  | .pcie =>
    decide (1 ≤ deviceState s) && decide (0x800000 ≤ p.lane)
      && ((findRing s (laneRing p.lane).1 (laneRing p.lane).2).map fun r => r.enable && !r.fault).getD false
  | .rdma => decide (1 ≤ deviceState s) && isRdmaLane p.lane && qpCarries s p.lane
        && !((findQp s p.lane).map (·.leaveDue)).getD false
  | .mgmt => !s.boot.recovery && s.mgmt.sessions.any fun m => mgmtLane m.num == p.lane && m.role.isSome

/-- The session of a management lane. -/
def sessionOf (s : State) (p : Packet) : Option Session :=
  s.mgmt.sessions.find? fun m => mgmtLane m.num == p.lane

/-- Step 2 of Table 10.9: during a compute-domain reset or a hold-up flush on every path; from start-up until
the reset generation is programmed on the paths that carry jobs (R391, Table 17.9). [DEDUCED, log 20] -/
def answersTransition (s : State) (p : Packet) : Bool :=
  s.sec.transition || s.power.flushing.isSome || (p.path != .mgmt && !s.sec.genProgrammed)

/-- The class of a command (R302). [DEDUCED, log 19] -/
def classOf (s : State) (tenant : Nat) (dflt : Cls) (p : Packet) : Cls :=
  match ((findTenant s tenant).map (·.livePolicy)).getD 0 with
  | 0 => if beOf p then .be else .lc
  | 1 => dflt
  | _ => .be

/-- Step 4: LANE, COUNTER and GCM_TAG (R291). `last` is the last counter accepted on the lane. [DEDUCED, log 2, 18] -/
def packetAuthentic (p : Packet) (last : Nat) : Bool :=
  !nonceReply p.nonce && !nonceObject p.nonce && nonceKind p.nonce == 0 && nonceLane p.nonce == p.lane
    && decide (last < nonceCounter p.nonce) && p.authentic

/-- How many lanes a job has bound. -/
def lanesBound (s : State) (j : Nat) : Nat := (s.jobs.lanes.filter fun l => l.job == j).length

/-- Whether a BIND is refused: a 17th bound lane (R288), a lane held earlier, or a 65th lane (R399). [DEDUCED, log 18] -/
def bindRefused (s : State) (j : Job) (lane : Nat) : Bool :=
  decide (16 ≤ lanesBound s j.index) || j.lanesEver.contains lane || decide (64 ≤ j.lanesEver.length)

/-- R345: the queue pair of a job whose class default is LC is pinned in the context cache from its binding, while
fewer than 2,048 are pinned. -/
def pinContext (j lane : Nat) (s : State) : State :=
  let pinned := (s.net.qps.filter (·.pinnedInCache)).length
  if isRdmaLane lane && decide (pinned < Config.pinnedEntries) && ((findJob s j).map fun x => x.clsDefault == .lc).getD false then
    makeResident lane (setQp lane (fun q => { q with pinnedInCache := true }) s)
  else s

/-- Binds a lane to a job, with the counter just accepted (R288, R291). -/
def bindLane (j lane counter : Nat) (s : State) : State :=
  pinContext j lane (setJob j (fun x => { x with lanesEver := x.lanesEver ++ [lane] })
    { s with jobs := { s.jobs with lanes := s.jobs.lanes ++ [{ lane := lane, job := j, lastCounter := counter, txCounter := 0 }] } })

/-- Records the counter of a packet accepted on a bound lane. -/
def recordCounter (lane counter : Nat) (s : State) : State :=
  let ls := updWhere (fun x => x.lane == lane) (fun x => { x with lastCounter := counter }) s.jobs.lanes
  { s with jobs := { s.jobs with lanes := ls } }

/-- The rejection of a packet at step 5 or 6: sealed and counted for a job, plain on the management path. -/
def reject (job : Option Job) (p : Packet) (st : Status) (r0 : U32) (r1 : U64) (s : State) : State :=
  anyReply .lc p.lane p.tag st noFlags r0 r1
    (countReply (job.map (·.index)) ((job.map (·.tenant)).getD 0) st s)

/-- Whether the path and the role allow the opcode, and REPLY_ROUTE names a lane bound to the job (R297,
R486, Table 10.9 step 5). -/
def opcodeAllowed (s : State) (op : OpInfo) (p : Packet) (job : Option Job) : Bool :=
  match job with
  | some j =>
    op.onJob && (routeKind p != 1 || ((findLane s (routeLane p)).map fun l => l.job == j.index).getD false)
  | none =>
    op.onMgmt && ((sessionOf s p).map fun m =>
      if m.provisional then op.opcode == 0x0801 || op.opcode == 0x0901
      else m.role == some .operator || op.auditor).getD false

/-- Step 5's first failure, in its order. -/
def stepFive (s : State) (op : OpInfo) (p : Packet) (job : Option Job) : Option (Status × U32) :=
  if op.opcode == 0 then some (.badOpcode, 0)
  else if versionOf p != 1 then some (.badOpcode, 1)
  else if !opcodeAllowed s op p job then some (.denied, 0)
  else if !op.early && decide (deviceState s < 3) then some (.notReady, 0)
  else if !headerReservedZero p || (p.path == .mgmt && !mgmtFieldsZero p) then some (.badParam, 0)
  else none

/-- The command's record as acceptance makes it. [DEDUCED, log 15] -/
def newCmd (s : State) (i : Instr) (p : Packet) (job : Option Job) : Cmd :=
  { slot := lowestFree (s.jobs.cmds.map (·.slot)), instr := i, tenant := (job.map (·.tenant)).getD 0,
    job := job.map (·.index), lane := p.lane, replyLane := if routeKind p == 1 then routeLane p else p.lane,
    tag := p.tag,
    cls := match job with
      | some j => classOf s j.tenant j.clsDefault p
      | none => if beOf p then .be else .lc,
    acceptSlate := s.clk.slate + 1, fence := fenceOf p, wait := .busy, late := false, count := 0, dups := 0,
    rejects := 0, left := 0, payloadCap := payloadCapOf p, ref := none, holds := [], fetched := false, phase := 0, moved := [] }

/-- Takes a command slot (R298): the acceptance event gets its slate number, and a job counts it. [DEDUCED, log 15] -/
def takeSlot (c : Cmd) (s : State) : State :=
  let s1 := tick s
  let s2 := { s1 with jobs := { s1.jobs with cmds := s1.jobs.cmds ++ [c], slotsFree := s1.jobs.slotsFree - 1 } }
  match c.job with
  | none => s2
  | some j => countJob j (fun k => { k with commandsAccepted := k.commandsAccepted + 1 }) s2

/-- Steps 5 and 6 of Table 10.9. -/
def acceptPacket (i : Instr) (op : OpInfo) (p : Packet) (job : Option Job) (s : State) : State × Option Cmd :=
  match stepFive s op p job with
  | some (st, r0) => (reject job p st r0 0 s, none)
  | none =>
    let c := newCmd s i p job
    if ((job.map fun j => spent (quotasOf s j.tenant).commandsInFlight (tenantCommands s j.tenant)).getD false) then
      (reject job p .quota 0 0 s, none)
    else if s.jobs.slotsFree == 0 || (c.cls == .be && decide (s.jobs.slotsFree ≤ Config.commandHeadroom)) then
      let (k, s1) := useFree s
      (reject job p .busy (BitVec.ofNat 32 (Config.busyHint k % 65536)) 1 s1, none)
    else (takeSlot c s, some c)

/-- Steps 3 and 4 for a packet of a job that is not a JOB_OPEN, then steps 5 and 6. [DEDUCED, log 18] -/
def authenticate (i : Instr) (op : OpInfo) (p : Packet) (s : State) : State × Option Cmd :=
  match resolveJob s p.jobHandle.toNat with
  | none => (plainReply p.lane p.tag .noJob noFlags 0 0 s, none)
  | some j =>
    match findLane s p.lane with
    | some l =>
      if l.job != j.index then (plainReply p.lane p.tag .denied noFlags 0 0 s, none)
      else if packetAuthentic p l.lastCounter then
        acceptPacket i op p (some j) (recordCounter p.lane (nonceCounter p.nonce) s)
      else
        (plainReply p.lane p.tag .integrity noFlags 0 0
          (countJob j.index (fun k => { k with authFailures := k.authFailures + 1 }) s), none)
    | none =>
      if !packetAuthentic p 0 then
        (plainReply p.lane p.tag .integrity noFlags 0 0
          (countJob j.index (fun k => { k with authFailures := k.authFailures + 1 }) s), none)
      else if bindRefused s j p.lane then
        -- R288, R399 refuse at step 4, whose rejections of a resolved JOB_HANDLE all count (Table 10.13)
        (plainReply p.lane p.tag .denied noFlags 0 0
          (countJob j.index (fun k => { k with authFailures := k.authFailures + 1 }) s), none)
      else acceptPacket i op p (some j) (bindLane j.index p.lane (nonceCounter p.nonce) s)

/-- Intake of one packet (Table 10.9): the state after it, and the command when it was accepted. -/
def intake (i : Instr) (op : OpInfo) (p : Packet) (s : State) : State × Option Cmd :=
  if !laneServed s p then (s, none)
  else if !framingOk p then (plainReply p.lane p.tag .badParam noFlags 0 0 s, none)
  else if answersTransition s p then (plainReply p.lane p.tag .transition noFlags 0 0 s, none)
  else if p.path == .mgmt then acceptPacket i op p none s
  else if (findLane s p.lane).isNone && !bindOf p then (plainReply p.lane p.tag .denied noFlags 0 0 s, none)
  else authenticate i op p s

/-- Whether every earlier accepted command of its lane has replied (R300). -/
def fenceClear (s : State) (c : Cmd) : Bool :=
  !(s.jobs.cmds.any fun d => d.lane == c.lane && decide (d.acceptSlate < c.acceptSlate))

/-- Gives back the completion entry reserved on a ring-pair lane. [DEDUCED, log 21] -/
def releaseEntry (lane : Nat) (s : State) : State :=
  if 0x800000 ≤ lane && lane < 0x1000000 then
    setRing (laneRing lane).1 (laneRing lane).2 (fun r => { r with reserved := r.reserved - 1 }) s
  else s

/-- Moves the completion entry reserved for the reply to the lane that REPLY_ROUTE names (R373); `none` when
that ring pair has no free entry. [DEDUCED, log 21] -/
def moveEntry (c : Cmd) (s : State) : Option State :=
  if c.replyLane == c.lane then some s
  else if 0x800000 ≤ c.replyLane && c.replyLane < 0x1000000 then
    match findRing s (laneRing c.replyLane).1 (laneRing c.replyLane).2 with
    | none => some (releaseEntry c.lane s)
    | some r =>
      if cqFree r == 0 then none
      else some (releaseEntry c.lane
        (setRing r.port r.ring (fun r => { r with reserved := r.reserved + 1 }) s))
  else some (releaseEntry c.lane s)

/-- Runs a command that holds its completion entry, once FENCE allows it (R300). [DEDUCED, log 21] -/
def runFenced (c : Cmd) (run : Cmd → State → State) (s : State) : State :=
  if c.fence && !fenceClear s c then park c.slot .fence s else run c s

/-- Runs an accepted command: it waits for a completion entry, then for FENCE. [DEDUCED, log 21] -/
def runAccepted (c : Cmd) (run : Cmd → State → State) (s : State) : State :=
  match moveEntry c s with
  | none => park c.slot .cqEntry s
  | some s1 => runFenced c run s1

/-- What a command packet does once its lane has delivered it: intake, what it does at its acceptance even while FENCE
holds it, and its run. -/
def perform (i : Instr) (op : OpInfo) (p : Packet) (atAccept run : Cmd → State → State) (s : State) : State :=
  match intake i op p s with
  | (s1, none) => s1
  | (s1, some c) =>
    let s2 := atAccept c s1
    match findCmd s2 c.slot with
    | none => s2
    | some c2 => runAccepted c2 run s2

/-- Nothing happens at acceptance beyond the acceptance itself. -/
def atOnce (_ : Cmd) (s : State) : State := s

/-- The job of a command in flight. -/
def jobOf (s : State) (c : Cmd) : Option Job := c.job.bind (findJob s)

/-- The scopes a job may name (R30). -/
def scopeAllowed (j : Job) (scope : U16) : Bool := j.scopes.contains scope

/-! ## The opcode index (Table 10.11) -/

/-- A job opcode served before the index is ready, and one that is not. -/
def opEarly (n : Nat) : OpInfo := { opcode := n, onJob := true, onMgmt := false, auditor := false, early := true }
def opLate (n : Nat) : OpInfo := { opcode := n, onJob := true, onMgmt := false, auditor := false, early := false }

/-- An opcode of every path, and one of the management path. -/
def opBoth (n : Nat) : OpInfo := { opcode := n, onJob := true, onMgmt := true, auditor := true, early := true }
def opMgmt (n : Nat) (auditor : Bool) : OpInfo :=
  { opcode := n, onJob := false, onMgmt := true, auditor := auditor, early := true }

end Sys2Proof.Machine
end

