-- ==== Sys2Proof/Machine/Spares.lean ====
section
/-! DEFINITION. Spares (Table 16.5, R449, R450): which physical units stand in for a failed one, and the
mapping of one. -/
namespace Sys2Proof.Machine

/-- Physical number of a stage SRAM row: [31:26] bank, [25:0] row. [UNVERIFIED, log 145] -/
def rowUnit (bank row : Nat) : Nat := bank * 2 ^ 26 + row

/-- The spares of a unit's group, in the order in which they are mapped (Table 16.5). -/
def spareGroup (kind unit : Nat) : List Nat :=
  match kind with
  | 1 => (List.range 8).map (· + 256)
  | 2 => [66 * (unit / 66) + 64, 66 * (unit / 66) + 65]
  | 3 => (List.range 4).map (· + 64)
  | 4 => (List.range 128).map (· + (4224 * (unit / 4224) + 4096))
  | 5 => (List.range 32).map fun i => rowUnit (unit / 2 ^ 26) (Config.spareRow (unit / 2 ^ 26) i)
  | _ => []

/-- Whether a spare stands unused. [DEDUCED, log 57] -/
def spareUnused (s : State) (kind u : Nat) : Bool :=
  !(s.faults.spareMap.any fun l => l.kind == kind && (l.failed == u || l.spare == some u))

/-- The unused spares of a unit's group. -/
def sparesFree (s : State) (kind unit : Nat) : List Nat := (spareGroup kind unit).filter (spareUnused s kind)

/-- One unit of each group of a kind. -/
def groupsOf (kind : Nat) : List Nat :=
  match kind with
  | 2 => (List.range 96).map (· * 66)
  | 4 => (List.range 4).map (· * 4224)
  | 5 => (List.range 64).map (rowUnit · 0)
  | _ => [0]

/-- SPARES_LEFT of a kind (Table 16.6): for kinds 1 to 3 all of them, for kinds 4 and 5 the smallest group. -/
def sparesLeft (s : State) (kind : Nat) : Nat :=
  let counts := (groupsOf kind).map fun u => (sparesFree s kind u).length
  if kind ≤ 3 then sumOf id counts else (counts.foldl min ((counts.head?).getD 0))

/-- Whether a physical unit is active: an original unit not failed, or a spare mapped and not failed. -/
def unitActive (s : State) (kind u : Nat) : Bool :=
  let failed := s.faults.spareMap.any fun l => l.kind == kind && l.failed == u
  let mapped := s.faults.spareMap.any fun l => l.kind == kind && l.spare == some u
  let original := match kind with
    | 1 => decide (u < 256)
    | 2 => decide (u < 6336) && decide (u % 66 < 64)
    | 3 => decide (u < 64)
    | 4 => decide (u < 16896) && decide (u % 4224 < 4096)
    | 5 => decide (u / 2 ^ 26 < 64) && decide (u % 2 ^ 26 < Config.stageRows)
    | _ => false
  !failed && (original || mapped)

/-- The physical unit that serves a logical position: the end of the spare map's chain from it, `none` once
the position was removed. -/
def servingUnit (s : State) (kind : Nat) : Nat → Nat → Option Nat
  | 0, u => some u
  | n + 1, u =>
    match s.faults.spareMap.find? fun l => l.kind == kind && l.failed == u with
    | none => some u
    | some l => l.spare.bind (servingUnit s kind n)

/-- EV_SPARE_MAPPED (Table 16.9), with the spare map in T3 and measurement 7 following it (R450). -/
def noteSpare (kind cause unit : Nat) (spare : Option Nat) (s : State) : State :=
  let m := s.faults.spareMap ++ [{ kind := kind, cause := cause, failed := unit, spare := spare }]
  let s1 := { s with faults := { s.faults with spareMap := m }, persist := { s.persist with spareMap := m } }
  raise 0x0008 0 kind unit (Int.ofNat ((spare.getD 0xFFFFFFFF) + sparesLeft s1 kind * 2 ^ 32)) s1

/-- Takes instance `u` out of an engine kind and puts its spare in its place. -/
def swapInst (u : Nat) (spare : Option Nat) (e : Engine) : Engine :=
  { e with active := match spare with
    | some v => e.active.map fun x => if x == u then v else x
    | none => e.active.filter fun x => x != u }

/-- The physical bank that serves a logical bank. -/
def logicalBankUnit (b : Nat) : Nat := 4224 * (b / 4096) + b % 4096

/-- The logical bank that a physical bank serves. -/
def bankServed (s : State) (u : Nat) : Option Nat :=
  match s.marr.bankMap.find? fun m => m.2 == u with
  | some m => some m.1
  | none =>
    if u % 4224 < 4096 then
      let b := 4096 * (u / 4224) + u % 4224
      if (s.marr.bankMap.any fun m => m.1 == b) || s.marr.absent.contains b then none else some b
    else none

/-- The bank number under which the entries of a physical bank stand: its logical bank's, or a number of its own while it is out of
service. [DEDUCED, log 153] -/
def entryBank (s : State) (u : Nat) : Nat := (bankServed s u).getD (16384 + u)

/-- The insertion that the dolly has in progress on a bank that is switched: it is abandoned and reported DECLINED (R117).
Whether it had begun one is a free value. [DESIGN CHOICE, log 175] -/
def abandonInsert (b : Nat) (s : State) : State :=
  let (k, s1) := useFree s
  let mine := fun (r : DollyReq) => match r with
    | .insert _ lo _ _ _ => (lo.toNat % 2 ^ 14 == b)
    | _ => false
  match ((s1.marr.sections.find? fun x => x.num == b / 4096).map (·.requests)).getD [] |>.find? mine with
  | some (.insert ptr lo t p h) =>
    if Config.dollyBusy k then
      let ss := updWhere (fun x => x.num == b / 4096) (fun x => { x with requests := x.requests.erase (.insert ptr lo t p h) }) s1.marr.sections
      { s1 with marr := { s1.marr with sections := ss, reports := s1.marr.reports ++ [.declined ptr] } }
    else s1
  | _ => s1

/-- The switch of a match-array bank (R117, R118): the spare starts with every entry invalid, or the logical
bank becomes absent. -/
def switchBank (u : Nat) (spare : Option Nat) (s0 : State) : State :=
  match bankServed s0 u with
  | none => s0
  | some b =>
    let s := abandonInsert b s0
    let es := s.marr.entries.filter fun e => e.bank != b && some e.bank != spare.map (16384 + ·)
    let m := s.marr.bankMap.filter fun m => m.1 != b
    let er := s.marr.errors.filter fun e => e.1 != u
    match spare with
    | some v => { s with marr := { s.marr with entries := es, bankMap := (b, v) :: m, errors := er } }
    | none => { s with marr := { s.marr with entries := es, bankMap := m, errors := er, absent := b :: s.marr.absent } }

/-- A stage slot that holds a removed row is held by the device for good (R450): one shared slot, or one of
the reserve when the shared part has none free. -/
def loseStageSlot (s : State) : State :=
  let p := s.eng.stage
  let q := if 0 < p.sharedFree then { p with sharedFree := p.sharedFree - 1 } else { p with lcFree := p.lcFree - 1 }
  { s with eng := { s.eng with stage := q }, faults := { s.faults with badSlots := s.faults.badSlots + 1 } }

/-- The effect of a mapping on the pool of the unit's kind (R450). -/
def switchUnit (kind unit : Nat) (spare : Option Nat) (s : State) : State :=
  match kind with
  | 1 => { s with eng := { s.eng with tiles := swapInst unit spare s.eng.tiles } }
  | 3 => { s with eng := { s.eng with codecs := swapInst unit spare s.eng.codecs } }
  | 4 => switchBank unit spare s
  | 5 => if spare.isNone then loseStageSlot s else s
  | _ => s

/-- Maps a spare in place of a failed unit, or removes the unit when its group has none left (R450). [DEDUCED, log 57, 65] -/
def mapSpare (kind cause unit : Nat) (s : State) : State :=
  let spare := (sparesFree s kind unit).head?
  noteSpare kind cause unit spare (switchUnit kind unit spare s)

end Sys2Proof.Machine
end

