-- ==== Sys2Proof/Machine/Nand.lean ====
section
/-! DEFINITION. The NAND channel sequencers (R12, R280, R320): the operations that wait for their dies, their ranks, and the suspension
of programs and erases. -/
namespace Sys2Proof.Machine

/-- The floor rule (R320): decision `k` takes BE first. -/
def floorTurn (k f : Nat) : Bool := decide (k * f / 100 < (k + 1) * f / 100)

/-- The transfer that reads an extent out of T3. -/
def moveFromT3 (s : State) (ptr g : Nat) : Option Move := s.tiers.moves.find? fun m => m.ptr == ptr && m.group == g && m.src == .t3

/-- The rank of an operation (Table 9.10). -/
def nandRank (s : State) (o : NandOp) : Nat :=
  match o.job with
  | .flush => if s.power.flushing.isSome then 1 else 4
  | .read ptr g => match moveFromT3 s ptr g with
    | none => 5
    | some m => if m.escalated then 2 else if m.cls == .lc then 3 else 5
  | .program _ => 6
  | .erase _ _ => 7

/-- The order in which a channel issues operations: by rank, then in request order. -/
def nandBefore (s : State) (a b : NandOp) : Bool :=
  decide (nandRank s a < nandRank s b) || (nandRank s a == nandRank s b && decide (a.seq < b.seq))

/-- Whether two operations need a die both. -/
def sharesDie (a b : NandOp) : Bool := a.dies.any b.dies.contains

/-- Whether an operation reads, and how often one that does not may be suspended. -/
def nandReads (o : NandOp) : Bool :=
  match o.job with
  | .read .. => true
  | _ => false
def cutLimit (o : NandOp) : Nat :=
  match o.job with
  | .program _ => 2
  | .erase _ _ => 8
  | _ => 0

/-- Whether an issued operation is suspended: a read runs on one of its dies. -/
def nandPaused (s : State) (o : NandOp) : Bool :=
  o.issued && !nandReads o && s.flash.ops.any fun r => r.issued && nandReads r && sharesDie r o

/-- Whether the NAND part supports suspend (R280). -/
def nandSuspends (s : State) : Bool := ((s.power.trained.bind (·.nandPart)).map (·.suspend)).getD false

/-- Whether a die is free for an operation: idle, or running one that a read of rank 2 or 3 may suspend (R280). -/
def dieFree (s : State) (o : NandOp) (d : Nat) : Bool :=
  let urgent := nandReads o && nandRank s o ≤ 3 && nandSuspends s
  s.flash.ops.all fun x => !x.issued || !x.dies.contains d
    || (urgent && !nandPaused s x && decide ((x.cuts.filter (· == d)).length < cutLimit x))

/-- Whether an operation can be issued: its dies are free, and none that goes before it, `skip` ones apart, waits for one of
them. After the hold-up flush has begun only the journal's programs start (R286). -/
def canIssue (s : State) (skip : Nat → Bool) (o : NandOp) : Bool :=
  !o.issued && (s.power.flushing.isNone || o.job == .flush) && o.dies.all (dieFree s o)
    && !(s.flash.ops.any fun x => !x.issued && !skip (nandRank s x) && nandBefore s x o && sharesDie x o)

/-- The operation that goes next: the first in rank order that can be issued; between reads of rank 3 and of rank 5 the floor of
R320 may take the latter. The flag tells a decision that both were ready for. -/
def chooseNand (s : State) : Option (NandOp × Bool) :=
  let ws := sortBy (nandBefore s) (s.flash.ops.filter fun o => !o.issued)
  (ws.find? (canIssue s fun _ => false)).map fun a =>
    match if nandRank s a == 3 then ws.find? fun o => nandReads o && nandRank s o == 5 && canIssue s (· == 3) o else none with
    | none => (a, false)
    | some b =>
      let k := s.flash.nandFloor.getD ((b.dies.headD 0) % 32) 0
      (if floorTurn k s.jobs.liveBeFloor then b else a, true)

/-- Issues one operation; what it suspends is noted by die. -/
def issueNandOp (s : State) : Option State :=
  (chooseNand s).map fun (o, both) =>
    let cut := fun (x : NandOp) => if x.issued then { x with cuts := x.cuts ++ o.dies.filter x.dies.contains } else x
    let ops := s.flash.ops.map fun x => if x.seq == o.seq then { x with issued := true } else cut x
    let fl := if both then s.flash.nandFloor.modify ((o.dies.headD 0) % 32) fun k => (k + 1) % 100 else s.flash.nandFloor
    { s with flash := { s.flash with ops := ops, nandFloor := fl } }

/-- Issues operations while any can be. -/
def issueNandFuel : Nat → State → State
  | 0, s => s
  | n + 1, s => match issueNandOp s with
    | none => s
    | some t => issueNandFuel n t
def issueNand (s : State) : State := issueNandFuel s.flash.ops.length s

/-- Asks the channels for an operation on dies. All of its parts are issued together. [DESIGN CHOICE, log 169] -/
def queueNand (j : NandJob) (dies : List Nat) (s : State) : State :=
  { s with flash := { s.flash with
      ops := s.flash.ops ++ [{ seq := s.flash.nextOp, job := j, dies := dies.eraseDups, issued := false, cuts := [] }],
      nextOp := s.flash.nextOp + 1 } }

/-- Whether an operation runs: it has been issued and is not suspended. -/
def nandRuns (s : State) (j : NandJob) : Bool := s.flash.ops.any fun o => o.job == j && o.issued && !nandPaused s o

/-- An operation has ended, or is no longer wanted. -/
def endNand (j : NandJob) (s : State) : State :=
  { s with flash := { s.flash with ops := s.flash.ops.filter fun o => o.job != j } }

end Sys2Proof.Machine
end

