-- ==== Sys2Proof/Machine/EngineOps.lean ====
section
/-! DEFINITION. Engine queues, units and pools (chapter "Jobs, classes and engine sharing"): how a unit is
queued, when it is ready, which unit an idle instance takes, and what ends with it. -/
namespace Sys2Proof.Machine

/-- The link credits of a port engine (Table 11.3). -/
def creditPool (s : State) : EngineKind → Option Pool
  | .rdma n => s.eng.ethCredits[n]?
  | .host n => s.eng.hostCredits[n]?
  | .splice n => s.eng.spliceCredits[n]?
  | _ => none

/-- The state with a port's credits replaced. -/
def putCredits (k : EngineKind) (p : Pool) (s : State) : State :=
  match k with
  | .rdma n => { s with eng := { s.eng with ethCredits := s.eng.ethCredits.set n p } }
  | .host n => { s with eng := { s.eng with hostCredits := s.eng.hostCredits.set n p } }
  | .splice n => { s with eng := { s.eng with spliceCredits := s.eng.spliceCredits.set n p } }
  | _ => s

/-- Whether an RDMA READ request is within the queue pair's initiator depth (R350). -/
def isRead : SentWhat → Bool
  | .readDesc _ _ _ => true
  | .readPull _ _ _ => true
  | _ => false

/-- Whether a queue pair may transmit at all (R322, R336, R346): its link is up, its context resident, its priority not paused. -/
def qpOpen (s : State) (q : Qp) : Bool :=
  q.state == .ready && q.resident && !q.rnrWaiting && holdsAddress s q.lport q.localIp && lportServed s q.lport
    && !(((s.net.eports.find? fun e => e.num == q.lport / 4).map fun e => e.paused.contains (q.dscp / 8)).getD false)

/-- Whether a unit transmits a message of a queue pair again. -/
def resends (qpn : Nat) : UnitWork → Bool
  | .resend n _ _ _ => n == qpn
  | _ => false

/-- The units that still have to transmit messages of a queue pair again, in their order (R351). -/
def resendsOf (s : State) (qpn : Nat) : List UnitWork :=
  s.eng.rdma.flatMap fun e => ((e.busy.map (·.2) ++ e.lcq ++ e.beq).map (·.work)).filter (resends qpn)

/-- Whether no message that was formed for the queue pair before still waits: replies go in the order of R301, a payload ahead
of its reply, a notice in the order of Table 7.6. -/
def formTurn (s : State) (qpn : Nat) : SentWhat → Bool
  | .formed n _ _ => (formsOf s qpn).all fun x => decide (n ≤ x.1)
  | _ => true

/-- Whether a queue pair may start or go on with a message (R350): it may transmit, no other of its messages is part sent, and
none has to go again before (R351). -/
def qpReady (s : State) (qpn : Nat) (what : SentWhat) : Bool :=
  match findQp s qpn with
  | none => false
  | some q =>
    qpOpen s q && (q.sending.isNone || q.sending == some what) && (resendsOf s qpn).isEmpty && formTurn s qpn what
      && (!isRead what || decide ((q.sent.filter fun m => isRead m.what).length < q.initiatorDepth))

/-- Whether a unit transmits again the message that begins with a PSN. -/
def resendsAt (psn : BitVec 24) : UnitWork → Bool
  | .resend _ p _ _ => p == psn
  | _ => false

/-- Whether a message may be transmitted again now: go-back-N keeps the order of the PSNs; one acknowledged meanwhile goes at
once. -/
def resendReady (s : State) (qpn : Nat) (psn : BitVec 24) : Bool :=
  let waiting := fun (m : Sent) => (resendsOf s qpn).any (resendsAt m.firstPsn)
  ((findQp s qpn).map fun q => qpOpen s q
    && ((q.sent.find? waiting).map (·.firstPsn) == some psn || !(q.sent.any fun m => m.firstPsn == psn))).getD false

/-- R177: while the dirty mark is reached, the reads of LC pulls wait in the partner's buffers until eviction has freed
granules. [DEDUCED, log 146] -/
def pullHeld (s : State) (u : EUnit) : Bool :=
  s.tiers.aboveMark && s.tiers.freed == 0 && u.cls == .lc && match u.work with
    | .send _ (.readPull _ _ _) _ => true
    | .hostRead _ slot _ _ => match findCmd s slot with
      | none => false
      | some c => match c.instr with
        | .ingestPull _ _ => true
        | _ => false
    | _ => false

/-- Whether the inputs that a unit needs beyond slots and credits are in place. -/
def inputsReady (s : State) : UnitWork → Bool
  | .send qpn what _ => qpReady s qpn what
  | .resend qpn psn _ _ => resendReady s qpn psn
  | _ => true

/-- Whether the record of codec weights that a unit reads has its copy in T1. -/
def weightsHeld (s : State) (u : EUnit) : Bool :=
  match u.weights with
  | none => true
  | some (slot, layer, _) =>
    (((s.eng.profiles.find? fun p => p.slot == slot).bind fun p => p.weights[layer]?).map (·.t1)).getD false

/-- Whether a unit may start (R322): its inputs, its codec weights, its stage slots and its link credits. -/
def unitReady (s : State) (k : EngineKind) (u : EUnit) : Bool :=
  inputsReady s u.work && weightsHeld s u && !pullHeld s u
    && (u.slots == 0 || (s.eng.stage.take u.cls u.slots).isSome)
    && (u.credits == 0 || ((creditPool s k).bind fun p => p.take u.cls u.credits).isSome)

/-- The lowest-numbered active instance that runs nothing. [DEDUCED, log 11] -/
def idleInst (e : Engine) : Option Nat :=
  (e.active.filter fun i => !(e.busy.any fun b => b.1 == i)).min?

/-- The idle instance that a unit would run on: the one it is bound to while that serves (R244), else the lowest. -/
def instFor (e : Engine) (u : EUnit) : Option Nat :=
  match u.bound with
  | none => idleInst e
  | some i => if !e.active.contains i then idleInst e else if e.busy.any fun b => b.1 == i then none else some i

/-- The unit that the next dispatch takes and the counter after it (R319, R320): the first ready unit of LC,
else of BE, except at a floor position. -/
def chooseUnit (s : State) (kind : EngineKind) (e : Engine) : Option (EUnit × Nat) :=
  let ready := fun u => unitReady s kind u && (instFor e u).isSome
  match e.lcq.find? ready, e.beq.find? ready with
  | some a, some b => some (if floorTurn e.k s.jobs.liveBeFloor then b else a, (e.k + 1) % 100)
  | some a, none => some (a, e.k)
  | none, some b => some (b, e.k)
  | none, none => none

/-- Takes a unit's stage slots and credits. -/
def takeResources (k : EngineKind) (u : EUnit) (s : State) : EUnit × State :=
  let (u1, s1) := match (if u.slots == 0 then none else s.eng.stage.take u.cls u.slots) with
    | none => (u, s)
    | some (t, p) =>
      ({ u with slots := 0, held := { lc := u.held.lc + t.lc, shared := u.held.shared + t.shared } },
       { s with eng := { s.eng with stage := p } })
  match (if u.credits == 0 then none else (creditPool s1 k).bind fun p => p.take u.cls u.credits) with
  | none => (u1, s1)
  | some (t, p) => ({ u1 with creditsHeld := t }, putCredits k p s1)

/-- The batch with a number. -/
def findBatch (s : State) (b : Nat) : Option Batch := s.eng.batches.find? fun x => x.id == b

/-- The 1/1,024 units that each member of a batch is charged at the dispatch of one of its attention units,
by its share of the rows, rounded up (Table 11.6, R247). -/
def chargeAttend (b : Nat) (s : State) : State :=
  match findBatch s b with
  | none => s
  | some x =>
    let rows := sumOf (·.entries) x.members
    x.members.foldl (fun s m =>
      match if m.gone then none else findCmd s m.slot with
      | none => s
      | some c => setUse c.tenant (fun u =>
          { u with attendUnits := u.attendUnits + ceilDiv (1024 * m.entries) (max rows 1) }) s) s

/-- A storyboard's first unit has been dispatched: with its queue-pair context resident it is priming (Table 7.6). -/
def beginSb (p : Storyboard → Bool) (s : State) : State :=
  let resident := fun (b : Storyboard) => b.toHost || ((findQp s b.target).map (·.resident)).getD false
  { s with eng := { s.eng with storyboards := updWhere p (fun b =>
      { b with begun := true, state := if b.state == .built && resident b then .priming else b.state }) s.eng.storyboards } }

/-- R153: a codec engine's buffer holds the smoothing vectors of the unit's layer and of the next; a tile loads one head's W_UK and
W_UV for each projection unit. -/
def loadWeights (kind : EngineKind) (inst : Nat) (u : EUnit) (s : State) : State :=
  match u.weights, kind with
  | some (slot, layer, _), .codec =>
    { s with eng := { s.eng with codecBufs := (inst, [(slot, layer), (slot, layer + 1)]) :: s.eng.codecBufs.filter fun x => x.1 != inst } }
  | some w, .tile => { s with eng := { s.eng with tileWeights := (inst, w) :: s.eng.tileWeights.filter fun x => x.1 != inst } }
  | _, _ => s

/-- What else happens when a unit starts: an attention unit is charged, a message holds its queue pair, a storyboard begins. -/
def atDispatch (u : EUnit) (s : State) : State :=
  match u.work with
  | .span b _ _ _ => chargeAttend b s
  | .send qpn what _ => setQp qpn (fun q => { q with sending := some what }) s
  | .decode sb _ _ _ => beginSb (fun b => b.id == sb) s
  | .project sb _ _ _ => beginSb (fun b => b.id == sb) s
  | .stageTile sb _ _ _ => beginSb (fun b => b.id == sb) s
  | .move id => match (s.tiers.moves.find? fun m => m.id == id).bind (·.slot) with
    | none => s
    | some slot => beginSb (fun b => b.slot == slot) s
  | _ => s

/-- One dispatch decision of a kind, when an instance is idle and a unit is ready. [DEDUCED, log 11] -/
def dispatchOne (kind : EngineKind) (s : State) : Option State :=
  let e := getEngine s kind
  match (chooseUnit s kind e).bind fun x => (instFor e x.1).map fun i => (i, x) with
  | some (i, u, k) =>
    let (u1, s1) := takeResources kind u s
    let e1 := { getEngine s1 kind with
      lcq := e.lcq.erase u, beq := if e.lcq.contains u then e.beq else e.beq.erase u, k := k, busy := e.busy ++ [(i, u1)] }
    some (atDispatch u (loadWeights kind i u (putEngine kind e1 s1)))
  | none => none

/-- Dispatches while an instance is idle and a unit is ready. -/
def pumpFuel (kind : EngineKind) : Nat → State → State
  | 0, s => s
  | n + 1, s => match dispatchOne kind s with
    | none => s
    | some s1 => pumpFuel kind n s1

/-- Dispatches a kind's queued units as far as instances and resources allow. -/
def pump (kind : EngineKind) (s : State) : State :=
  let e := getEngine s kind
  pumpFuel kind (e.lcq.length + e.beq.length) s

/-- Every engine kind whose units are dispatched at the end of a row; the steps of the control complex run within it. -/
def allKinds : List EngineKind :=
  [.tile, .codec, .crypto, .mover] ++ (List.range 16).map .hasher ++ (List.range 4).map .rdma
    ++ (List.range 2).map .host ++ (List.range 4).map .splice

/-- Dispatches every kind. -/
def pumpAll (s : State) : State := allKinds.foldl (fun s k => pump k s) s

/-- How every meaning ends: ready units are dispatched and NAND operations issued (R280, R319, R322), and the queue of commands
is the step's own. [DESIGN CHOICE, log 143] -/
def finish (s0 s : State) : Host.Outcome State Fault Refusal := .next { pumpAll (issueNand s) with pending := s0.pending }

/-- Puts a unit at the head of its class's queue. -/
def putFirst (kind : EngineKind) (u : EUnit) (s : State) : State :=
  let e := getEngine s kind
  putEngine kind (match u.cls with
    | .lc => { e with lcq := u :: e.lcq }
    | .be => { e with beq := u :: e.beq }) s

/-- Queues a unit and dispatches its kind. -/
def startUnit (kind : EngineKind) (u : EUnit) (s : State) : State := pump kind (queueUnit kind u s)

/-- Returns stage slots to the parts they came from (R15, R326). -/
def giveSlots (t : Taken) (s : State) : State :=
  { s with eng := { s.eng with stage := s.eng.stage.give t } }

/-- Returns link credits (R326). -/
def giveCredits (k : EngineKind) (t : Taken) (s : State) : State :=
  match creditPool s k with
  | none => s
  | some p => putCredits k (p.give t) s

/-- The unit that an instance runs. -/
def runningUnit (s : State) (kind : EngineKind) (inst : Nat) : Option EUnit :=
  ((getEngine s kind).busy.find? fun b => b.1 == inst).map (·.2)

/-- The instance ends its unit, whose link credits return; its stage slots stay with its work. -/
def endUnit (kind : EngineKind) (inst : Nat) (u : EUnit) (s : State) : State :=
  let e := getEngine s kind
  giveCredits kind u.creditsHeld (putEngine kind { e with busy := e.busy.filter fun b => b.1 != inst } s)

/-- Drops every queued unit that `p` names, with what it holds; running units are left to end (R322). -/
def dropQueued (p : UnitWork → Bool) (s : State) : State :=
  allKinds.foldl (fun s k =>
    let e := getEngine s k
    let gone := (e.lcq ++ e.beq).filter fun u => p u.work
    gone.foldl (fun s u => giveSlots u.held s)
      (putEngine k { e with lcq := e.lcq.filter (fun u => !p u.work), beq := e.beq.filter (fun u => !p u.work) } s)) s

/-- The UNIT_KIND of an engine kind that has spares, 0 for the others (Table 16.5). -/
def unitKindOf : EngineKind → Nat
  | .tile => 1
  | .codec => 3
  | _ => 0

/-- The number under which an instance without spares is recorded as failed: kind and number. -/
def failKey : EngineKind → Nat → Nat × Nat
  | .tile, i => (1, i)
  | .codec, i => (3, i)
  | .crypto, i => (11, i)
  | .mover, i => (12, i)
  | .hasher n, _ => (13, n)
  | .rdma n, _ => (14, n)
  | .host n, _ => (15, n)
  | .splice n, _ => (16, n)
  | .control, i => (17, i)

/-- Declares an engine instance failed (R440): it is replaced by a spare, or leaves the pool of its kind when
it has none (Table 16.7). A port's only engine stays in service. [DEDUCED, log 60] -/
def failInst (kind : EngineKind) (inst : Nat) (s : State) : State :=
  if unitKindOf kind != 0 then mapSpare (unitKindOf kind) 2 inst s
  else
    let e := getEngine s kind
    let act := match kind with
      | .hasher _ => []
      | .rdma _ => e.active
      | .host _ => e.active
      | .splice _ => e.active
      | _ => e.active.filter fun i => i != inst
    putEngine kind { e with active := act }
      { s with faults := { s.faults with failedUnits := failKey kind inst :: s.faults.failedUnits } }

/-- The hasher that takes over from hasher `n`: the next active one. -/
def nextHasher (s : State) (n : Nat) : Nat :=
  (((List.range 15).map fun i => (n + 1 + i) % 16).find? fun m => !(getEngine s (.hasher m)).active.isEmpty).getD n

/-- A failed unit runs again on another instance (R440). A failed hasher's queue moves to the next hasher. [DEDUCED, log 49, 60] -/
def rerunUnit (kind : EngineKind) (inst : Nat) (u : EUnit) (s : State) : State :=
  let s1 := failInst kind inst (countFault 8 1 (endUnit kind inst u s))
  let v := { u with reruns := u.reruns + 1, credits := u.creditsHeld.lc + u.creditsHeld.shared,
                    creditsHeld := { lc := 0, shared := 0 } }
  let (dest, s2, ls, bs) := match kind with
    | .hasher n =>
      let old := getEngine s1 (.hasher n)
      (EngineKind.hasher (nextHasher s1 n), putEngine (.hasher n) { old with lcq := [], beq := [] } s1, old.lcq, old.beq)
    | k => (k, s1, [], [])
  let e := getEngine s2 dest
  pumpAll (putEngine dest (match v.cls with
    | .lc => { e with lcq := v :: (e.lcq ++ ls), beq := e.beq ++ bs }
    | .be => { e with lcq := e.lcq ++ ls, beq := v :: (e.beq ++ bs) }) s2)

/-- A free hasher choice (R66): the one with the shortest queue, the lowest number among equals. -/
def shortestHasher (s : State) : Nat :=
  let load := fun n => let e := getEngine s (.hasher n); e.lcq.length + e.beq.length + e.busy.length
  let usable := (List.range 16).filter fun n => !(getEngine s (.hasher n)).active.isEmpty
  usable.foldl (fun best n => if load n < load best then n else best) ((usable.head?).getD 0)

end Sys2Proof.Machine
end

