-- ==== Sys2Proof/Machine/Layouts.lean ====
section
/-! DEFINITION. The stored forms of the index and the match array: the index node (Table 3.1), the directory bucket (R63), the
extent table entry (Table 6.3), the page header (Table 6.4) and the 106 bits of a match-array entry (Table 4.2), with their
checks. -/
namespace Sys2Proof.Machine

/-! ## The index node (Table 3.1) -/

/-- NODE_FLAGS. -/
def nodeFlags (n : Node) : Nat :=
  flagBit n.valid 7 + flagBit n.committed 6 + flagBit n.evicting 5 + flagBit n.purged 4 + flagBit n.persistHint 3 + flagBit n.lost 2

/-- PRESENCE: bits [3g+2:3g] are T3, T2, T1 present. -/
def presenceOf (n : Node) : Nat :=
  sumOf (fun x => (flagBit x.1.t3.isSome 2 + flagBit x.1.t2.isSome 1 + flagBit x.1.t1.isSome 0) * 2 ^ (3 * x.2)) n.groups.zipIdx

/-- DIRTY: two bits per layer group. -/
def dirtyCode : Dirty → Nat
  | .clean => 0
  | .t1 => 1
  | .t2 => 2
def dirtyOf (n : Node) : Nat := sumOf (fun x => dirtyCode x.1.dirty * 2 ^ (2 * x.2)) n.groups.zipIdx

/-- The extent identifier of a node's group: the extent table has 8 entries per node (Table 6.2). [DEDUCED, log 150] -/
def extentId (ptr g : Nat) : Nat := 8 * ptr + g

/-- LOCATOR: eight 5-byte extent identifiers, unused groups zero. -/
def locatorBytes (n : Node) : List Byte :=
  (List.range 8).flatMap fun g => leBytes 5 (if g < n.groups.length then extentId n.ptr g else 0)

/-- Bytes 0x00 to 0x7B of a node, as its core writes them in one unit (R61). -/
def nodeBytes (n : Node) : List Byte :=
  leBytes 16 n.key.toNat ++ leBytes 8 n.parentLo.toNat ++ leBytes 2 (n.epoch * 2 ^ 14 + n.variant * 2 ^ 12 + n.tenant)
    ++ leBytes 2 n.scope.toNat ++ leBytes 1 (nodeFlags n) ++ leBytes 1 n.groups.length ++ zeroBytes 2
    ++ leBytes 4 n.blockNo ++ leBytes 4 n.pinCount ++ leBytes 2 n.score ++ leBytes 2 n.lastWindow ++ leBytes 4 n.lastReq
    ++ leBytes 3 (presenceOf n) ++ leBytes 2 (dirtyOf n) ++ zeroBytes 3 ++ locatorBytes n
    ++ leBytes 1 (flagBit n.entryPresent 7) ++ leBytes 1 n.matchPriority ++ zeroBytes 2 ++ leBytes 4 n.insertSeq
    ++ leBytes 4 n.pinGen ++ zeroBytes 16

/-- CHECK of a node. -/
def nodeCheck (n : Node) : U32 := crc32c (nodeBytes n)

/-! ## The sliver directory (R63) -/

/-- One 8-byte entry of a directory bucket. -/
structure DirEntry where
  ptr : Nat
  variant : Nat
  tag : Nat
  valid : Bool
deriving DecidableEq, Repr

/-- The tag of a key: key_hi[31:0]. -/
def dirTag (k : BlockKey) : Nat := (k.extractLsb' 64 32).toNat

/-- The buckets of a sliver's directory for a node capacity C, and the bucket of a key: key_lo[31:0] modulo that. -/
def dirBuckets (c : Nat) : Nat := ceilDiv c 30720
def dirBucket (c : Nat) (k : BlockKey) : Nat := (k.extractLsb' 0 32).toNat % max (dirBuckets c) 1

/-- Buckets of seven entries each, the first and those that its overflow links reach. -/
def bucketsOf : Nat → List DirEntry → List (List DirEntry)
  | 0, es => [es]
  | fuel + 1, es => if es.length ≤ 7 then [es] else es.take 7 :: bucketsOf fuel (es.drop 7)

/-! ## The extent table (Table 6.3) -/

/-- An entry's bytes 0x00 to 0x0E. -/
def extentBytes (x : GroupSt) : List Byte :=
  leBytes 4 (x.t1.getD 0xFFFFFFFF) ++ leBytes 5 (x.t2.getD 0xFFFFFFFFFF) ++ leBytes 5 (x.t3.getD 0xFFFFFFFFFF) ++ leBytes 1 (flagBit x.moving 0)

/-- One step of the CRC-8 with polynomial 0x07, and the CRC over bytes. -/
def crc8Bit (c : Byte) : Byte := if c.msb then (c <<< 1) ^^^ 0x07 else c <<< 1
def crc8 (l : List Byte) : Byte :=
  l.foldl (fun c b => crc8Bit (crc8Bit (crc8Bit (crc8Bit (crc8Bit (crc8Bit (crc8Bit (crc8Bit (c ^^^ b))))))))) 0

/-- CHECK of an extent table entry. -/
def extentCheck (x : GroupSt) : Byte := crc8 (extentBytes x)

/-! ## Page headers (Table 6.4) -/

/-- A page header in one tier's form: `lossless` says that the body there is lossless-coded, `granules` its size there. -/
def pageHeaderBytes (variant tiles granules : Nat) (lossless : Bool) (p : Page) : List Byte :=
  leBytes 2 p.layer ++ leBytes 1 (p.sealEpoch * 2 ^ 6 + variant * 2 ^ 4 + flagBit lossless 3) ++ leBytes 1 tiles ++ leBytes 4 granules
    ++ leBytes 8 p.writeNo ++ leBytes 16 p.pageSeal.toNat ++ zeroBytes 32 ++ p.tileChecks.flatMap fun c => leBytes 4 c.toNat

/-! ## Match-array entries (R97) -/

/-- Whether the count of ones in the low `w` bits of a number is odd. -/
def oddOnes : Nat → Nat → Bool
  | 0, _ => false
  | w + 1, n => xor (n % 2 == 1) (oddOnes w (n / 2))

/-- TAG_HI and TAG_LO (Table 4.2). -/
def tagHi (lo : U64) : Nat := bitsOf lo.toNat 33 31
def tagLo (lo : U64) : Nat := bitsOf lo.toNat 14 19

/-- The 52 bits of each half beside its parity bit. -/
def halfA (e : MatchEntry) : Nat := (if e.valid then 2 ^ 51 else 0) + e.priority * 2 ^ 43 + e.tenant * 2 ^ 31 + tagHi e.keyLo
def halfB (e : MatchEntry) : Nat := tagLo e.keyLo * 2 ^ 33 + e.nodePtr * 2 ^ 4 + e.tierHint

/-- Whether a half passes its parity check: with its parity bit the count of ones is even. -/
def halfAOk (e : MatchEntry) : Bool := e.parityA == oddOnes 52 (halfA e)
def halfBOk (e : MatchEntry) : Bool := e.parityB == oddOnes 52 (halfB e)

/-- An entry as it is written: with the parity of both halves. -/
def writeEntry (e : MatchEntry) : MatchEntry := { e with parityA := oddOnes 52 (halfA e), parityB := oddOnes 52 (halfB e) }

/-- VALID cleared at a position, by a write of half A (R107). -/
def clearEntry (e : MatchEntry) : MatchEntry :=
  { e with valid := false, parityA := oddOnes 52 (halfA { e with valid := false }) }

/-- A position rewritten in both halves with VALID = 0 (R114). -/
def rewriteEntry (e : MatchEntry) : MatchEntry := writeEntry { e with valid := false }

/-- A position that nothing has been written to: every bit reads as 0. [DESIGN CHOICE, log 175] -/
def blankEntry (bank pos : Nat) : MatchEntry :=
  { bank := bank, pos := pos, valid := false, priority := 0, tenant := 0, keyLo := BitVec.ofNat 64 (bank % 2 ^ 14), nodePtr := 0,
    tierHint := 0, parityA := false, parityB := false }

/-- A number with one bit inverted. -/
def flipNat (n i : Nat) : Nat := n ^^^ 2 ^ i

/-- An upset of one stored bit, numbered as in Table 4.2. -/
def flipBit (i : Nat) (e : MatchEntry) : MatchEntry :=
  if i ≤ 3 then { e with tierHint := flipNat e.tierHint i }
  else if i ≤ 32 then { e with nodePtr := flipNat e.nodePtr (i - 4) }
  else if i ≤ 51 then { e with keyLo := BitVec.ofNat 64 (flipNat e.keyLo.toNat (i - 33 + 14)) }
  else if i == 52 then { e with parityB := !e.parityB }
  else if i ≤ 83 then { e with keyLo := BitVec.ofNat 64 (flipNat e.keyLo.toNat (i - 53 + 33)) }
  else if i ≤ 95 then { e with tenant := flipNat e.tenant (i - 84) }
  else if i ≤ 103 then { e with priority := flipNat e.priority (i - 96) }
  else if i == 104 then { e with valid := !e.valid }
  else if i == 105 then { e with parityA := !e.parityA }
  else e

/-- The entries after an upset at a position of a bank. -/
def upsetAt (bank pos bit : Nat) (es : List MatchEntry) : List MatchEntry :=
  if es.any fun e => e.bank == bank && e.pos == pos then
    updWhere (fun e => e.bank == bank && e.pos == pos) (flipBit bit) es
  else es ++ [flipBit bit (blankEntry bank pos)]

end Sys2Proof.Machine
end

