-- ==== Sys2Proof/Machine/IndexOps.lean ====
section
/-! DEFINITION. The prefix index: keys, slivers, nodes, scores and values, requests to cores and to the dolly,
and the index journal (chapter "Prefix index and the reel array"). -/
namespace Sys2Proof.Machine

/-! ## Keys (R40, R41, R58, R96) -/

/-- key_lo and key_hi of a block key. -/
def keyLo (k : BlockKey) : U64 := k.extractLsb' 0 64
def keyHi (k : BlockKey) : U64 := k.extractLsb' 64 64

/-- The sliver of a key (R58). -/
def sliverOf (k : BlockKey) : Nat := (keyHi k).toNat / 2 ^ 32 * 6144 / 2 ^ 32

/-- The reel core at a logical position of a reel, as a unit of kind 2 (Table 16.5). -/
def coreUnit (reel pos : Nat) : Nat := 66 * reel + pos

/-- The physical core that serves the sliver of a logical position: its own or the spare mapped for it, else the core at the next
logical position of the reel, wrapping at 64 (R58, R94, R95). -/
def ownerFrom (s : State) (reel : Nat) : Nat → Nat → Option Nat
  | 0, _ => none
  | fuel + 1, pos => match servingUnit s 2 66 (coreUnit reel pos) with
    | some u => some u
    | none => ownerFrom s reel fuel ((pos + 1) % 64)

/-- The core that owns sliver `n`: logical core n mod 64 of reel n ÷ 64 (R58). -/
def ownerOf (s : State) (n : Nat) : Option Nat := ownerFrom s (n / 64) 64 (n % 64)

/-- The logical bank and the section of a key (R96). -/
def bankOf (lo : U64) : Nat := lo.toNat % 2 ^ 14
def sectionOf (lo : U64) : Nat := bankOf lo / 4096

/-- A block key: the AES-CMAC of a message under hk_tenant, its bytes 0 to 7 the low half (R40, R41). -/
def tenantCmac (s : State) (tenant : Nat) (msg : List Byte) : BlockKey :=
  BitVec.ofNat 128 (leNat (aesCmac (keyBytes (hashKey s.persist.root tenant (regGenOf s tenant))) msg))

/-- The first key of a chain: the seed under the tenant's hash key (R40). -/
def seedKey (s : State) (tenant : Nat) (model : U32) (scope : U16) : BlockKey :=
  tenantCmac s tenant (leBytes 4 model.toNat ++ leBytes 2 scope.toNat ++ zeroBytes 10)

/-- The key of the block that follows `prev` and holds `toks` (R40). -/
def nextKey (s : State) (tenant : Nat) (prev : BlockKey) (toks : List U64) : BlockKey :=
  tenantCmac s tenant
    (leBytes 16 prev.toNat ++ toks.flatMap fun t => leBytes 8 t.toNat)

/-- The block size of a profile: 0 selects 64 (Table 2.3). -/
def blockSize (d : ProfileDesc) : Nat := if d.blockSize == 0 then 64 else d.blockSize.toNat

/-- The largest block number of a profile (R39). -/
def maxBlock (d : ProfileDesc) : Nat := d.maxTokens.toNat / blockSize d

/-! ## Nodes -/

/-- The node with a pointer. -/
def findNode (s : State) (ptr : Nat) : Option Node := s.index.nodes.find? fun n => n.ptr == ptr

/-- Changes a node, whose chunk is then due for the next checkpoint (R91). -/
def setNode (ptr : Nat) (f : Node → Node) (s : State) : State :=
  let ns := updWhere (fun n => n.ptr == ptr) (fun n => { f n with changed := true }) s.index.nodes
  { s with index := { s.index with nodes := ns } }

/-- PIN_COUNT, which counts as zero under another reset generation (Table 3.1, R82). -/
def pinCountOf (s : State) (n : Node) : Nat := if n.pinGen == s.sec.resetGen then n.pinCount else 0

/-- Whether a group has a copy in some tier. -/
def groupPresent (g : GroupSt) : Bool := g.t1.isSome || g.t2.isSome || g.t3.isSome

/-- Whether a keyed node can be found by a search of its tenant (R27, R60): a key of an earlier registration
generation never matches. -/
def findable (s : State) (n : Node) : Bool := n.keyed && n.regGen == regGenOf s n.tenant

/-- Whether a block lies within its own variant's limit (R39): a profile loaded again may set a lower MAX_TOKENS. -/
def withinLimit (s : State) (n : Node) : Bool :=
  s.eng.profiles.all fun p => !(p.tenant == n.tenant && p.desc.modelId == n.modelId && p.variant == n.variant && !p.unloading)
    || decide (n.blockNo ≤ maxBlock p.desc)

/-- R67: usable for a tenant under an accept mask. -/
def usable (s : State) (tenant mask : Nat) (n : Node) : Bool :=
  findable s n && n.tenant == tenant && bitOf mask n.variant && n.valid && n.committed && !n.evicting && !n.purged
    && !n.lost && n.checkOk && epochLive s n.tenant n.epoch && n.groups.all groupPresent && withinLimit s n

/-- The core's choice among usable nodes (R69): highest MATCH_PRIORITY, then lowest INSERT_SEQ. [DEDUCED, log 55] -/
def bestNode (ns : List Node) : Option Node :=
  ns.foldl (fun b n => match b with
    | none => some n
    | some m =>
      if n.matchPriority > m.matchPriority || (n.matchPriority == m.matchPriority && n.insertSeq < m.insertSeq)
      then some n else some m) none

/-- The directory entry of a keyed node (R63). -/
def dirEntry (n : Node) : DirEntry := { ptr := n.ptr, variant := n.variant, tag := dirTag n.key, valid := true }

/-- The bucket of a sliver's directory that a key selects, with the buckets that its overflow links reach (R63): the keyed nodes of
the sliver there. -/
def dirChain (s : State) (key : BlockKey) : List (List DirEntry) :=
  let ns := s.index.nodes.filter fun n => n.keyed && sliverOf n.key == sliverOf key
    && dirBucket s.index.capacity n.key == dirBucket s.index.capacity key
  bucketsOf ns.length (ns.map dirEntry)

/-- The nodes that a core reads for a key: those whose directory entries carry its tag (R69). -/
def candidates (s : State) (key : BlockKey) : List Node :=
  ((dirChain s key).flatten.filter fun e => e.valid && e.tag == dirTag key).filterMap fun e => findNode s e.ptr

/-- A core's directory search: each candidate node is read and checked (R69). [DEDUCED, log 55] -/
def searchIndex (s : State) (key : BlockKey) (tenant mask : Nat) : Option Node :=
  bestNode ((candidates s key).filter fun n => n.key == key && usable s tenant mask n)

/-- The low 16 bits of the window number. -/
def window16 (s : State) : Nat := s.clk.window % 65536

/-- A node's age in windows (R87). -/
def ageOf (s : State) (n : Node) : Nat := (window16 s + 65536 - n.lastWindow) % 65536

/-- A node's value (R87). -/
def valueOf (s : State) (n : Node) : Nat := if 4096 ≤ ageOf s n then 0 else n.score / 2 ^ (ageOf s n / 256)

/-- A scored use (R86). -/
def scoreUse (w : Nat) (n : Node) : Node :=
  if n.lastWindow == w then n else { n with score := min 65535 (n.score + 1), lastWindow := w }

/-- The offering order of R88: increasing value, then decreasing BLOCK_NO, then increasing INSERT_SEQ. -/
def offeredBefore (s : State) (a b : Node) : Bool :=
  let va := valueOf s a
  let vb := valueOf s b
  va < vb || (va == vb && (a.blockNo > b.blockNo || (a.blockNo == b.blockNo && a.insertSeq < b.insertSeq)))

/-- First and last + 1 layer of group `g` of `gs` groups over `l` layers (R61). -/
def groupFirst (l gs g : Nat) : Nat := g * l / max gs 1
def groupOfLayer (l layer : Nat) : Nat :=
  let gs := min 8 l
  ((List.range gs).find? fun g => groupFirst l gs g ≤ layer && layer < groupFirst l gs (g + 1)).getD 0

/-- TIER_HINT of a node (Table 4.3). -/
def tierHintOf (n : Node) : Nat :=
  flagBit (n.groups.all (·.t1.isSome)) 3 + flagBit (n.groups.all (·.t2.isSome)) 2 + flagBit (n.groups.all (·.t3.isSome)) 1

/-- The lowest tier that a hint names: 1, 2 or 3, and 0 when it names none (R99). -/
def lowestTier (h : Nat) : Nat := if bitOf h 1 then 3 else if bitOf h 2 then 2 else if bitOf h 3 then 1 else 0

/-! ## Requests to cores (R59, R93) -/

/-- The sliver's core, as it stands before its first request when it has had none. -/
def findSliver (s : State) (n : Nat) : Sliver :=
  (s.index.slivers.find? fun v => v.num == n).getD
    { num := n, lcq := [], beq := [], k := 0, log := [], nextSeq := 0, insertSeq := 0, refills := 0, freeChunks := [], outbox := [] }

/-- Stores a sliver's core. -/
def putSliver (v : Sliver) (s : State) : State :=
  { s with index := { s.index with slivers := v :: s.index.slivers.filter fun w => w.num != v.num } }

/-- Sends the core of sliver `n` a request of a class; the core numbers it when it takes it. [DESIGN CHOICE, log 151] -/
def askSliver (n : Nat) (c : Cls) (r : SliverReq) (s : State) : State :=
  let v := findSliver s n
  let e := { cls := c, seq := 0, req := r }
  putSliver (match c with
    | .lc => { v with lcq := v.lcq ++ [e] }
    | .be => { v with beq := v.beq ++ [e] }) s

/-- Sends the core that owns a node a request. [DEDUCED, log 40] -/
def askOwner (ptr : Nat) (c : Cls) (r : SliverReq) (s : State) : State :=
  match findNode s ptr with
  | none => s
  | some n => askSliver (sliverOf n.key) c r s

/-- A core logs a request in its ring of 64, under the next sequence number, before it acts on it (R93). -/
def logReq (e : SliverEntry) (v : Sliver) : SliverEntry × Sliver :=
  let x := { e with seq := v.nextSeq }
  (x, { v with log := (v.log ++ [x]).drop ((v.log.length + 1) - 64), nextSeq := v.nextSeq + 1 })

/-- The request that a core takes next, by class and floor (R320, R322), and the core after it has logged it. [DEDUCED, log 65] -/
def sliverNext (s : State) (n : Nat) : Option (SliverEntry × Sliver) :=
  let v := findSliver s n
  match v.lcq, v.beq with
  | a :: as, b :: bs =>
    if floorTurn v.k s.jobs.liveBeFloor then some (logReq b { v with beq := bs, k := (v.k + 1) % 100 })
    else some (logReq a { v with lcq := as, k := (v.k + 1) % 100 })
  | a :: as, [] => some (logReq a { v with lcq := as })
  | [], b :: bs => some (logReq b { v with beq := bs })
  | [], [] => none

/-- Runs a sliver's next request when `f` takes it; otherwise the core's next request is of another kind and
this event does not occur. -/
def sliverStep (n : Nat) (f : SliverEntry → Option (State → State)) (s : State) : State :=
  match sliverNext s n with
  | none => s
  | some (e, v) => match f e with
    | none => s
    | some g => g (putSliver v s)

/-- LAST_REQ of a node a request changed (R93). -/
def noteReq (ptr seq : Nat) (s : State) : State := setNode ptr (fun n => { n with lastReq := seq }) s

/-- A BE score request to the owner of each node of a list (R86). -/
def askScores (ptrs : List Nat) (s : State) : State := ptrs.foldl (fun s p => askOwner p .be (.score p) s) s

/-! ## Requests to the dolly (Table 4.4) -/

/-- The node that a dolly request concerns. -/
def dollyNode : DollyReq → Option Nat
  | .insert p _ _ _ _ => some p
  | .remove p _ _ => some p
  | .hint p _ _ => some p
  | _ => none

/-- Whether a dolly request inserts or removes a node's entry. -/
def insertsPtr (ptr : Nat) : DollyReq → Bool
  | .insert p _ _ _ _ => p == ptr
  | _ => false
def removesPtr (ptr : Nat) : DollyReq → Bool
  | .remove p _ _ => p == ptr
  | _ => false

/-- The bank that a queued removal is for. -/
def removalBank : DollyReq → Option Nat
  | .remove _ lo _ => some (bankOf lo)
  | _ => none

/-- The section that a core's request goes to. -/
def dollySection : DollyReq → Nat
  | .insert _ lo _ _ _ => sectionOf lo
  | .remove _ lo _ => sectionOf lo
  | .hint _ lo _ => sectionOf lo
  | .repair bank _ => bank / 4096
  | .sweep _ => 0

/-- The requests that a section holds. -/
def sectionQueue (s : State) (sect : Nat) : List DollyReq :=
  ((s.marr.sections.find? fun x => x.num == sect).map (·.requests)).getD []

/-- Replaces the requests that a section holds. -/
def setQueue (sect : Nat) (f : List DollyReq → List DollyReq) (s : State) : State :=
  { s with marr := { s.marr with sections := updWhere (fun x => x.num == sect) (fun x => { x with requests := f x.requests }) s.marr.sections } }

/-- Adds a request to a section's dolly queue. -/
def askDolly (sect : Nat) (r : DollyReq) (s : State) : State := setQueue sect (· ++ [r]) s

/-- Whether a section's queue has a place for a core's request: it holds 4,096 (R109), and at most 64 removals of a bank (R112). -/
def dollyRoom (s : State) (r : DollyReq) : Bool :=
  let q := sectionQueue s (dollySection r)
  decide (q.length < 4096) && match removalBank r with
    | none => true
    | some b => decide ((q.filter fun x => removalBank x == some b).length < 64)

/-- A request reaches its section. A REMOVE of a node whose INSERT has not started drops it, and is reported CANCELLED and then
INVALIDATED without touching the bank (R109). -/
def arriveDolly (r : DollyReq) (s : State) : State :=
  match r with
  | .remove ptr _ _ =>
    if (sectionQueue s (dollySection r)).any (insertsPtr ptr) then
      let s1 := setQueue (dollySection r) (fun q => q.filter fun x => !insertsPtr ptr x) s
      { s1 with marr := { s1.marr with reports := s1.marr.reports ++ [.cancelled ptr, .invalidated ptr] } }
    else askDolly (dollySection r) r s
  | _ => askDolly (dollySection r) r s

/-- A core issues a request: it waits in the core's outbox while another does, or while its section has no place (R109). -/
def issueDolly (n : Nat) (r : DollyReq) (s : State) : State :=
  let v := findSliver s n
  if v.outbox.isEmpty && dollyRoom s r then arriveDolly r s else putSliver { v with outbox := v.outbox ++ [r] } s

/-- The requests of one core's outbox that have a place now go to their sections, in order. -/
def drainOutbox : Nat → Nat → State → State
  | 0, _, s => s
  | fuel + 1, n, s => match (findSliver s n).outbox with
    | [] => s
    | r :: rs => if dollyRoom s r then drainOutbox fuel n (arriveDolly r (putSliver { findSliver s n with outbox := rs } s)) else s

/-- Every outbox that holds requests is drained, the lowest-numbered sliver's first. [DESIGN CHOICE, log 152] -/
def drainOutboxes (s : State) : State :=
  let ns := sortBy (fun a b => decide (a < b)) ((s.index.slivers.filter fun v => !v.outbox.isEmpty).map (·.num))
  ns.foldl (fun s n => drainOutbox (findSliver s n).outbox.length n s) s

/-- Asks for a node's entry (Table 4.5, step 1). -/
def askInsert (n : Node) (s : State) : State :=
  issueDolly (sliverOf n.key) (.insert n.ptr (keyLo n.key) n.tenant n.matchPriority (tierHintOf n)) s

/-- Asks for the removal of a node's entry (R111). -/
def askRemove (n : Node) (s : State) : State := issueDolly (sliverOf n.key) (.remove n.ptr (keyLo n.key) n.tenant) s

/-- Asks for a new TIER_HINT of a node's entry (R99). -/
def askHint (n : Node) (s : State) : State := issueDolly (sliverOf n.key) (.hint n.ptr (keyLo n.key) (tierHintOf n)) s

/-- Whether some dolly request waits, in a section or in an outbox. -/
def dollyWaits (s : State) (p : DollyReq → Bool) : Bool :=
  (s.marr.sections.any fun x => x.requests.any p) || s.index.slivers.any fun v => v.outbox.any p

/-- Whether a node has an entry, an INSERT of it waits, or the report of one is on its way. -/
def entryDue (s : State) (n : Node) : Bool :=
  n.entryPresent || dollyWaits s (insertsPtr n.ptr) || s.marr.reports.contains (.valid n.ptr)

/-- Whether a REMOVE of a node has not been reported INVALIDATED yet (R111). -/
def removeDue (s : State) (ptr : Nat) : Bool := dollyWaits s (removesPtr ptr) || s.marr.reports.contains (.invalidated ptr)

/-! ## Node slots (R63, R65) -/

/-- The chunk of 256 node slots that a node lies in: bits [28:8] of NODE_PTR (R114). -/
def nodeChunk (ptr : Nat) : Nat := ptr / 256

/-- The nodes of a sliver, keyed or not, those whose slot is not free yet among them. -/
def sliverNodes (s : State) (n : Nat) : List Node := s.index.nodes.filter fun x => sliverOf x.key == n

/-- The chunks that a sliver's core holds: those with nodes of it, and those that it keeps free. -/
def sliverChunks (s : State) (n : Nat) : List Nat :=
  ((sliverNodes s n).map (fun x => nodeChunk x.ptr) ++ (findSliver s n).freeChunks).eraseDups

/-- The chunks that some core holds. -/
def chunksHeld (s : State) : List Nat :=
  (s.index.nodes.map (fun x => nodeChunk x.ptr) ++ s.index.slivers.flatMap (·.freeChunks)).eraseDups

/-- The sliver that owns a chunk, as the control complex's chunk table names it (R114). -/
def chunkOwner (s : State) (c : Nat) : Option Nat :=
  match s.index.nodes.find? fun x => nodeChunk x.ptr == c with
  | some n => some (sliverOf n.key)
  | none => (s.index.slivers.find? fun v => v.freeChunks.contains c).map (·.num)

/-- The node that a request names by its pointer. -/
def reqNode : SliverReq → Option Nat
  | .pinDrop p => some p
  | .score p => some p
  | .hint p _ _ => some p
  | .purge p _ => some p
  | .dropCopy p _ _ _ => some p
  | .dropNode p => some p
  | .pin _ _ _ _ _ h => h.map (·.ptr)
  | .confirm _ _ _ _ _ h => h.map (·.ptr)
  | _ => none

/-- Whether a slot may be used: no node lies in it, and no request, report or transfer still names the one that did.
[DESIGN CHOICE, log 154] -/
def slotQuiet (s : State) (p : Nat) : Bool :=
  !(s.index.nodes.any fun x => x.ptr == p)
    && !(s.index.slivers.any fun v => (v.lcq ++ v.beq).any fun e => reqNode e.req == some p)
    && !dollyWaits s (fun r => dollyNode r == some p)
    && !(s.marr.reports.any fun r => r == .valid p || r == .declined p || r == .cancelled p || r == .displaced p || r == .invalidated p)
    && !(s.tiers.moves.any fun m => m.ptr == p) && !(s.tiers.promoteQueue.any fun x => x.1 == p)

/-- The slot for a new node of a sliver: the lowest free one of the core's chunks, else the first of the lowest chunk that the
control complex still has free; `none` when there is neither (R65). [DESIGN CHOICE, log 154] -/
def allocSlot (s : State) (n : Nat) : Option Nat :=
  let mine := sortBy (fun a b => decide (a < b)) (sliverChunks s n)
  match (mine.flatMap fun c => (List.range 256).map (256 * c + ·)).find? (slotQuiet s) with
  | some p => some p
  | none =>
    let c := lowestFree (chunksHeld s)
    if c < s.index.capacity / 256 then some (256 * c) else none

/-- A node leaves the index (R64). A chunk that it leaves empty stays with its core, which keeps up to 4, or returns to the control
complex (R63). -/
def freeNode (ptr : Nat) (s : State) : State :=
  match findNode s ptr with
  | none => s
  | some x =>
    let s1 := { s with index := { s.index with nodes := s.index.nodes.filter fun n => n.ptr != ptr } }
    let v := findSliver s1 (sliverOf x.key)
    if (s1.index.nodes.any fun n => nodeChunk n.ptr == nodeChunk ptr) || decide (4 ≤ v.freeChunks.length) then s1
    else putSliver { v with freeChunks := v.freeChunks ++ [nodeChunk ptr] } s1

/-! ## The index journal (R89) -/

/-- Appends an index record to the journal buffer. -/
def journalIndex (r : IndexRec) (s : State) : State :=
  { s with index := { s.index with journalBuf := s.index.journalBuf ++ [r] } }

end Sys2Proof.Machine
end

