-- ==== Sys2Proof/Machine/Replay.lean ====
section
/-! DEFINITION. Page seals and TILE_CHECK (R156, R166), and the replay of the index journal (Table 3.5, R92). -/
namespace Sys2Proof.Machine

/-! ## Page seals -/

/-- The epoch that two bits name: the live epoch of the tenant with these low bits (R402). -/
def fullEpoch (s : State) (t e : Nat) : Nat :=
  let x := epochsOf s t
  ((List.range (x.newest + 1 - x.oldest)).map (x.oldest + ·)).find? (fun y => y % 4 == e) |>.getD e

/-- TILE_CHECK: the CRC-32C of each tile of a body in T1 form (R156). -/
def tileChecksOf (tiles : Nat) (body : List Byte) : List U32 :=
  let n := body.length / max tiles 1
  (List.range tiles).map fun i => crc32c ((body.drop (i * n)).take n)

/-- The additional data of a page seal (R166). The fields that Table 6.4 packs into bits take a byte each. [DEDUCED, log 156] -/
def pageSealAad (tenant : Nat) (key : BlockKey) (blockNo layer epoch variant tiles : Nat) (checks : List U32) (body : List Byte) : List Byte :=
  leBytes 2 tenant ++ leBytes 16 key.toNat ++ leBytes 4 blockNo ++ leBytes 2 layer ++ leBytes 1 epoch ++ leBytes 1 variant
    ++ leBytes 1 tiles ++ (checks.flatMap fun c => leBytes 4 c.toNat) ++ body

/-- The page seal: the GCM tag with no ciphertext under the tenant's K_mem for the epoch, its nonce WRITE_NO and four zero bytes. -/
def pageSealOf (key : BitVec 256) (writeNo : Nat) (aad : List Byte) : BitVec 128 :=
  BitVec.ofNat 128 (leNat (gcmTag (keyBytes key) (BitVec.ofNat 96 writeNo) aad []))

/-- A page under its seal: its checks and its tag (R166, R187). `gen` is the registration generation of the tenant. -/
def sealedPage (s : State) (tenant gen : Nat) (key : BlockKey) (blockNo variant tiles layer epoch writeNo : Nat) (body : List Byte) : Page :=
  let checks := tileChecksOf tiles body
  { layer := layer, body := body, writeNo := writeNo, sealEpoch := epoch, tileChecks := checks,
    pageSeal := pageSealOf (sealKey tenant gen (fullEpoch s tenant epoch)) writeNo
      (pageSealAad tenant key blockNo layer epoch variant tiles checks body) }

/-- The pages of a node under new seals: each takes the next WRITE_NO (R167). [DEDUCED, log 62] -/
def resealPages (s : State) (n : Node) (epoch w : Nat) : List Page :=
  n.pages.zipIdx.map fun (p, i) =>
    sealedPage s n.tenant n.regGen n.key n.blockNo n.variant n.tiles p.layer epoch (w + 1 + i) p.body

/-! ## Journal records -/

/-- The node that an index record is about. -/
def recPtr : IndexRec → Nat
  | .insert n => n.ptr
  | .remove p _ => p
  | .presence p _ _ _ => p
  | .epochChange p _ _ _ _ => p

/-- A group and a node as a checkpoint holds them (R91): no pin, and no copy but T3's. -/
def ckptGroup (g : GroupSt) : GroupSt := { t1 := none, t2 := none, t3 := g.t3, dirty := .clean, moving := false, entryOk := true }
/-- [DEDUCED, log 79] -/
def ckptNode (n : Node) : Node :=
  { n with pinCount := 0, groups := n.groups.map ckptGroup, entryPresent := false, evicting := false, changed := false }

/-- Every index record in journal order: in T3, then on its way there. -/
def indexRecords (s : State) : List IndexRec :=
  (s.persist.journal ++ s.flash.flushing.getD [] ++ s.flash.pendingRecs).filterMap (fun r => match r with
    | .index i => some i
    | _ => none) ++ s.index.journalBuf

/-- The records that no later removal of their node follows (R92). -/
def liveRecords : List IndexRec → List IndexRec
  | [] => []
  | r :: rs =>
    let removed := rs.any fun x => match x with
      | .remove p _ => p == recPtr r
      | _ => false
    let isRemove := match r with
      | .remove .. => true
      | _ => false
    if removed || isRemove then liveRecords rs else r :: liveRecords rs

/-- One group's T3 copy replaced. -/
def withT3 (g : Nat) (t3 : Option Nat) (n : Node) : Node := { n with groups := n.groups.modify g fun x => { x with t3 := t3 } }

/-- The T3 copies and seals that a re-seal left (Table 14.6). -/
def resealed (s : State) (epoch writeNo : Nat) (groups : List GroupSt) (n : Node) : Node :=
  let gs := n.groups.zipIdx.map fun (x, i) => { x with t3 := (groups[i]?).bind (·.t3) }
  { n with epoch := epoch, groups := gs, pages := resealPages s n epoch writeNo }

/-- What a record takes away from a node of the checkpoint: step 2 leaves only copies that are still valid (R92).
[DEDUCED, log 83] -/
def takeAway (s : State) (n : Node) (r : IndexRec) : Node :=
  if recPtr r != n.ptr then n
  else match r with
    | .presence _ g none _ => withT3 g none n
    | .epochChange _ e w gs _ => resealed s e w gs n
    | _ => n

/-- Whether a node has a T3 copy, or a record of one. -/
def hasT3 (rs : List IndexRec) (n : Node) : Bool :=
  n.groups.any (fun g => g.t3.isSome) || rs.any fun r => match r with
    | .presence p _ (some _) _ => p == n.ptr
    | _ => false

/-- Whether the journal removes a node of the checkpoint: the last record of its slot's removal or insertion is not the
insertion of that very node. -/
def goneIn (all : List IndexRec) (n : Node) : Bool :=
  all.foldl (fun g r => match r with
    | .remove p _ => if p == n.ptr then true else g
    | .insert m => if m.ptr == n.ptr && m.key == n.key && m.insertSeq == n.insertSeq then false else g
    | _ => g) false

/-- Step 2 of Table 3.5: the checkpoint less what the journal removes. [DEDUCED, log 83] -/
def loadedNodes (s : State) : List Node :=
  let all := indexRecords s
  let live := liveRecords all
  ((s.persist.checkpoint.filter fun n => !goneIn all n).map fun n => live.foldl (takeAway s) n).filter (hasT3 live)

/-- A record of step 4 applied to the nodes. -/
def replayRecord (s : State) (ns : List Node) (r : IndexRec) : List Node :=
  let upd := fun (f : Node → Node) => updWhere (fun (n : Node) => n.ptr == recPtr r) f ns
  match r with
  | .insert n => if ns.any fun m => m.ptr == n.ptr then ns else ns ++ [ckptNode n]
  | .presence _ g t3 _ => upd (withT3 g t3)
  | .epochChange _ e w gs _ => upd (resealed s e w gs)
  | .remove .. => ns

/-- Step 4 of Table 3.5 as far as it has come: while the journal is being replayed, its records take effect one by one, in journal
order. How many have by the time that a core acts is a free value. [DESIGN CHOICE, log 157] -/
def replayOn (s : State) : State :=
  if s.index.recovering && !s.index.replayLeft.isEmpty then
    let (k, s1) := useFree s
    let n := Config.replayPace k
    let kept := fun (r : IndexRec) => (liveRecords (indexRecords s)).contains r
    { s1 with index := { s1.index with nodes := ((s.index.replayLeft.take n).filter kept).foldl (replayRecord s) s.index.nodes,
                                       replayLeft := s.index.replayLeft.drop n } }
  else s

end Sys2Proof.Machine
end

