-- ==== Sys2Proof/Machine/Fp.lean ====
section
/-! DEFINITION. Number formats (Table 5.1) and FP32 arithmetic with rounding to nearest, ties to even (R126).
A finite value is sign, significand and binary exponent: (-1)^s × m × 2^e, so that the sign of a zero stays. -/
namespace Sys2Proof.Machine

/-- A finite value: sign, significand, exponent. -/
abbrev Fv := Bool × Nat × Int

/-- A format: exponent bits, mantissa bits, bias, and the largest finite code without the sign. -/
abbrev Fmt := Nat × Nat × Nat × Nat

/-- The formats of Table 5.1, and FP32. -/
def fmtBF16 : Fmt := (8, 7, 127, 0x7F7F)
def fmtFP16 : Fmt := (5, 10, 15, 0x7BFF)
def fmtE4M3 : Fmt := (4, 3, 7, 0x7E)
def fmtE5M2 : Fmt := (5, 2, 15, 0x7B)
def fmtE2M3 : Fmt := (2, 3, 1, 0x1F)
def fmtE2M1 : Fmt := (2, 1, 1, 0x7)
def fmtFP32 : Fmt := (8, 23, 127, 0x7F7FFFFF)

/-- Bits of a format's code, the sign included. -/
def fmtBits (f : Fmt) : Nat := 1 + f.1 + f.2.1

/-- 2^k for a signed k, clipped at 0 below. -/
def pow2 (k : Int) : Nat := 2 ^ k.toNat

/-- m × 2^(-k) rounded to nearest, ties to even; a left shift when k is not positive. -/
def shiftRne (m : Nat) (k : Int) : Nat :=
  if k ≤ 0 then m * pow2 (-k)
  else
    let d := pow2 k
    let q := m / d
    let r := m % d
    if 2 * r < d then q else if 2 * r > d then q + 1 else q + q % 2

/-- The exponent of a positive value's leading bit. -/
def leadExp (x : Fv) : Int := Int.ofNat x.2.1.log2 + x.2.2

/-- The code of a value in a format, rounded to nearest with ties to even and held at the largest finite
magnitude (R126). [DEDUCED, log 138] -/
def encodeFp (f : Fmt) (x : Fv) : Nat :=
  let (eb, mb, bias, maxCode) := f
  let sign := if x.1 then 2 ^ (eb + mb) else 0
  if x.2.1 == 0 then sign
  else
    let emin : Int := 1 - Int.ofNat bias
    let e := max (leadExp x) emin
    let ulp := e - Int.ofNat mb
    let sig := shiftRne x.2.1 (ulp - x.2.2)
    let code := if sig < 2 ^ mb then sig else (e - emin + 1).toNat * 2 ^ mb + (sig - 2 ^ mb)
    sign + min code maxCode

/-- The value of a finite code. -/
def decodeFp (f : Fmt) (code : Nat) : Fv :=
  let (eb, mb, bias, _) := f
  let s := code / 2 ^ (eb + mb) % 2 == 1
  let field := code / 2 ^ mb % 2 ^ eb
  let frac := code % 2 ^ mb
  let emin : Int := 1 - Int.ofNat bias
  if field == 0 then (s, frac, emin - Int.ofNat mb)
  else (s, 2 ^ mb + frac, emin + Int.ofNat field - 1 - Int.ofNat mb)

/-- Whether a code is a NaN or an infinity: past the largest finite code of its format. -/
def notFinite (f : Fmt) (code : Nat) : Bool := decide (f.2.2.2 < code % 2 ^ (f.1 + f.2.1))

/-- Rounds a value to FP32; a magnitude beyond the largest stays at it. -/
def toF32 (x : Fv) : Fv := decodeFp fmtFP32 (encodeFp fmtFP32 x)

/-- Whether rounding to FP32 passes the largest finite value. [DEDUCED, log 138] -/
def overflowsF32 (x : Fv) : Bool :=
  x.2.1 != 0 && (decide (leadExp x > 127)
    || (leadExp x == 127 && decide (2 ^ 24 ≤ shiftRne x.2.1 (104 - x.2.2))))

/-- Exact sum and product. -/
def addExact (x y : Fv) : Fv :=
  let e := min x.2.2 y.2.2
  let a : Int := Int.ofNat (x.2.1 * pow2 (x.2.2 - e)) * (if x.1 then -1 else 1)
  let b : Int := Int.ofNat (y.2.1 * pow2 (y.2.2 - e)) * (if y.1 then -1 else 1)
  let c := a + b
  (if c == 0 then x.1 && y.1 else decide (c < 0), c.natAbs, e)

def mulExact (x y : Fv) : Fv := (x.1 != y.1, x.2.1 * y.2.1, x.2.2 + y.2.2)

/-- The negation, and the magnitude. -/
def negF (x : Fv) : Fv := (!x.1, x.2.1, x.2.2)
def absF (x : Fv) : Fv := (false, x.2.1, x.2.2)

/-- A quotient with at least 30 significant bits and a sticky bit below them, so that one rounding of it to
FP32 or narrower is the rounding of the exact quotient. The divisor is not zero. -/
def divSticky (x y : Fv) : Fv :=
  if x.2.1 == 0 then (x.1 != y.1, 0, 0)
  else
    let k := (y.2.1.log2 + 32) - x.2.1.log2
    let n := x.2.1 * 2 ^ k
    let q := n / y.2.1
    let r := n % y.2.1
    (x.1 != y.1, 2 * q + (if r == 0 then 0 else 1), x.2.2 - y.2.2 - Int.ofNat k - 1)

/-- FP32 operations (R126). -/
def addF (x y : Fv) : Fv := toF32 (addExact x y)
def subF (x y : Fv) : Fv := addF x (negF y)
def mulF (x y : Fv) : Fv := toF32 (mulExact x y)
def divF (x y : Fv) : Fv := toF32 (divSticky x y)

/-- Order of two values. -/
def ltF (x y : Fv) : Bool :=
  let d := addExact x (negF y)
  d.2.1 != 0 && d.1

/-- Larger and smaller of two values. -/
def maxF (x y : Fv) : Fv := if ltF x y then y else x
def minF (x y : Fv) : Fv := if ltF y x then y else x

/-- Zero, one and small integers as values. -/
def zeroF : Fv := (false, 0, 0)
def natF (n : Nat) : Fv := (false, n, 0)

/-- 2^e. -/
def twoPow (e : Int) : Fv := (false, 1, e)

/-- FP32 bits of a value, and the value of FP32 bits. -/
def bitsF (x : Fv) : U32 := BitVec.ofNat 32 (encodeFp fmtFP32 x)
def ofBits (b : U32) : Fv := decodeFp fmtFP32 b.toNat

/-- Rounds a value to the nearest integer, ties to even. -/
def roundInt (x : Fv) : Int :=
  let m := shiftRne x.2.1 (-x.2.2)
  if x.1 then -Int.ofNat m else Int.ofNat m

end Sys2Proof.Machine
end

