-- ==== Sys2Proof/Machine/Approx.lean ====
section
/-! DEFINITION. The functions whose accuracy alone the spec gives: exp2, log2 and tanh of the attention tiles (R238, R239), cos and sin of
RoPE (R141). A result is any value within the stated bound: a free choice of Config, held to the bound by a reference computed here in
fixed point with 128 fractional bits. -/
namespace Sys2Proof.Machine

/-! ## Fixed point -/

/-- 2^128, the unit. -/
def fixOne : Nat := 2 ^ 128

/-- A value in fixed point, rounded down. -/
def fixOf (x : Fv) : Int :=
  let n : Int := Int.ofNat x.2.1 * (if x.1 then -1 else 1)
  if x.2.2 + 128 < 0 then n / Int.ofNat (pow2 (min 1000 (-(x.2.2 + 128)))) else n * Int.ofNat (pow2 (x.2.2 + 128))

/-- A fixed-point number as a value. -/
def fixValue (n : Int) : Fv := (decide (n < 0), n.natAbs, -128)

/-- Product of two fixed-point numbers. -/
def fixMul (a b : Int) : Int := a * b / Int.ofNat fixOne

/-- ln 2 and log2 e in fixed point, and 2π with 256 fractional bits. -/
def fixLn2 : Int := 0xb17217f7d1cf79abc9e3b39803f2f6af
def fixLog2e : Int := 0x171547652b82fe1777d0ffda0d23a7d11
def twoPi256 : Int := 0x6487ed5110b4611a62633145c06e0e68948127044533e63a0105df531d89cd912

/-- The exponential series from its term `t` on, `k` terms looked at. -/
def expSeries (y : Int) : Nat → Nat → Int → Int
  | 0, _, _ => 0
  | n + 1, k, t => t + expSeries y n (k + 1) (fixMul t y / Int.ofNat (k + 1))

/-- 2^x for a fixed-point x, as a value: 0 and 2^1000 stand for what lies far outside FP32. -/
def exp2Fix (x : Int) : Fv :=
  let n := x / Int.ofNat fixOne
  let f := x - n * Int.ofNat fixOne
  if n < -1000 then zeroF
  else if 1000 < n then twoPow 1000
  else (false, (expSeries (fixMul f fixLn2) 40 0 (Int.ofNat fixOne)).toNat, n - 128)

/-- The series of atanh: u^k / k over odd k. -/
def atanhSeries (u2 : Int) : Nat → Nat → Int → Int
  | 0, _, _ => 0
  | n + 1, k, t => t / Int.ofNat k + atanhSeries u2 n (k + 2) (fixMul t u2)

/-- log2 of a positive value, in fixed point. -/
def log2Fix (x : Fv) : Int :=
  let l := x.2.1.log2
  let m := Int.ofNat (x.2.1 * fixOne / 2 ^ l)
  let one := Int.ofNat fixOne
  let u := (m - one) * one / (m + one)
  (Int.ofNat l + x.2.2) * one + 2 * atanhSeries (fixMul u u) 50 1 u * one / fixLn2

/-- The series of cos (from k = 0) and of sin (from k = 1), `t` its term. -/
def trigSeries (r2 : Int) : Nat → Nat → Int → Int
  | 0, _, _ => 0
  | n + 1, k, t => t + trigSeries r2 n (k + 2) (-(fixMul t r2) / Int.ofNat ((k + 1) * (k + 2)))

/-- An angle reduced modulo 2π, in fixed point. -/
def reduceAngle (x : Fv) : Int :=
  let n := Int.ofNat (x.2.1 * pow2 (x.2.2 + 256)) / Int.ofNat (pow2 (min 2000 (-(x.2.2 + 256))))
  ((if x.1 then -n else n) % twoPi256) / Int.ofNat fixOne

/-! ## Bounds -/

/-- Whether a ≤ b. -/
def leF (a b : Fv) : Bool := !ltF b a

/-- Whether two values differ by at most `e`. -/
def within (a b e : Fv) : Bool := leF (absF (addExact a (negF b))) e

/-- The room that the reference's own error takes beside a bound. -/
def slack : Fv := twoPow (-60)

/-- A free choice where it keeps to a bound around the reference, else the reference rounded to FP32. -/
def choose (cand ref bound : Fv) : Fv := if within cand ref (addExact bound slack) then cand else toF32 ref

/-- exp2 with relative error at most 2^-22 (R238). -/
def exp2F (x : Fv) : Fv :=
  let r := exp2Fix (fixOf x)
  let c := ofBits (Config.exp2 (bitsF x))
  if within c r (mulExact r (addExact (twoPow (-22)) slack)) then c else toF32 r

/-- log2 of a positive value with absolute error at most 2^-22 (R239). -/
def log2F (x : Fv) : Fv := choose (ofBits (Config.log2 (bitsF x))) (fixValue (log2Fix x)) (twoPow (-22))

/-- tanh in reference form: (e^2|x| - 1) / (e^2|x| + 1) with the sign of x; 1 from 32 on. -/
def tanhRef (x : Fv) : Fv :=
  if leF (natF 32) (absF x) then (x.1, 1, 0)
  else
    let e := fixOf (exp2Fix (fixMul (2 * fixOf (absF x)) fixLog2e))
    let t := (e - Int.ofNat fixOne) * Int.ofNat fixOne / (e + Int.ofNat fixOne)
    (x.1, t.toNat, -128)

/-- tanh with absolute error at most 2^-23 (R238). -/
def tanhF (x : Fv) : Fv := choose (ofBits (Config.tanh (bitsF x))) (tanhRef x) (twoPow (-23))

/-! ## RoPE (R141) -/

/-- FP64. -/
def fmtFP64 : Fmt := (11, 52, 1023, 0x7FEFFFFFFFFFFFFF)
def toF64 (x : Fv) : Fv := decodeFp fmtFP64 (encodeFp fmtFP64 x)
def bits64 (x : Fv) : U64 := BitVec.ofNat 64 (encodeFp fmtFP64 x)
def of64 (b : U64) : Fv := decodeFp fmtFP64 b.toNat

/-- A power. -/
def powF (x : Fv) (k : Nat) : Fv := (x.1 && k % 2 == 1, x.2.1 ^ k, x.2.2 * Int.ofNat k)

/-- The bits of the largest n with n^q × p ≤ 2^(90q), from bit `b` down: 2^90 times the q-th root of 1 ÷ p. -/
def rootBits (q : Nat) (p : Fv) : Nat → Nat → Nat
  | 0, n => n
  | b + 1, n => rootBits q p b (if leF (mulExact (powF (natF (n + 2 ^ b)) q) p) (twoPow (90 * Int.ofNat q)) then n + 2 ^ b else n)

/-- THETA^(-2i/Q): a free choice within 2^-50 of it, relatively, else the value rounded to FP64. [DEDUCED, log 179] -/
def thetaFreq (theta : U32) (i q : Nat) : Fv :=
  let p := powF (ofBits theta) (2 * i)
  let c := of64 (Config.ropeFreq theta i q)
  if within (mulExact (powF c q) p) (natF 1) (mulExact (natF q) (twoPow (-50))) && !c.1 then c
  else toF64 (false, rootBits q p 220 0, -90)

/-- The angle φ of a position in FP64. -/
def ropeAngle (pos : Nat) (scale : U32) (f : Fv) : Fv := toF64 (mulExact (toF64 (mulExact (natF pos) (ofBits scale))) f)

/-- The bound on cos and sin: 2^-24, and what the reduction modulo 2π in FP64 leaves open. [DEDUCED, log 179] -/
def angleBound (phi : Fv) : Fv := addExact (twoPow (-24)) (mulExact (absF phi) (twoPow (-50)))

/-- cos φ and sin φ. -/
def cosF (phi : Fv) : Fv :=
  let r := reduceAngle phi
  choose (ofBits (Config.cosAngle (bits64 phi))) (fixValue (trigSeries (fixMul r r) 40 0 (Int.ofNat fixOne))) (angleBound phi)
def sinF (phi : Fv) : Fv :=
  let r := reduceAngle phi
  choose (ofBits (Config.sinAngle (bits64 phi))) (fixValue (trigSeries (fixMul r r) 40 1 r)) (angleBound phi)

end Sys2Proof.Machine
end

