-- ==== Sys2Proof/Machine/Lossless.lean ====
section
/-! DEFINITION. The layout of page bodies (R48 to R51) and the lossless stage of T2 and T3 (R138, R139): the rANS coder of the
exponent planes, the raw planes, and the form that a page takes below T1. -/
namespace Sys2Proof.Machine

/-! ## Profiles and layouts (R48 to R51) -/

/-- Whether a profile is CP_LATENT. -/
def isLatent (d : ProfileDesc) : Bool := d.kCodec == 6

/-- LATENT_RANK + ROPE_DIMS. -/
def rowDims (d : ProfileDesc) : Nat := d.latentRank.toNat + d.ropeDims.toNat

/-- Element and scale bytes of one token of a tile half (Table 2.4). -/
def elemBytes (codec dim : Nat) : Nat :=
  match codec with
  | 0 => 2 * dim
  | 1 => dim
  | 2 => dim
  | 3 => 3 * dim / 4
  | 4 => dim / 2
  | 5 => dim / 2
  | _ => dim

def scaleBytes (codec dim : Nat) : Nat :=
  match codec with
  | 1 => 4
  | 2 => dim / 32
  | 3 => dim / 32
  | 4 => dim / 32
  | 5 => 4 * (dim / 32)
  | _ => 0

/-- Bytes of a tile half (Table 2.4). -/
def halfBytes (codec t dim : Nat) : Nat := t * (elemBytes codec dim + scaleBytes codec dim)

/-- Offset of the V part, and length of a tile in whole granules (R48). -/
def vOffsetOf (d : ProfileDesc) : Nat := alignUp (halfBytes d.kCodec.toNat (blockSize d) d.headDim.toNat) 64
def tileLen (d : ProfileDesc) : Nat :=
  if isLatent d then blockSize d * rowDims d
  else alignUp (vOffsetOf d + halfBytes d.vCodec.toNat (blockSize d) d.headDim.toNat) 512

/-- Tiles of a page: one per KV head, or one for CP_LATENT (Table 6.4). -/
def pageTiles (d : ProfileDesc) : Nat := if isLatent d then 1 else d.kvHeads.toNat

/-- Bytes of a page body (R48, R50). -/
def pageLen (d : ProfileDesc) : Nat := pageTiles d * tileLen d

/-- Bytes of one decoded tile, and its stage slots (R51). -/
def decodedLen (d : ProfileDesc) (bf16 : Bool) : Nat := (if bf16 then 4 else 2) * blockSize d * d.headDim.toNat
def tileSlots (bytes : Nat) : Nat := ceilDiv bytes 16384

/-! ## Bytes -/

/-- Replaces bytes of a body from an offset. -/
def putBytes (body : List Byte) (off : Nat) (bs : List Byte) : List Byte :=
  body.take off ++ bs ++ body.drop (off + bs.length)

/-- Reads `n` bytes at an offset, zero past the end. -/
def getBytes (body : List Byte) (off n : Nat) : List Byte :=
  let r := (body.drop off).take n
  r ++ zeroBytes (n - r.length)

/-- A list cut into pieces of `n`. -/
def chunks {α : Type} (n : Nat) (l : List α) : List (List α) := chunksOf (max n 1) l.length l

/-! ## rANS (R138) -/

/-- Whether a codec's halves pass the lossless stage. -/
def losslessCodec (codec : Nat) : Bool := codec == 0 || codec == 1 || codec == 2

/-- The entries of a half's frequency table. -/
def ransEntries (codec : Nat) : Nat := if codec == 0 then 256 else 16

/-- How often each symbol occurs. -/
def symbolCounts (k : Nat) (syms : List Nat) : List Nat := (List.range k).map fun x => (syms.filter (· == x)).length

/-- Whether a table is normalised for counts: its total is 4,096, and no symbol that occurs has frequency 0. -/
def normalised (counts freqs : List Nat) : Bool :=
  freqs.length == counts.length && sumOf id freqs == 4096 && (counts.zip freqs).all fun x => x.1 == 0 || decide (0 < x.2)

/-- One normalised table: each symbol that occurs once, the rest of the total on the first of them. -/
def plainFreqs (counts : List Nat) : List Nat :=
  let first := (counts.findIdx? (· != 0)).getD 0
  let ones := counts.map fun c => if c == 0 then 0 else 1
  ones.modify first (· + (4096 - sumOf id ones))

/-- The frequency table of a half: any normalised one (the spec gives no rounding). [DESIGN CHOICE, log 139] -/
def freqsOf (counts : List Nat) : List Nat :=
  let f := Config.ransFreq counts
  if normalised counts f then f else plainFreqs counts

/-- One symbol into a state: 16 bits leave it first when it would pass 32 bits. The states lie between 2^16 and 2^32.
[PRESUMED, log 176] -/
def ransPut (freq start x : Nat) : Nat × List Nat :=
  let f := max freq 1
  let (y, out) := if f * 2 ^ 20 ≤ x then (x / 65536, [x % 65536]) else (x, [])
  (y / f * 4096 + y % f + start, out)

/-- The symbols from the last to the first into four interleaved states, symbol i into state i mod 4: the states, and the 16-bit
words in the order in which the decoder reads them. -/
def ransRun (freqs : List Nat) : List (Nat × Nat) → List Nat → List Nat → List Nat × List Nat
  | [], states, words => (states, words)
  | (i, sym) :: rest, states, words =>
    let r := ransPut (freqs.getD sym 0) (sumOf id (freqs.take sym)) (states.getD (i % 4) 65536)
    ransRun freqs rest (states.set (i % 4) r.1) (r.2 ++ words)

/-- The coded exponent plane: the frequency table, the four states, and the stream written in reverse. -/
def ransPlane (k : Nat) (syms : List Nat) : List Byte :=
  let freqs := freqsOf (symbolCounts k syms)
  let (states, words) := ransRun freqs (syms.zipIdx.map fun x => (x.2, x.1)).reverse [65536, 65536, 65536, 65536] []
  (freqs.flatMap (leBytes 2)) ++ (states.flatMap (leBytes 4)) ++ words.flatMap (leBytes 2)

/-! ## Tile halves and pages (R138) -/

/-- The exponent bits and the sign and mantissa bits of an element. -/
def expBits (codec x : Nat) : Nat := if codec == 0 then bitsOf x 7 8 else bitsOf x 3 4
def restBits (codec x : Nat) : Nat := if codec == 0 then bitsOf x 15 1 * 2 ^ 7 + bitsOf x 0 7 else bitsOf x 7 1 * 2 ^ 3 + bitsOf x 0 3

/-- Sign and mantissa bits packed raw: 8 bits an element for BF16, 4 bits for E4M3. -/
def packRest (codec : Nat) (xs : List Nat) : List Byte :=
  if codec == 0 then xs.flatMap (leBytes 1) else (chunks 2 xs).map fun p => BitVec.ofNat 8 (p.getD 0 0 + 16 * p.getD 1 0)

/-- A tile half coded: its exponent plane, its sign and mantissa bits, its scale region. A half of another codec is copied.
[PRESUMED, log 176] -/
def codedHalf (codec t dim : Nat) (half : List Byte) : List Byte :=
  if !losslessCodec codec then half
  else
    let elems := getBytes half 0 (t * elemBytes codec dim)
    let xs := (chunks (if codec == 0 then 2 else 1) elems).map leNat
    ransPlane (ransEntries codec) (xs.map (expBits codec)) ++ packRest codec (xs.map (restBits codec))
      ++ getBytes half (t * elemBytes codec dim) (t * scaleBytes codec dim)

/-- A page body coded: the two halves of each tile, one after another. -/
def codedBody (d : ProfileDesc) (body : List Byte) : List Byte :=
  let t := blockSize d
  let dim := d.headDim.toNat
  (chunks (tileLen d) body).flatMap fun tile =>
    codedHalf d.kCodec.toNat t dim (getBytes tile 0 (halfBytes d.kCodec.toNat t dim))
      ++ codedHalf d.vCodec.toNat t dim (getBytes tile (vOffsetOf d) (halfBytes d.vCodec.toNat t dim))

/-- Whether a profile's pages pass the lossless stage: those of CP_BF16, CP_FP8 and CP_MX8. -/
def passesLossless (d : ProfileDesc) : Bool := losslessCodec d.kCodec.toNat || losslessCodec d.vCodec.toNat

/-- The coded body in whole granules, when it saves one (R138). -/
def losslessForm (d : ProfileDesc) (body : List Byte) : Option (List Byte) :=
  if !passesLossless d then none
  else
    let c := codedBody d body
    let n := alignUp c.length 512
    if n < body.length then some (c ++ zeroBytes (n - c.length)) else none

/-- A page's body in a tier, and whether it is coded there: T1 never holds a coded page (R139). -/
def bodyIn (d : ProfileDesc) (tier : Tier) (p : Page) : List Byte × Bool :=
  match tier with
  | .t1 => (p.body, false)
  | _ => match losslessForm d p.body with
    | some c => (c, true)
    | none => (p.body, false)

end Sys2Proof.Machine
end

