-- ==== Sys2Proof/Machine/TierOps.lean ====
section
/-! DEFINITION. Extents and their copies in the tiers: sizes, space, the dirty books, moves and their
commits, drops, the dirty mark, and faults of one copy (chapter "Tiers, write-back and admission"). -/
namespace Sys2Proof.Machine

/-! ## Sizes (R164) -/

/-- Bytes of one page header, on its 64-byte boundary (Table 6.4). -/
def headerBytes (tiles : Nat) : Nat := alignUp (64 + 4 * tiles) 64

/-- The pages of a node's layer group. -/
def groupPages (n : Node) (g : Nat) : List Page :=
  n.pages.filter fun p => groupOfLayer n.layers p.layer == g

/-- A node's group. -/
def groupAt (n : Node) (g : Nat) : Option GroupSt := n.groups[g]?

/-- Layers of a group. -/
def groupLayers (n : Node) (g : Nat) : Nat :=
  groupFirst n.layers n.groups.length (g + 1) - groupFirst n.layers n.groups.length g

/-- Granules of a page body in a tier's form (R138). -/
def bodyGranules (d : ProfileDesc) (tier : Tier) (p : Page) : Nat := (bodyIn d tier p).1.length / 512

/-- Granules of an extent in a tier's form (R164). -/
def extentGranules (n : Node) (g : Nat) (tier : Tier) : Nat :=
  ceilDiv (groupLayers n g * headerBytes n.tiles) 512 + sumOf (bodyGranules n.desc tier) (groupPages n g)

/-- Whether an extent has lossless-coded pages below T1 (R138). -/
def codedBelow (n : Node) (g : Nat) : Bool := (groupPages n g).any fun p => (bodyIn n.desc .t2 p).2

/-- An extent's bytes in a tier, unencrypted (R164): the headers, each on a 64-byte boundary and the region padded to whole
granules, then the bodies in layer order. -/
def extentPlain (n : Node) (g : Nat) (tier : Tier) : List Byte :=
  let heads := (groupPages n g).flatMap fun p =>
    let b := bodyIn n.desc tier p
    let h := pageHeaderBytes n.variant n.tiles (b.1.length / 512) b.2 p
    h ++ zeroBytes (headerBytes n.tiles - h.length)
  heads ++ zeroBytes (alignUp heads.length 512 - heads.length) ++ (groupPages n g).flatMap fun p => (bodyIn n.desc tier p).1

/-- The number of a tier in an XTS tweak. -/
def tierNumber : Tier → Nat
  | .t1 => 1
  | .t2 => 2
  | .t3 => 3

/-- The bytes that a tier holds from granule address `loc` on (R13, R168): plain in T1, and in T2 and T3 each granule encrypted with
AES-256-XTS under K_mem for the node's epoch, its tweak the tier in bits [127:120] and the granule's address below. -/
def storedExtent (s : State) (n : Node) (g : Nat) (tier : Tier) (loc : Nat) : List Byte :=
  let plain := extentPlain n g tier
  let e := fullEpoch s n.tenant n.epoch
  match tier with
  | .t1 => plain
  | t => (chunksOf 512 (plain.length / 512 + 1) plain).zipIdx.flatMap fun x =>
      xtsUnit (keyBytes (xtsDataKey n.tenant n.regGen e)) (keyBytes (xtsTweakKey n.tenant n.regGen e))
        (tierNumber t * 2 ^ 120 + loc + x.2) x.1

/-! ## Space and groups -/

/-- Changes one group of a node. -/
def setGroup (ptr g : Nat) (f : GroupSt → GroupSt) (s : State) : State :=
  setNode ptr (fun n => { n with groups := n.groups.modify g f }) s

/-- Adds to the free granules of T1 or T2. -/
def freeSpace (tier : Tier) (n : Nat) (s : State) : State :=
  match tier with
  | .t1 => { s with tiers := { s.tiers with t1Free := s.tiers.t1Free + n } }
  | .t2 => { s with tiers := { s.tiers with t2Free := s.tiers.t2Free + n } }
  | .t3 => s

/-- Granules of T2 that a retired row holds (R161). -/
def rowRun (row : Nat) : Nat × Nat := (row * Config.rowGranules, Config.rowGranules)

/-- The runs of granules of a tier's page pool that are taken, as (first granule, granules): the extents' copies, the
destinations of transfers, the places of ingests, and the retired rows of T2. -/
def takenRuns (s : State) (tier : Tier) : List (Nat × Nat) :=
  (s.index.nodes.flatMap fun n => (List.range n.groups.length).filterMap fun g => (groupAt n g).bind fun x => match tier with
    | .t1 => x.t1.map fun a => (a, extentGranules n g .t1)
    | .t2 => x.t2.map fun a => (a, extentGranules n g .t2)
    | .t3 => none)
  ++ (s.tiers.moves.filter fun m => m.dst == tier).map (fun m => (m.loc, m.granules))
  ++ (match tier with
    | .t1 => s.tiers.ingests.flatMap fun i => i.places.map fun p => p.2.2
    | .t2 => s.tiers.retiredRows.map rowRun
    | .t3 => [])

/-- Whether `n` granules from `a` on lie in a pool of `total` and outside the runs taken. -/
def runClear (rs : List (Nat × Nat)) (total a n : Nat) : Bool :=
  decide (a + n ≤ total) && rs.all fun r => decide (a + n ≤ r.1) || decide (r.1 + r.2 ≤ a)

/-- A place for `n` contiguous granules beside the runs taken (R164), wherever the device puts them; `none` when no run of `n` is
free. [DESIGN CHOICE, log 8] -/
def fitIn (rs : List (Nat × Nat)) (total n : Nat) : Option Nat :=
  ((sortBy (fun a b => decide (a < b)) (0 :: rs.map fun r => r.1 + r.2)).find? fun a => runClear rs total a n).map fun a =>
    if runClear rs total (Config.placeGranule rs n) n then Config.placeGranule rs n else a

/-- A tier's page pool in granules. -/
def poolOf (s : State) : Tier → Nat
  | .t1 => s.tiers.t1Total
  | .t2 => s.tiers.t2Total + s.tiers.retiredRows.length * Config.rowGranules
  | .t3 => 0

/-- Where an extent of `n` granules goes in T1 or T2 (R164). [DESIGN CHOICE, log 8] -/
def placeIn (s : State) (tier : Tier) (n : Nat) : Option Nat := fitIn (takenRuns s tier) (poolOf s tier) n

/-- Free granules of a tier. -/
def spaceOf (s : State) : Tier → Nat
  | .t1 => s.tiers.t1Free
  | .t2 => s.tiers.t2Free
  | .t3 => 0

/-- Granules of a run of T2 that lie in retired rows: they are never allocated again (R161). -/
def retiredPart (s : State) (a n : Nat) : Nat :=
  sumOf (fun r => min (a + n) (r.1 + r.2) - max a r.1) (s.tiers.retiredRows.map rowRun)

/-- Gives back a run of granules of T1 or T2. -/
def freePlace (tier : Tier) (a n : Nat) (s : State) : State :=
  freeSpace tier (if tier == .t2 then n - retiredPart s a n else n) s

/-- Takes granules of T1 or T2; `none` when fewer are free. [DESIGN CHOICE, log 8] -/
def takeSpace (tier : Tier) (n : Nat) (s : State) : Option State :=
  match tier with
  | .t1 => if n ≤ s.tiers.t1Free then some { s with tiers := { s.tiers with t1Free := s.tiers.t1Free - n } } else none
  | .t2 => if n ≤ s.tiers.t2Free then some { s with tiers := { s.tiers with t2Free := s.tiers.t2Free - n } } else none
  | .t3 => some s

/-- Whether a tier holds the group. -/
def copyIn (g : GroupSt) : Tier → Option Nat
  | .t1 => g.t1
  | .t2 => g.t2
  | .t3 => g.t3

/-- A group with one tier's copy replaced. -/
def withCopy (tier : Tier) (c : Option Nat) (g : GroupSt) : GroupSt :=
  match tier with
  | .t1 => { g with t1 := c }
  | .t2 => { g with t2 := c }
  | .t3 => { g with t3 := c }

/-! ## The dirty books (R169, R171) -/

/-- DIRTY_T1 and DIRTY_T2 with `n` pages taken from one state and given to another. -/
def moveDirty (old new : Dirty) (n : Nat) (s : State) : State :=
  let t := s.tiers
  let a := match old with
    | .t1 => { t with dirtyT1 := t.dirtyT1 - n }
    | .t2 => { t with dirtyT2 := t.dirtyT2 - n }
    | .clean => t
  { s with tiers := match new with
    | .t1 => { a with dirtyT1 := a.dirtyT1 + n }
    | .t2 => { a with dirtyT2 := a.dirtyT2 + n }
    | .clean => a }

/-- Sets a group's DIRTY with the counters in the same commit (R171). -/
def setDirty (ptr g : Nat) (d : Dirty) (s : State) : State :=
  match findNode s ptr with
  | none => s
  | some n => match groupAt n g with
    | none => s
    | some x => moveDirty x.dirty d (groupLayers n g) (setGroup ptr g (fun y => { y with dirty := d }) s)

/-- Granules of the extents dirty in T1 or T2 (R177). -/
def dirtyGranules (s : State) : Nat :=
  sumOf (fun n => sumOf (fun g => match groupAt n g with
    | some x => match x.dirty with
      | .clean => 0
      | .t1 => extentGranules n g .t1
      | .t2 => extentGranules n g .t2
    | none => 0) (List.range n.groups.length)) s.index.nodes

/-- The dirty high-water mark: reached above 75 %, cleared below 70 % of the T2 page pool (R177). -/
def updateMark (s : State) : State :=
  let d := dirtyGranules s
  let m := if d * 100 > s.tiers.t2Total * 75 then true
    else if d * 100 < s.tiers.t2Total * 70 then false else s.tiers.aboveMark
  { s with tiers := { s.tiers with aboveMark := m, freed := if m == s.tiers.aboveMark then s.tiers.freed else 0 } }

/-! ## Dropping copies -/

/-- The flash granules of a T3 copy: first granule and count (Table 9.5 FREE). -/
def flashRun (n : Node) (g : Nat) : List (Nat × Nat) :=
  match groupAt n g with
  | some x => match x.t3 with
    | some loc => [(loc, extentGranules n g .t3)]
    | none => []
  | none => []

/-- Granules that eviction frees in T2 while the dirty mark is reached: LC ingest records may use as many (R177). -/
def creditFreed (tier : Tier) (n : Nat) (s : State) : State :=
  if tier == .t2 && s.tiers.aboveMark then { s with tiers := { s.tiers with freed := s.tiers.freed + n } } else s

/-- Drops one tier's copy of a group. A T1 or T2 copy frees its granules at once; a T3 copy's slots are freed
once the record of the change has reached T3 (R90). -/
def dropCopy (ptr g : Nat) (tier : Tier) (s : State) : State :=
  match findNode s ptr with
  | none => s
  | some n => match (groupAt n g).bind fun x => copyIn x tier with
    | none => s
    | some a =>
      let s1 := setGroup ptr g (withCopy tier none) s
      match tier with
      | .t3 => journalIndex (.presence ptr g none (flashRun n g)) s1
      | t => creditFreed t (extentGranules n g t) (freePlace t a (extentGranules n g t) s1)

/-- Drops every copy of every group of a node (R57, R88, R442), with the dirty counters, and appends the
removal record whose FREE records follow its flush. [DEDUCED, log 36] -/
def dropAll (ptr : Nat) (s : State) : State :=
  match findNode s ptr with
  | none => s
  | some n =>
    let gs := List.range n.groups.length
    let s1 := gs.foldl (fun s g => setDirty ptr g .clean s) s
    let s2 := gs.foldl (fun s g => dropCopy ptr g .t2 (dropCopy ptr g .t1 s)) s1
    let s3 := gs.foldl (fun s g => setGroup ptr g (withCopy .t3 none) s) s2
    updateMark (journalIndex (.remove ptr (gs.flatMap (flashRun n))) s3)

/-- Whether every write of a storyboard's layer has been acknowledged (R207). -/
def layerConsumed (s : State) (b : Storyboard) (l : Nat) : Bool :=
  (b.layers.any fun w => w.layer == l && w.notified)
    && !(s.net.qps.any fun q => q.sent.any fun m => match m.what with
      | .sbMsg i k _ _ => i == b.id && k == l
      | _ => false)

/-- The layer after `l` in a membership's declared order (R225), if there is one. -/
def layerAfter (m : Membership) (l : Nat) : List Nat :=
  if l < m.lastLayer then [l + 1] else if bitOf m.prm.aoFlags.toNat 3 then [m.firstLayer] else []

/-- The layers whose extents an open membership keeps in T1 (R248): the next two of its declared order. -/
def nextLayers (m : Membership) : List Nat :=
  match m.lastAttend with
  | none => m.firstLayer :: layerAfter m m.firstLayer
  | some l => layerAfter m l ++ (layerAfter m l).flatMap (layerAfter m)

/-- Whether a live storyboard, an open session or an unfinished batch holds a group as not yet consumed (R175,
R207, R248). -/
def extentHeld (s : State) (ptr g : Nat) : Bool :=
  match findNode s ptr with
  | none => false
  | some n =>
    let inGroup := fun l => groupOfLayer n.layers l == g
    (s.eng.storyboards.any fun b => b.ptrs.contains ptr
      && (List.range (b.lastLayer + 1 - b.firstLayer)).any fun i =>
        inGroup (b.firstLayer + i) && !layerConsumed s b (b.firstLayer + i))
    || (s.eng.memberships.any fun m => m.ptrs.contains ptr && (nextLayers m).any inGroup)
    || (s.eng.batches.any fun b => inGroup b.layer && b.members.any fun m =>
      s.eng.memberships.any fun x => x.index == m.membership && x.ptrs.contains ptr)

/-- Whether a node is unheld (R65). [DEDUCED, log 58] -/
def nodeUnheld (s : State) (n : Node) : Bool :=
  !((List.range n.groups.length).any fun g => extentHeld s n.ptr g)

/-! ## Removing nodes -/

/-- A node to be removed: its entry is invalidated first; its slot is free at once when it has none, and at
INVALIDATED otherwise (R64, R111). -/
def retireNode (ptr : Nat) (s : State) : State :=
  match findNode s ptr with
  | none => s
  | some n =>
    let gone := setNode ptr (fun m => { m with dying := true, keyed := false }) s
    if entryDue s n then askRemove n gone
    else if removeDue s ptr then gone
    else freeNode ptr s

/-- Offers a node for drop: EVICTING is set after the REMOVE is asked, its copies go, and it leaves the index
(R88, R111, R176). -/
def evictNode (ptr : Nat) (s : State) : State :=
  retireNode ptr (dropAll ptr (setNode ptr (fun n => { n with evicting := true }) s))

/-- Takes a node out of the directory with PURGED or LOST set (R60, R111): a node that no pin holds goes with
its pages, another keeps them for its pins (R57). [DEDUCED, log 36] -/
def purgeNode (ptr : Nat) (s : State) : State :=
  match findNode s ptr with
  | none => s
  | some n =>
    let s1 := setNode ptr (fun m => { m with purged := true, keyed := false }) s
    if pinCountOf s n == 0 then retireNode ptr (dropAll ptr s1)
    else
      let s2 := journalIndex (.remove ptr []) s1
      if entryDue s n then askRemove n s2 else s2

/-- R442: the node is LOST, its entry is removed and every copy dropped. A node that pins hold stays counted
until its last pin falls (R82, R444). -/
def loseNode (ptr : Nat) (s : State) : State :=
  match findNode s ptr with
  | none => s
  | some n =>
    if n.lost then s
    else
      let s1 := countFault 11 1 (setNode ptr (fun m => { m with lost := true, keyed := false }) s)
      let s2 := dropAll ptr s1
      if pinCountOf s n == 0 then retireNode ptr s2
      else if entryDue s n then askRemove n s2 else s2

/-! ## Moves (R172, R175) -/

/-- The move of an extent. -/
def findMove (s : State) (id : Nat) : Option Move := s.tiers.moves.find? fun m => m.id == id

/-- Changes a move, and ends one. -/
def setMove (id : Nat) (f : Move → Move) (s : State) : State :=
  { s with tiers := { s.tiers with moves := updWhere (fun m => m.id == id) f s.tiers.moves } }
def dropMove (id : Nat) (s : State) : State :=
  { s with tiers := { s.tiers with moves := s.tiers.moves.filter fun m => m.id != id } }

/-- The NAND population found at start-up; nothing before it. -/
def geomOf (s : State) : Population :=
  s.power.trained.getD
    { ddr := [], nand := [], hbmTrained := false, ddrTrained := false, badUnits := [], factoryBad := [] }

/-- The map entry of a slot. -/
def findMap (s : State) (slot : Nat) : MapEntry :=
  (s.flash.map.find? fun m => m.slot == slot).getD { slot := slot, live := 0, place := none, seqNo := 0 }

/-- The slots and granules of a run of `n` granules from granule address `loc`: (slot, granules). -/
def runSlots (loc n : Nat) : List (Nat × Nat) :=
  if n == 0 then []
  else
    let a := loc / 32
    let b := (loc + n - 1) / 32
    (List.range (b - a + 1)).map fun i =>
      let lo := max loc ((a + i) * 32)
      let hi := min (loc + n) ((a + i + 1) * 32)
      (a + i, hi - lo)

/-- The dies that hold a run of flash granules. -/
def diesOfRun (s : State) (loc n : Nat) : List Nat := (runSlots loc n).filterMap fun x => (findMap s x.1).place.map (·.1)

/-- The NAND read of an extent is over, or no longer wanted. -/
def dropRead (ptr g : Nat) (s : State) : State :=
  endNand (.read ptr g) { s with flash := { s.flash with reads := s.flash.reads.filter fun r => !(r.1 == ptr && r.2.1 == g) } }

/-- The steps of a transfer in their order: data that leaves T1 is coded and then encrypted, data that comes to T1 is decrypted
and then decoded, and every copy passes a crypto engine (R139, R168). [DESIGN CHOICE, log 168] -/
def moveSteps (n : Node) (m : Move) : List MoveStep :=
  let toT1 := m.dst == .t1
  let fromT1 := m.src == .t1
  let code := if fromT1 && !toT1 && passesLossless n.desc || toT1 && !fromT1 && codedBelow n m.group then [MoveStep.code] else []
  let last := if m.dst == .t3 then [MoveStep.program] else []
  [.carry] ++ (if fromT1 then code ++ [.crypt] else .crypt :: code) ++ last

/-- The step after the present one. -/
def nextStep (n : Node) (m : Move) : Option MoveStep := ((moveSteps n m).dropWhile (· != m.step))[1]?

/-- The units of a step: movers carry at most 64 KiB, a codec engine codes at most 16 KiB and decodes at most 32 KiB, a crypto
engine takes at most 32 KiB, or one flash slot (R172, R258, Tables 5.7 and 11.2). -/
def stepUnits (n : Node) (m : Move) : MoveStep → Nat
  | .carry => max 1 (ceilDiv (extentGranules n m.group m.src) 128)
  | .code => max 1 (ceilDiv (extentGranules n m.group .t1) (if m.src == .t1 then 32 else 64))
  | .crypt => if m.dst == .t3 then (runSlots m.loc m.granules).length else max 1 (ceilDiv m.granules 64)
  | .program => (runSlots m.loc m.granules).length

/-- Begins a step of a transfer: its units are queued. A unit that encrypts for T3 fills a stage slot (R258). -/
def startStep (id : Nat) (st : MoveStep) (s : State) : State :=
  match findMove s id with
  | none => s
  | some m => match findNode s m.ptr with
    | none => s
    | some n =>
      let k := stepUnits n m st
      let queue := fun (kind : EngineKind) (w : Nat → UnitWork) (slots : Nat) (s : State) =>
        (List.range k).foldl (fun s i => queueUnit kind (newUnit m.cls (w i) slots 0) s) s
      let s1 := setMove id (fun m => { m with step := st, left := k }) s
      match st with
      | .carry => queue .mover (fun _ => .move id) 0 s1
      | .code => queue .codec (fun _ => .moveCode id) 0 s1
      | .crypt => queue .crypto (fun i => .moveCrypt id i) (if m.dst == .t3 then 1 else 0) s1
      | .program => s1

/-- Whether a unit works on a transfer. -/
def worksOn (id : Nat) : UnitWork → Bool
  | .move x => x == id
  | .moveCode x => x == id
  | .moveCrypt x _ => x == id
  | _ => false

/-- Enters a transfer of an extent: its destination is taken, and MOVING is set. -/
def addMove (ptr g : Nat) (src dst : Tier) (why : MoveWhy) (slot : Option Nat) (cls : Cls) (need loc : Nat) (s : State) : Nat × State :=
  let m : Move := { id := s.tiers.nextMove, ptr := ptr, group := g, src := src, dst := dst, why := why, slot := slot, cls := cls,
                    step := .carry, left := 0, granules := need, loc := loc, failed := false, escalated := false }
  (m.id, setGroup ptr g (fun y => { y with moving := true })
    { s with tiers := { s.tiers with moves := s.tiers.moves ++ [m], nextMove := s.tiers.nextMove + 1 } })

/-- The bands, by row and index, that hold a run of flash granules (R254, R259). -/
def bandsOfRun (s : State) (loc n : Nat) : List (Nat × Nat) :=
  (runSlots loc n).filterMap fun x => (findMap s x.1).place.map fun p => (p.1 / 32, p.2.2 / max (geomOf s).pagesPerBlock 1)

/-- A transfer's source is read: out of T3 by the NAND first (R281), out of T1 and T2 by its mover units. -/
def startRead (id : Nat) (s : State) : State :=
  match findMove s id with
  | none => s
  | some m => match m.src, (findNode s m.ptr).bind fun n => (groupAt n m.group).map fun x => (n, x) with
    | .t3, some (n, x) =>
      let loc := x.t3.getD 0
      let k := extentGranules n m.group .t3
      queueNand (.read m.ptr m.group) (diesOfRun s loc k)
        { s with flash := { s.flash with reads := s.flash.reads ++ [(m.ptr, m.group, bandsOfRun s loc k)] } }
    | _, _ => startStep id .carry s

/-- Starts the transfer of an extent from one tier to another, when the destination has room for it and no
transfer of it runs. A read of T3 waits for the NAND; the units of the others are queued at once. [DEDUCED, log 128] -/
def startMove (ptr g : Nat) (src dst : Tier) (why : MoveWhy) (slot : Option Nat) (cls : Cls) (s : State) : State :=
  match findNode s ptr with
  | none => s
  | some n => match groupAt n g with
    | none => s
    | some x =>
      if x.moving || (copyIn x src).isNone || (copyIn x dst).isSome then s
      else
        let need := extentGranules n g dst
        match takeSpace dst need s, placeIn s dst need with
        | some s2, some loc =>
          let (id, s3) := addMove ptr g src dst why slot cls need loc s2
          startRead id s3
        | _, _ => s

/-- Starts the transfer of an extent to fresh granules of its own tier, T1 or T2: out of a retired row (R161), or for a re-seal
(Table 14.6); `none` when none are free. [DEDUCED, log 76] -/
def moveWithin (ptr g : Nat) (t : Tier) (why : MoveWhy) (s : State) : Option State :=
  (findNode s ptr).bind fun n =>
    let need := extentGranules n g t
    (takeSpace t need s).bind fun s1 => (placeIn s t need).map fun loc =>
      let (id, s2) := addMove ptr g t t why none .be need loc s1
      startStep id .carry s2

/-- Starts the transfer of an extent out of a retired row of T2 (R161). -/
def relocate (ptr g : Nat) (s : State) : State :=
  if (((findNode s ptr).bind fun n => groupAt n g).map (·.moving)).getD true then s else (moveWithin ptr g .t2 .rowRetire s).getD s

/-- Asks the owning core to commit a finished transfer (R165, R172). -/
def askCommit (m : Move) (s : State) : State := askOwner m.ptr m.cls (.stateCommit m.id) s

/-- The best copy to read an extent from: the highest tier that holds it. -/
def bestTier (x : GroupSt) : Option Tier :=
  if x.t1.isSome then some .t1 else if x.t2.isSome then some .t2 else if x.t3.isSome then some .t3 else none

/-- The queued units of a transfer go first in an engine's LC queue. [DEDUCED, log 128] -/
def hasten (id : Nat) (kind : EngineKind) (s : State) : State :=
  let e := getEngine s kind
  let of := fun (u : EUnit) => worksOn id u.work
  let first := ((e.lcq ++ e.beq).filter of).map fun u => { u with cls := .lc }
  putEngine kind { e with lcq := first ++ e.lcq.filter (fun u => !of u), beq := e.beq.filter fun u => !of u } s

/-- An escalated read goes ahead of every other on its channel (R218): the engines take its units first. [DEDUCED, log 128] -/
def escalate (ptr g : Nat) (esc : Bool) (s : State) : State :=
  let mine := fun (m : Move) => m.ptr == ptr && m.group == g && m.dst == .t1 && m.src != .t1
  if !esc then s
  else match s.tiers.moves.find? fun m => mine m && !m.escalated with
    | none => s
    | some m =>
      [EngineKind.mover, .codec, .crypto].foldl (fun s k => hasten m.id k s)
        { s with tiers := { s.tiers with moves := updWhere mine (fun m => { m with escalated := true, cls := .lc }) s.tiers.moves } }

/-- Brings an extent to T1 for a command (R175), when it is not there and not on its way; `esc` escalates the read (R218).
[DEDUCED, log 128] -/
def bringToT1 (ptr g : Nat) (why : MoveWhy) (slot : Option Nat) (cls : Cls) (esc : Bool) (s : State) : State :=
  match (findNode s ptr).bind fun n => groupAt n g with
  | none => s
  | some x => match bestTier x with
    | some .t1 => s
    | some t =>
      escalate ptr g esc (if x.moving then s else startMove ptr g t .t1 why slot cls s)
    | none => s

/-- Whether a group can be read from T1. -/
def inT1 (s : State) (ptr g : Nat) : Bool :=
  (((findNode s ptr).bind fun n => groupAt n g).map (·.t1.isSome)).getD false

/-! ## Eviction (R174 to R176) -/

/-- Whether a core has been asked to drop a copy and has not taken the request. -/
def dropAsked (s : State) (ptr g : Nat) (tier : Tier) : Bool :=
  s.index.slivers.any fun v => (v.lcq ++ v.beq).any fun e => match e.req with
    | .dropCopy p h t _ => p == ptr && h == g && t == tier
    | _ => false

/-- Asks the owning core to drop a clean copy (R165). -/
def askDrop (ptr g : Nat) (tier : Tier) (slot : Option Nat) (cls : Cls) (s : State) : State :=
  if dropAsked s ptr g tier then s else askOwner ptr cls (.dropCopy ptr g tier slot) s

/-- Whether a core has been asked to drop a node and has not taken the request. -/
def nodeDropAsked (s : State) (ptr : Nat) : Bool :=
  s.index.slivers.any fun v => (v.lcq ++ v.beq).any fun e => e.req == .dropNode ptr

/-- Asks the owning core to drop a node (R176, R276). -/
def askDropNode (ptr : Nat) (s : State) : State := if nodeDropAsked s ptr then s else askOwner ptr .be (.dropNode ptr) s

/-- What a core does with that request: a copy that is dirty by then, on its way, or held stays. -/
def applyDrop (ptr g : Nat) (tier : Tier) (s : State) : State :=
  match (findNode s ptr).bind fun n => groupAt n g with
  | none => s
  | some x =>
    let dirtyHere := match tier with
      | .t1 => x.dirty == .t1
      | .t2 => x.dirty == .t2
      | .t3 => false
    if x.moving || dirtyHere || extentHeld s ptr g then s else dropCopy ptr g tier s

/-- Takes one extent out of T1: a clean copy is dropped by its core, a dirty one written back to T2 (Table 6.5). -/
def evictT1 (ptr g : Nat) (slot : Option Nat) (cls : Cls) (s : State) : State :=
  match (findNode s ptr).bind fun n => groupAt n g with
  | none => s
  | some x =>
    if x.moving || x.t1.isNone then s
    else match x.dirty with
      | .t1 => startMove ptr g .t1 .t2 .evict slot cls s
      | _ => askDrop ptr g .t1 slot cls s

/-- R443: the bad copy alone goes, the fault is counted as masked, and the good copy is promoted. [DEDUCED, log 127] -/
def maskFault (ptr g : Nat) (bad : Tier) (s : State) : State :=
  let s1 := countFault 12 1 (dropCopy ptr g bad s)
  match bad, (findNode s1 ptr).bind fun n => groupAt n g with
  | .t1, _ => bringToT1 ptr g .mask none .be false s1
  | .t2, some x => if x.t1.isNone then startMove ptr g .t3 .t2 .mask none .be s1 else s1
  | _, _ => s1

/-- Whether another tier holds a copy of the extent, so that a bad copy in `bad` is masked (R443): the bad
copy is clean, or it is the T3 copy that a higher tier repeats (R281). [DEDUCED, log 127] -/
def otherCopy (x : GroupSt) (bad : Tier) : Bool :=
  (bad != .t1 && x.t1.isSome) || (bad != .t2 && x.t2.isSome) || (bad != .t3 && x.t3.isSome)

/-- The dirty state an extent has once its T3 copy is gone: dirty in the highest tier that holds it (R169,
R281). -/
def dirtyWithoutT3 (x : GroupSt) : Dirty := if x.t1.isSome then .t1 else if x.t2.isSome then .t2 else .clean

/-- A T3 copy lost while a higher tier holds the extent: that copy becomes dirty (R281). When it is in T1 and
T2 both, the T2 copy goes, since a dirty extent has one copy (R170). -/
def loseT3 (ptr g : Nat) (s : State) : State :=
  match (findNode s ptr).bind fun n => groupAt n g with
  | none => s
  | some x =>
    let s1 := dropCopy ptr g .t3 s
    let s2 := setDirty ptr g (dirtyWithoutT3 x) s1
    updateMark (if x.t1.isSome && x.t2.isSome then dropCopy ptr g .t2 s2 else s2)

/-- The windows' worth of T1 that eviction works between (R174). -/
def belowLow (total free : Nat) : Bool := decide (free * 100 < total * 4)
def belowHigh (total free : Nat) : Bool := decide (free * 100 < total * 6)

/-- The nodes that cores offer, in the order of R88: none whose extents are on their way between tiers. [DEDUCED, log 58] -/
def offered (s : State) (p : Node → Bool) : List Node :=
  sortBy (offeredBefore s) (s.index.nodes.filter fun n => p n && !(n.groups.any (·.moving)))

/-! ## What a read meets (R439) -/

/-- The fault counters of a read of T1 or T2 (Table 16.10); reads of T3 are counted by the NAND's own events. -/
def countRead (src : Tier) (o : ReadOutcome) (s : State) : State :=
  match o, src with
  | .corrected, .t1 => countFault 2 1 s
  | .corrected, .t2 => countFault 4 1 s
  | .uncorrectable, .t1 => countFault 3 1 s
  | .uncorrectable, .t2 => countFault 5 1 s
  | .sealFailed, _ => countFault 10 1 s
  | _, _ => s

/-- Whether the copy that was read is bad. -/
def readBad : ReadOutcome → Bool
  | .uncorrectable => true
  | .sealFailed => true
  | _ => false

end Sys2Proof.Machine
end

