-- ==== Sys2Proof/Machine/FlashOps.lean ====
section
/-! DEFINITION. The flash translation layer's operations: geometry, map, packer, bands and programs, freeing,
admission and the wear charges (chapter "Flash media management"). -/
namespace Sys2Proof.Machine

/-! ## Geometry (R253 to R256, R284, R285) -/

/-- Bands of each die row (R255). -/
def bandsPerRow (g : Population) : Nat := g.blocksPerPlane - 1 - ceilDiv g.blocksPerPlane 50

/-- All pages of all dies (R255). -/
def totalPagesOf (g : Population) : Nat := g.dies * g.planes * g.blocksPerPlane * g.pagesPerBlock

/-- OP's numerator over 16: 1/8, 3/16, 1/4 (R255). -/
def opSixteenths (op : Nat) : Nat := if op == 0 then 2 else if op == 1 then 3 else 4

/-- U (R255). -/
def usableSlots (g : Population) (op : Nat) : Nat := (16 - opSixteenths op) * totalPagesOf g / 16

/-- Data pages of the remaining bands: 31 of each 32 members, less the dead dies and the absent members. -/
def dataPages (s : State) : Nat :=
  let g := geomOf s
  (g.dies / 32 * 31 - s.persist.deadDies.length) * g.planes * bandsPerRow g * g.pagesPerBlock
    - sumOf (fun b => b.absent.length * g.pagesPerBlock) s.flash.bands

/-- The usable limit (R284, R285). -/
def usableLimit (s : State) : Nat :=
  if dataPages s * 100 > 102 * s.persist.usable then s.persist.usable else min s.persist.usable (dataPages s * 100 / 102)

/-- The first slot of the page pool (R256). -/
def poolBase : Nat := 6356992

/-! ## Map (R261, R264, R275) -/

/-- Stores a map entry; an entry with nothing live and no page is the unmapped one. The segment changed. -/
def putMap (m : MapEntry) (s : State) : State :=
  let rest := s.flash.map.filter fun x => x.slot != m.slot
  let seg := m.slot / 1024
  { s with flash := { s.flash with map := if m.live == 0 && m.place.isNone then rest else m :: rest,
                                   dirtySegs := if s.flash.dirtySegs.contains seg then s.flash.dirtySegs else seg :: s.flash.dirtySegs } }

/-- Appends a journal record (R266). -/
def journalRec (r : JournalRec) (s : State) : State :=
  { s with flash := { s.flash with pendingRecs := s.flash.pendingRecs ++ [r] } }

/-- Whether a slot is free for the packer (R257, R275). -/
def slotFree (s : State) (slot : Nat) : Bool :=
  (findMap s slot).live == 0 && !(s.flash.assembling.any fun a => a.slot == slot) && !s.flash.trimmed.contains slot

/-- Whether a run of granules fits: inside the pool and over free slots, its first slot excepted where it
continues the extent before it. -/
def runFits (s : State) (loc n : Nat) : Bool :=
  decide ((loc + n - 1) / 32 < usableLimit s)
    && (runSlots loc n).all fun x => (x.1 == loc / 32 && loc % 32 != 0) || slotFree s x.1

/-- The first run at or after `loc` (R257), wrapping at the end of the pool; `fuel` bounds the search. -/
def findRun (s : State) (n : Nat) : Nat → Nat → Option Nat
  | 0, _ => none
  | fuel + 1, loc =>
    if runFits s loc n then some loc
    else
      let next := (loc / 32 + 1) * 32
      findRun s n fuel (if usableLimit s ≤ next / 32 then poolBase * 32 else next)

/-- How many positions the search looks at: every used slot can stop a run once for each slot of its width,
before and after the wrap. -/
def runFuel (s : State) (n : Nat) : Nat :=
  2 * (s.flash.map.length + s.flash.assembling.length + s.flash.trimmed.length + 2) * (n / 32 + 2)

/-! ## Wear and quota charges (R180, R287) -/

/-- A NAND page programmed: WRITE_SEQ was taken at its start; its bytes are charged to this window. -/
def chargeProgram (pages : Nat) (s : State) : State :=
  { s with tiers := { s.tiers with charged := s.tiers.charged + 16384 * pages },
           persist := { s.persist with flashCounters := s.persist.flashCounters.modify 0 (· + 16384 * pages) } }

/-- NAND pages of images programmed: they are charged, and each takes a WRITE_SEQ (R262, R287). -/
def imagePages (pages : Nat) (s : State) : State :=
  chargeProgram pages { s with flash := { s.flash with writeSeq := s.flash.writeSeq + pages } }

/-- Adds to a flash counter of R287, in its listed order. -/
def countFlash (i n : Nat) (s : State) : State :=
  { s with persist := { s.persist with flashCounters := s.persist.flashCounters.modify i (· + n) } }

/-! ## Bands and programs (R259, R260, R267, R268, R272) -/

/-- The band of a row with an index, free and untouched when nothing is recorded of it. -/
def findBand (s : State) (row index : Nat) : Band :=
  (s.flash.bands.find? fun b => b.row == row && b.index == index).getD
    { row := row, index := index, state := .free, stream := .host, writePtr := 0, eraseCount := 0, closedAt := 0,
      reads := 0, absent := [], weak := false, reservedFlushed := false }

/-- Stores a band. -/
def putBand (b : Band) (s : State) : State :=
  { s with flash := { s.flash with bands := b :: s.flash.bands.filter fun x => !(x.row == b.row && x.index == b.index) } }

/-- Bands that are not free. -/
def usedBands (s : State) : Nat := (s.flash.bands.filter fun b => b.state != .free).length

/-- All bands, and the free ones (R272). -/
def bandCount (s : State) : Nat := (geomOf s).dies / 32 * bandsPerRow (geomOf s)
def freeBands (s : State) : Nat := bandCount s - usedBands s

/-- Whether member (channel, plane) of a band takes no program: a retired block or a dead die. -/
def memberAbsent (s : State) (b : Band) (ch plane : Nat) : Bool :=
  b.absent.contains (ch, plane) || s.persist.deadDies.contains (b.row * 32 + ch)

/-- The channel of the parity page of a stripe (R259): the rotation skips an absent channel. -/
def parityChannel (s : State) (b : Band) (page plane : Nat) : Nat :=
  (((List.range 32).map fun i => (b.index + page + plane + i) % 32).find? fun c => !memberAbsent s b c plane).getD 0

/-- The channels of a stripe in the order in which they are programmed: the data members, then the parity
page (R259, R260). -/
def stripeOrder (s : State) (b : Band) (page plane : Nat) : List Nat :=
  let pc := parityChannel s b page plane
  ((List.range 32).filter fun c => c != pc && !memberAbsent s b c plane) ++ [pc]

/-- Page, plane and place in the stripe of a band's write pointer, which counts positions of 32 a stripe. -/
def stripePos (g : Population) (w : Nat) : Nat × Nat × Nat :=
  (w / 32 / max g.planes 1, w / 32 % max g.planes 1, w % 32)

/-- Positions of a band. -/
def bandSize (g : Population) : Nat := g.pagesPerBlock * g.planes * 32

/-- The physical page of a band position; `none` past the stripe's members. The flag tells the parity page. -/
def placeAt (s : State) (b : Band) : Option ((Nat × Nat × Nat) × Bool) :=
  let g := geomOf s
  let (page, plane, i) := stripePos g b.writePtr
  let order := stripeOrder s b page plane
  (order[i]?).map fun ch => ((b.row * 32 + ch, plane, b.index * g.pagesPerBlock + page), i + 1 == order.length)

/-- The next write pointer: past the stripe's last member it goes to the next stripe. -/
def advancePtr (s : State) (b : Band) : Nat :=
  let (page, plane, i) := stripePos (geomOf s) b.writePtr
  if i + 1 < (stripeOrder s b page plane).length then b.writePtr + 1 else (b.writePtr / 32 + 1) * 32

/-- The band a stream may program in a die row: its open band, else one that a flushed record reserved. [DESIGN CHOICE, log 34] -/
def writableBand (s : State) (row : Nat) (st : Stream) : Option Band :=
  match s.flash.bands.find? fun b => b.row == row && b.stream == st && b.state == .openBand with
  | some b => some b
  | none => s.flash.bands.find? fun b => b.row == row && b.stream == st && b.state == .reserved && b.reservedFlushed

/-- Reserves the lowest-numbered free band of a die row for a stream, unless one is reserved (R268). -/
def reserveBand (row : Nat) (st : Stream) (s : State) : State :=
  if s.flash.bands.any fun b => b.row == row && b.stream == st && b.state == .reserved then s
  else
    match (List.range (bandsPerRow (geomOf s))).find? fun i => (findBand s row i).state == .free with
    | none => s
    | some i =>
      journalRec (.band row i st .reserved 0)
        (putBand { findBand s row i with state := .reserved, stream := st, writePtr := 0, reservedFlushed := false } s)

/-- Gives a program the next page of a band: WRITE_SEQ rises, the band opens, and closes after its last page. -/
def programInto (b : Band) (p : Program) (place : Nat × Nat × Nat) (s : State) : State :=
  let seq := s.flash.writeSeq + 1
  let w := advancePtr s b
  let st := if bandSize (geomOf s) ≤ w then BandState.closed else BandState.openBand
  let b1 := { b with state := st, writePtr := w, closedAt := s.clk.window }
  let s1 := putBand b1 s
  let s2 := if b.state == st then s1 else journalRec (.band b.row b.index b.stream st w) s1
  let q := { p with band := some (b.row, b.index), place := place, seqNo := seq }
  queueNand (.program q.id) [place.1] { s2 with flash := { s2.flash with writeSeq := seq, programs := s2.flash.programs ++ [q] } }

/-- The parity page that a stripe's last data page calls for (R260). -/
def parityAfter (row index : Nat) (s : State) : State :=
  let b := findBand s row index
  if b.state != .openBand then s
  else match placeAt s b with
    | some (place, true) =>
      let p : Program := { id := s.flash.nextProgram, kind := .parity, stream := b.stream, band := none, place := place,
                           seqNo := 0, trimmed := false, parts := [], held := { lc := 0, shared := 0 } }
      programInto b p place { s with flash := { s.flash with nextProgram := s.flash.nextProgram + 1 } }
    | _ => s

/-- Whether a new program may start now: not during the hold-up flush (R286), within 128 MiB of data since the
last flush (R267), and, for the host stream, not while GC goes first (R272). -/
def mayProgram (s : State) (st : Stream) : Bool :=
  s.power.flushing.isNone && decide (s.flash.dataBytes + 16384 ≤ 134217728)
    && !(st == .host && decide (freeBands s * 1000 < bandCount s * 5))

/-- Starts a program, or leaves it waiting for a band, a flush or GC. [DESIGN CHOICE, log 8, 34] -/
def placeProgram (p : Program) (s : State) : State :=
  let (k, s1) := useFree s
  let row := Config.placeRow k % max ((geomOf s).dies / 32) 1
  if !mayProgram s1 p.stream then { s1 with flash := { s1.flash with waiting := s1.flash.waiting ++ [p] } }
  else match writableBand s1 row p.stream with
    | none =>
      let s2 := reserveBand row p.stream s1
      { s2 with flash := { s2.flash with waiting := s2.flash.waiting ++ [p] } }
    | some b => match placeAt s1 b with
      | none => { s1 with flash := { s1.flash with waiting := s1.flash.waiting ++ [p] } }
      | some (place, _) => parityAfter b.row b.index (programInto b p place s1)

/-- A new program of a kind. -/
def startProgram (k : ProgKind) (st : Stream) (parts : List (Nat × Nat)) (held : Taken) (s : State) : State :=
  placeProgram { id := s.flash.nextProgram, kind := k, stream := st, band := none, place := (0, 0, 0), seqNo := 0,
                 trimmed := false, parts := parts, held := held }
    { s with flash := { s.flash with nextProgram := s.flash.nextProgram + 1 } }

/-- The waiting programs try again. -/
def retryPrograms (s : State) : State :=
  s.flash.waiting.foldl (fun s p => placeProgram p s) { s with flash := { s.flash with waiting := [] } }

/-! ## Packer (R257, R258) -/

/-- Places granules of a move in the slot being assembled (R257): the ALLOC record raises its LIVE. [DEDUCED, log 35] -/
def assemble (slot granules move : Nat) (s : State) : State :=
  let old := (s.flash.assembling.find? fun a => a.slot == slot).getD
    { slot := slot, used := 0, parts := [], due := false, held := { lc := 0, shared := 0 } }
  let rest := s.flash.assembling.filter fun x => x.slot != slot
  let s1 := putMap { findMap s slot with live := (findMap s slot).live + granules } s
  { s1 with flash := { s1.flash with assembling := rest ++ [{ old with used := old.used + granules, parts := old.parts ++ [(move, granules)] }] } }

/-- Whether every granule placed in a slot has been encrypted into it, or is not coming any more. -/
def filled (s : State) (a : Assembling) : Bool :=
  a.parts.all fun p => ((findMove s p.1).map fun m => m.step == .program).getD true

/-- The slots to be programmed (R258): those that are full, or that a cut marker found part-filled, once their granules are
there. A slot in which nothing is left alive is given up. [DEDUCED, log 35] -/
def programReady (s : State) : State :=
  let go := fun (a : Assembling) => filled s a && (a.due || decide (32 ≤ a.used) || (findMap s a.slot).live == 0)
  (s.flash.assembling.filter go).foldl
    (fun s a => if (findMap s a.slot).live == 0 then giveSlots a.held s else startProgram (.data a.slot) .host a.parts a.held s)
    { s with flash := { s.flash with assembling := s.flash.assembling.filter fun a => !go a } }

/-- At a cut marker part-filled slots are programmed with their unused granules zero (R258); the cursor moves to
the next slot, since they take no more. [DEDUCED, log 35] -/
def programPartial (s : State) : State :=
  let c := if s.flash.cursor % 32 == 0 then s.flash.cursor else (s.flash.cursor / 32 + 1) * 32
  programReady { s with flash := { s.flash with cursor := c, assembling := s.flash.assembling.map fun a => { a with due := true } } }

/-- A crypto unit has encrypted a move's granules of one flash slot into the stage slot that assembles it (R258). -/
def fillSlot (slot : Nat) (t : Taken) (s : State) : State :=
  match s.flash.assembling.find? fun a => a.slot == slot && a.held.lc + a.held.shared == 0 with
  | none => giveSlots t s
  | some _ => { s with flash := { s.flash with assembling := updWhere (fun a => a.slot == slot) (fun a => { a with held := t }) s.flash.assembling } }

/-- A run of flash granules for one layer group of a node, with its ALLOC record and its slots' shares (PACKER_PLACE).
`none` when the pool has no run for it. -/
def placeExtent (n : Node) (g : Nat) (src : Tier) (why : MoveWhy) (cls : Cls) (s : State) : Option State :=
  let need := extentGranules n g .t3
  let start := max s.flash.cursor (poolBase * 32)
  match findRun s need (runFuel s need) start with
  | none => none
  | some loc =>
    let (id, s1) := addMove n.ptr g src .t3 why none cls need loc { s with flash := { s.flash with cursor := loc + need } }
    let s2 := journalRec (.alloc (loc / 32) (loc % 32) need) s1
    some (startRead id ((runSlots loc need).foldl (fun s x => assemble x.1 x.2 id s) s2))

/-- Free page-pool slots, and the reclaim marks of R276. -/
def poolSlots (s : State) : Nat := usableLimit s - poolBase
def slotsInUse (s : State) : Nat := (s.flash.map.filter fun m => decide (poolBase ≤ m.slot) && decide (0 < m.live)).length
def reclaimDue (s : State) : Bool := decide ((poolSlots s - slotsInUse s) * 100 < poolSlots s * 2)
  || decide (poolSlots s < slotsInUse s)
def reclaimed (s : State) : Bool := decide (poolSlots s * 3 ≤ (poolSlots s - slotsInUse s) * 100)

/-- Slots of runs of flash granules. -/
def runsSlots (rs : List (Nat × Nat)) : Nat := sumOf (fun r => ceilDiv r.2 32) rs

/-- Slots that a node's T3 copies take. -/
def nodeSlots (n : Node) : Nat := runsSlots ((List.range n.groups.length).flatMap (flashRun n))

/-- Slots given up and not free yet: those of nodes whose cores have been asked to drop them, and those whose records have not been
written (R90). -/
def slotsGiven (s : State) : Nat :=
  sumOf nodeSlots (s.index.nodes.filter fun n => nodeDropAsked s n.ptr)
    + sumOf (fun r => match r with
      | .remove _ fs => runsSlots fs
      | .presence _ _ _ fs => runsSlots fs
      | _ => 0) (s.index.journalBuf ++ (s.flash.pendingRecs ++ s.flash.flushing.getD []).filterMap fun r => match r with
        | .index i => some i
        | _ => none)

/-- The nodes that cores offer for the reclaim (R88, R276). -/
def reclaimable (s : State) : List Node :=
  offered s fun n => pinCountOf s n == 0 && !n.dying && !n.evicting && nodeUnheld s n && !nodeDropAsked s n.ptr && n.groups.any fun g => g.t3.isSome

/-- Admission has stopped: space is short, nothing more of it is on its way, and no candidate remains (R276). -/
def admissionStopped (s : State) : Bool := reclaimDue s && slotsGiven s == 0 && (reclaimable s).isEmpty

/-- Places an extent in T2 to be programmed, when T3 holds no copy of it, no transfer of it runs and admission goes on (R276).
[DESIGN CHOICE, log 34; DEDUCED, log 35] -/
def packExtent (ptr g : Nat) (why : MoveWhy) (cls : Cls) (s : State) : Option State :=
  match findNode s ptr with
  | none => none
  | some n => match groupAt n g with
    | none => none
    | some x => if x.moving || x.t3.isSome || admissionStopped s then none
      else (placeExtent n g .t2 why cls s).map (countFlash 1 (512 * extentGranules n g .t3))

/-! ## Admission (R178, R179) -/

/-- Floor of log2. -/
def floorLog2 (n : Nat) : Nat := n.log2

/-- b of R178: the tenant's jobs whose scopes include the node's, at the last cut marker, clamped to 1..256. -/
def scopeJobs (s : State) (n : Node) : Nat :=
  min 256 (max 1 (s.jobs.scopeSnap.filter fun x => x.1 == n.tenant && x.2 == n.scope).length)

/-- The admission score (R178). -/
def admissionScore (s : State) (n : Node) : Nat :=
  let a := min (valueOf s n) 4095 * (1 + floorLog2 (scopeJobs s n))
  min (if n.persistHint then a + 32768 else a) 65534

/-- R179, with R181's suspension. -/
def admitted (s : State) (n : Node) : Bool :=
  decide (s.persist.theta ≤ admissionScore s n) && decide (s.persist.theta < 65535)
    && !spent (quotasOf s n.tenant).t3WriteBytes (useOf s n.tenant).t3Bytes
    && s.power.flushing.isNone && !s.tiers.suspended

/-- Programs every group of a node that is dirty in T2. -/
def programDirty (ptr : Nat) (why : MoveWhy) (s : State) : State :=
  match findNode s ptr with
  | none => s
  | some n => (List.range n.groups.length).foldl (fun s g =>
      match groupAt n g with
      | some x => if x.dirty == .t2 then (packExtent ptr g why .be s).getD s else s
      | none => s) s

/-- ADMISSION at write-back: a node that R179 admits is queued for programming at once. -/
def admitAtWriteBack (ptr : Nat) (s : State) : State :=
  match findNode s ptr with
  | none => s
  | some n => if admitted s n then programDirty ptr .admission s else s

/-! ## Freeing (R275) -/

/-- Lowers LIVE on one slot; a slot that reaches 0 is trimmed: unmapped, and not reused before a completed
flush holds its FREE record. A program of the slot in flight takes the trim when it ends. -/
def lowerLive (slot n : Nat) (s : State) : State :=
  let m := findMap s slot
  let left := m.live - n
  if left == 0 then
    let ps := updWhere (fun p => p.kind == .data slot) (fun p => { p with trimmed := true }) s.flash.programs
    let s1 := putMap { m with live := 0, place := none } s
    { s1 with flash := { s1.flash with programs := ps, trimmed := slot :: s1.flash.trimmed } }
  else putMap { m with live := left } s

/-- Record positions of a journal record (R266, Table 9.5). -/
def recPositions : JournalRec → Nat
  | .index _ => 3
  | .counters .. => 4
  | _ => 1

/-- Pages that a flush writes, each on two dies (R266, Table 9.4). -/
def journalPages (rs : List JournalRec) : Nat := 2 * ceilDiv (sumOf recPositions rs) 1021

/-- The dies that a flush programs, two of different channels for each page; the hold-up flush keeps off dies that are erasing
(R266, R286). [DESIGN CHOICE, log 169] -/
def flushDies (s : State) (holdUp : Bool) (rs : List JournalRec) : List Nat :=
  let n := max (geomOf s).dies 1
  let ds := (List.range (journalPages rs / 2)).flatMap fun i =>
    let d := Config.journalDie (s.flash.nextOp + i) % n
    [d, d / 32 * 32 + (d + 1) % 32]
  ds.filter fun d => !holdUp || !(s.flash.ops.any fun o => o.issued && o.dies.contains d && match o.job with
    | .erase .. => true
    | _ => false)

/-- A FREE record and its effect. [DEDUCED, log 80] -/
def freeRun (loc n : Nat) (s : State) : State :=
  (runSlots loc n).foldl (fun s x => lowerLive x.1 x.2 s) (journalRec (.free (loc / 32) (loc % 32) n s.flash.writeSeq) s)

/-- Abandons a transfer: the source copy stays as it was and the destination's granules return (R172); the slots that it was to fill
go on without it. -/
def abandonMove (m : Move) (s : State) : State :=
  let s0 := match m.src with
    | .t3 => dropRead m.ptr m.group s
    | _ => s
  let s1 := dropQueued (worksOn m.id) (dropMove m.id (setGroup m.ptr m.group (fun y => { y with moving := false }) s0))
  match m.dst with
  | .t3 => programReady (freeRun m.loc m.granules s1)
  | t => freePlace t m.loc m.granules s1

/-- Abandons the transfers of a node that `p` names. -/
def abandonWhere (ptr : Nat) (p : Move → Bool) (s : State) : State :=
  (s.tiers.moves.filter fun m => m.ptr == ptr && p m).foldl (fun s m => abandonMove m s) s

/-- FLASH_RECLAIM: cores are asked to drop nodes with a T3 copy, in the order of R88, until 3 % is free or on its way. -/
def reclaimFuel : Nat → State → State
  | 0, s => s
  | fuel + 1, s =>
    if decide (poolSlots s * 3 ≤ (poolSlots s - slotsInUse s + slotsGiven s) * 100) then s
    else match (reclaimable s).head? with
      | none => s
      | some n => reclaimFuel fuel (askDropNode n.ptr s)

/-- R276, when it is due. -/
def flashReclaim (s : State) : State := if reclaimDue s then reclaimFuel s.index.nodes.length s else s

/-- The number under which rows of the table name a band (Table 9.5 BAND: [39:35] die row, [31:16] index). -/
def bandNumber (row index : Nat) : Nat := row * 65536 + index

end Sys2Proof.Machine
end

