-- ==== Sys2Proof/Machine/Codec.lean ====
section
/-! DEFINITION. The KV codec (chapter "KV codec"): sizes and layout of pages, encoding of ingested elements,
decoding, output forms and the rebuilding of latent pages. -/
namespace Sys2Proof.Machine

/-! ## Codec weights records (R143) -/

/-- RECORD_SIZE (R143): the sections present, each on its 64-byte boundary, in units of 512 KiB. -/
def smoothLen (d : ProfileDesc) : Nat := if d.kCodec == 5 then 4 * d.kvHeads.toNat * d.headDim.toNat else 0
def ukLen (d : ProfileDesc) : Nat :=
  if isLatent d then d.kvHeads.toNat * (d.headDim.toNat - d.ropeDims.toNat) * d.latentRank.toNat * 33 / 32 else 0
def uvLen (d : ProfileDesc) : Nat :=
  if isLatent d then d.kvHeads.toNat * d.headDim.toNat * d.latentRank.toNat * 33 / 32 else 0
def smoothOffset (d : ProfileDesc) : Nat := if smoothLen d == 0 then 0 else 0x400
def ukOffset (d : ProfileDesc) : Nat := if ukLen d == 0 then 0 else alignUp (0x400 + smoothLen d) 64
def uvOffset (d : ProfileDesc) : Nat :=
  if uvLen d == 0 then 0 else alignUp (alignUp (0x400 + smoothLen d) 64 + ukLen d) 64
def recordSize (d : ProfileDesc) : Nat :=
  let e1 := 0x400 + smoothLen d
  let e2 := if ukLen d == 0 then e1 else alignUp e1 64 + ukLen d
  let e3 := if uvLen d == 0 then e2 else alignUp e2 64 + uvLen d
  alignUp e3 524288

/-! ## Input elements (R126, R127, R187) -/

/-- Bytes of an input element, its format, and the values of a payload; `none` when one is NaN or infinite. -/
def inputBytes (fmt : Byte) : Nat := if fmt.toNat ≤ 1 then 2 else 1
def inputFmt (fmt : Byte) : Fmt :=
  match fmt.toNat with
  | 0 => fmtBF16
  | 1 => fmtFP16
  | 2 => fmtE4M3
  | _ => fmtE5M2

def inputValues (fmt : Byte) (payload : List Byte) : Option (List Fv) :=
  (chunks (inputBytes fmt) payload).mapM fun bs =>
    if notFinite (inputFmt fmt) (leNat bs) then none else some (decodeFp (inputFmt fmt) (leNat bs))

/-! ## Encoding (R129 to R134) -/

/-- The largest magnitude of a list. -/
def amaxF (xs : List Fv) : Fv := xs.foldl (fun m x => maxF m (absF x)) zeroF

/-- Four-bit codes packed two a byte, six-bit codes packed four in three bytes (R132). -/
def packNibbles (cs : List Nat) : List Byte := (chunks 2 cs).map fun p => BitVec.ofNat 8 (p.getD 0 0 + 16 * p.getD 1 0)
def packSix (cs : List Nat) : List Byte :=
  (chunks 4 cs).flatMap fun p => leBytes 3 (p.getD 0 0 + 64 * p.getD 1 0 + 4096 * p.getD 2 0 + 262144 * p.getD 3 0)

/-- R131: the codes and the scale byte of one 32-element group. -/
def encodeMx (f : Fmt) (emax : Int) (xs : List Fv) : List Nat × Nat :=
  let a := amaxF xs
  if a.2.1 == 0 then (xs.map fun _ => 0, 0)
  else
    let e := min 127 (max (-127) (leadExp a - emax))
    (xs.map fun x => encodeFp f (toF32 (x.1, x.2.1, x.2.2 - e)), (e + 127).toNat)

/-- R133: the codes, scale and zero point of one group already divided by its smoothing values; `none` when the
scale or the zero point passes the FP16 range (R127). -/
def encodeI4 (ys : List Fv) : Option (List Nat × Nat × Nat) :=
  let m := ys.tail.foldl minF (ys.headD zeroF)
  let mx := ys.tail.foldl maxF (ys.headD zeroF)
  let fits := fun (x : Fv) => !(decide (leadExp x > 15) && x.2.1 != 0)
    && !(x.2.1 != 0 && leadExp x == 15 && decide (2 ^ 11 ≤ shiftRne x.2.1 (5 - x.2.2)))
  let raw := divF (subF mx m) (natF 15)
  let s := encodeFp fmtFP16 raw
  if !ltF m mx || s % 32768 == 0 then
    if fits m then some (ys.map fun _ => 1, encodeFp fmtFP16 m, 0) else none
  else
    let sv := decodeFp fmtFP16 s
    let zraw := divF (negF m) sv
    if fits raw && fits zraw then
      let z := encodeFp fmtFP16 zraw
      let q := ys.map fun y => (min 15 (max 0 (roundInt (addF (divF y sv) (decodeFp fmtFP16 z))))).toNat
      some (q, s, z)
    else none

/-- The smoothing value of a dimension of a KV head (R133). -/
def smoothAt (w : Option WeightsRecord) (d : ProfileDesc) (head dim : Nat) : Fv :=
  ((w.bind fun r => r.smooth[head * d.headDim.toNat + dim]?).map ofBits).getD (natF 1)

/-- Element and scale bytes of one token of a tile half; `none` when R127 rejects it. -/
def encodeToken (codec : Nat) (smooth : Nat → Fv) (xs : List Fv) : Option (List Byte × List Byte) :=
  match codec with
  | 0 => some (xs.flatMap fun x => leBytes 2 (encodeFp fmtBF16 x), [])
  | 1 =>
    let a := amaxF xs
    let sc := if a.2.1 == 0 then natF 1 else divF a (natF 448)
    some (xs.map fun x => BitVec.ofNat 8 (encodeFp fmtE4M3 (divF x sc)), leBytes 4 (encodeFp fmtFP32 sc))
  | 2 =>
    let gs := (chunks 32 xs).map (encodeMx fmtE4M3 8)
    some (gs.flatMap fun g => g.1.map (BitVec.ofNat 8 ·), gs.map fun g => BitVec.ofNat 8 g.2)
  | 3 =>
    let gs := (chunks 32 xs).map (encodeMx fmtE2M3 2)
    some (packSix (gs.flatMap (·.1)), gs.map fun g => BitVec.ofNat 8 g.2)
  | 4 =>
    let gs := (chunks 32 xs).map (encodeMx fmtE2M1 2)
    some (packNibbles (gs.flatMap (·.1)), gs.map fun g => BitVec.ofNat 8 g.2)
  | _ =>
    let ys := (List.range xs.length).map fun i => divF (xs.getD i zeroF) (smooth i)
    match (chunks 32 ys).mapM encodeI4 with
    | none => none
    | some gs => some (packNibbles (gs.flatMap (·.1)), gs.flatMap fun g => leBytes 2 g.2.1 ++ leBytes 2 g.2.2)

/-- R134: the codes of a CP_LATENT row, and how many elements saturated. [DESIGN CHOICE, log 174] -/
def encodeRow (d : ProfileDesc) (w : Option WeightsRecord) (xs : List Fv) : List Byte × Nat :=
  let sc := ((w.map fun r => ofBits r.latentScale)).getD (natF 1)
  let sr := ((w.map fun r => ofBits r.ropeScale)).getD (natF 1)
  let ys := (List.range xs.length).map fun i => divF (xs.getD i zeroF) (if i < d.latentRank.toNat then sc else sr)
  (ys.map fun y => BitVec.ofNat 8 (encodeFp fmtE4M3 y), (ys.filter fun y => ltF (natF 464) (absF y)).length)

/-- Encodes the tokens of one record into a page body (R158): the body after it, with the saturated count, or
`none` when R127 rejects the input. -/
def encodeRecord (d : ProfileDesc) (w : Option WeightsRecord) (head half first : Nat) (vals : List Fv) (body : List Byte) :
    Option (List Byte × Nat) :=
  if isLatent d then
    let rows := chunks (rowDims d) vals
    some ((List.range rows.length).foldl (fun acc i =>
      let r := encodeRow d w (rows.getD i [])
      (putBytes acc.1 ((first + i) * rowDims d) r.1, acc.2 + r.2)) (body, 0))
  else
    let codec := if half == 0 then d.kCodec.toNat else d.vCodec.toNat
    let dim := d.headDim.toNat
    let base := head * tileLen d + (if half == 0 then 0 else vOffsetOf d)
    let toks := chunks dim vals
    let sm := fun i => if half == 0 && codec == 5 then smoothAt w d head i else natF 1
    (List.range toks.length).foldl (fun acc i => acc.bind fun a =>
      (encodeToken codec sm (toks.getD i [])).map fun e =>
        let b1 := putBytes a.1 (base + (first + i) * elemBytes codec dim) e.1
        (putBytes b1 (base + blockSize d * elemBytes codec dim + (first + i) * scaleBytes codec dim) e.2, a.2))
      (some (body, 0))

/-! ## Decoding (R130 to R133, R136) -/

/-- Element `i` of packed six-bit codes. -/
def sixAt (bs : List Byte) (i : Nat) : Nat := leNat (getBytes bs (i / 4 * 3) 3) / 64 ^ (i % 4) % 64

/-- Nibble `i`. -/
def nibbleAt (bs : List Byte) (i : Nat) : Nat := ((bs.getD (i / 2) 0).toNat / 16 ^ (i % 2)) % 16

/-- The decoded FP32 values x′ of one token of a tile half. -/
def decodeToken (codec dim : Nat) (smooth : Nat → Fv) (es ss : List Byte) : List Fv :=
  let mx := fun (f : Fmt) (code : Nat) (i : Nat) =>
    let v := decodeFp f code
    toF32 (v.1, v.2.1, v.2.2 + Int.ofNat (ss.getD (i / 32) 0).toNat - 127)
  (List.range dim).map fun i =>
    match codec with
    | 0 => decodeFp fmtBF16 (leNat (getBytes es (2 * i) 2))
    | 1 => mulF (decodeFp fmtE4M3 (es.getD i 0).toNat) (ofBits (BitVec.ofNat 32 (leNat (getBytes ss 0 4))))
    | 2 => mx fmtE4M3 (es.getD i 0).toNat i
    | 3 => mx fmtE2M3 (sixAt es i) i
    | 4 => mx fmtE2M1 (nibbleAt es i) i
    | _ =>
      let s := decodeFp fmtFP16 (leNat (getBytes ss (4 * (i / 32)) 2))
      let z := decodeFp fmtFP16 (leNat (getBytes ss (4 * (i / 32) + 2) 2))
      mulF (smooth i) (mulF s (subF (natF (nibbleAt es i)) z))

/-- The decoded values of one token of a tile half of a page. -/
def decodedToken (d : ProfileDesc) (w : Option WeightsRecord) (body : List Byte) (head half t : Nat) : List Fv :=
  let codec := if half == 0 then d.kCodec.toNat else d.vCodec.toNat
  let dim := d.headDim.toNat
  let base := head * tileLen d + (if half == 0 then 0 else vOffsetOf d)
  let sm := fun i => if half == 0 && codec == 5 then smoothAt w d head i else natF 1
  decodeToken codec dim sm (getBytes body (base + t * elemBytes codec dim) (elemBytes codec dim))
    (getBytes body (base + blockSize d * elemBytes codec dim + t * scaleBytes codec dim) (scaleBytes codec dim))

/-! ## Rebuilding latent pages (R140, R141) -/

/-- A row's latent and rotary values. -/
def latentRow (d : ProfileDesc) (w : WeightsRecord) (body : List Byte) (t : Nat) : List Fv × List Fv :=
  let row := getBytes body (t * rowDims d) (rowDims d)
  let vals := fun (sc : U32) (bs : List Byte) => bs.map fun b => mulF (ofBits sc) (decodeFp fmtE4M3 b.toNat)
  (vals w.latentScale (row.take d.latentRank.toNat), vals w.ropeScale (row.drop d.latentRank.toNat))

/-- The rotation of the rotary part at an absolute position (R141). -/
def ropeOf (d : ProfileDesc) (w : WeightsRecord) (pos : Nat) (r : List Fv) : List Fv :=
  let q := d.ropeDims.toNat
  let pair : Nat → Nat × Bool := fun k =>
    if d.ropeStyle == 1 then (k % (q / 2), decide (k < q / 2)) else (k / 2, k % 2 == 0)
  let mate : Nat → Nat × Nat := fun i => if d.ropeStyle == 1 then (i, i + q / 2) else (2 * i, 2 * i + 1)
  (List.range q).map fun k =>
    let (i, first) := pair k
    let f := if bitOf d.profileFlags.toNat 0 then ofBits (w.ropeFreq.getD i 0) else thetaFreq d.ropeTheta i q
    let phi := ropeAngle pos d.ropePosScale f
    let c := cosF phi
    let s := sinF phi
    let a := r.getD (mate i).1 zeroF
    let b := r.getD (mate i).2 zeroF
    if first then subF (mulF a c) (mulF b s) else addF (mulF a s) (mulF b c)

/-- The sum of c[i] × w[i] in FP32, by 32-term blocks in increasing order (R140). -/
def dotF (xs ys : List Fv) : Fv :=
  let blocks := (chunks 32 (List.zipWith mulF xs ys)).map fun b => b.tail.foldl addF (b.headD zeroF)
  blocks.tail.foldl addF (blocks.headD zeroF)

/-- Row `j` of head `h` of an MXFP8 matrix with `outs` output dimensions: its decoded weights. -/
def weightRow (es ss : List Byte) (rank outs h j : Nat) : List Fv :=
  (List.range rank).map fun i =>
    let n := (h * outs + j) * rank + i
    let v := decodeFp fmtE4M3 (es.getD n 0).toNat
    toF32 (v.1, v.2.1, v.2.2 + Int.ofNat (ss.getD (n / 32) 0).toNat - 127)

/-- One rebuilt token of one head: its K and V values (R140). -/
def rebuiltToken (d : ProfileDesc) (w : WeightsRecord) (body : List Byte) (block head half t : Nat) : List Fv :=
  let (c, r) := latentRow d w body t
  let dim := d.headDim.toNat
  let rank := d.latentRank.toNat
  let up := dim - d.ropeDims.toNat
  if half == 0 then
    (List.range up).map (fun j => dotF c (weightRow w.uk w.ukScales rank up head j))
      ++ ropeOf d w ((block - 1) * blockSize d + t) r
  else (List.range dim).map fun j => dotF c (weightRow w.uv w.uvScales rank dim head j)

/-- The decoded values of a token of a tile half, whatever its codec. -/
def tileToken (d : ProfileDesc) (w : Option WeightsRecord) (body : List Byte) (block head half t : Nat) : List Fv :=
  if isLatent d then
    match w with
    | some r => rebuiltToken d r body block head half t
    | none => []
  else decodedToken d w body head half t

/-- A row in an output form: OUT_BF16 or OUT_FP8 (R136, R137). -/
def outRow (bf16 : Bool) (xs : List Fv) : List Byte :=
  if bf16 then xs.flatMap fun x => leBytes 2 (encodeFp fmtBF16 x) else xs.map fun x => BitVec.ofNat 8 (encodeFp fmtE4M3 x)

end Sys2Proof.Machine
end

