-- ==== Sys2Proof/Machine/PinOps.lean ====
section
/-! DEFINITION. Pin records and their references (R53 to R57, R75 to R82), profiles, and the variants that a
command accepts. -/
namespace Sys2Proof.Machine

/-! ## Pin records -/

/-- The record with an index. -/
def findRecord (s : State) (r : Nat) : Option PinRecord := s.index.records.find? fun x => x.record == r

/-- Changes a record. -/
def setRecord (r : Nat) (f : PinRecord → PinRecord) (s : State) : State :=
  { s with index := { s.index with records := updWhere (fun x => x.record == r) f s.index.records } }

/-- The node pointers of blocks 1 to N of a record: its parent's blocks, then its own (R80). -/
def reachFuel (s : State) : Nat → Nat → List Nat
  | 0, _ => []
  | fuel + 1, r => match findRecord s r with
    | none => []
    | some x => (match x.parent with
      | none => []
      | some p => (reachFuel s fuel p).take x.parentBlocks) ++ x.pins

/-- The node pointers that a record reaches, in block order. -/
def reach (s : State) (r : Nat) : List Nat := reachFuel s (s.index.records.length + 1) r

/-- Whether some node of a list is LOST: a command that needs it ends with ST_DATA_LOST (R444). [DEDUCED, log 132] -/
def lostAmong (s : State) (ptrs : List Nat) : Bool := ptrs.any fun p => ((findNode s p).map (·.lost)).getD true

/-- A storyboard, session or child takes a reference (R56, R75). -/
def takeRef (r : Nat) (s : State) : State := setRecord r (fun x => { x with refs := x.refs + 1 }) s

/-- Frees a record (R81): its index joins the free order, and one pin on each block that it pins directly is
dropped by a request to the block's core. [DEDUCED, log 40] -/
def freeRecord (x : PinRecord) (s : State) : State :=
  let s1 := { s with index := { s.index with
    records := s.index.records.filter (fun y => y.record != x.record),
    recordPool := s.index.recordPool.give x.record,
    dropsInFlight := s.index.dropsInFlight + x.pins.length } }
  x.pins.foldl (fun s p => askOwner p .be (.pinDrop p) s) s1

/-- Whether a record's job is closing: a record that a storyboard, session or child references at the close's acceptance
stays until step 4 of Table 11.1, and is counted there (R307). [DEDUCED, log 69] -/
def closingRecord (s : State) (r : Nat) : Bool := (((findRecord s r).bind fun x => findJob s x.job).map (·.closing)).getD false

/-- PIN_RECORD_FREE: frees a released record that nothing references, then its parent when that reference was
the parent's last and its job is not closing. -/
def settleRecordFuel : Nat → Nat → State → State
  | 0, _, s => s
  | fuel + 1, r, s => match findRecord s r with
    | none => s
    | some x =>
      if x.released && x.refs == 0 then
        let s1 := freeRecord x s
        match x.parent with
        | none => s1
        | some p =>
          let s2 := setRecord p (fun y => { y with refs := y.refs - 1 }) s1
          if closingRecord s2 p then s2 else settleRecordFuel fuel p s2
      else s

/-- PIN_RECORD_FREE for a record. -/
def settleRecord (r : Nat) (s : State) : State := settleRecordFuel (s.index.records.length + 1) r s

/-- A reference ends (R56, R212). -/
def dropRef (r : Nat) (s : State) : State :=
  settleRecord r (setRecord r (fun x => { x with refs := x.refs - 1 }) s)

/-- The reference of a storyboard or of a membership ends (R212, R229, R307). -/
def leaveRef (r : Nat) (s : State) : State :=
  let s1 := setRecord r (fun x => { x with refs := x.refs - 1 }) s
  if closingRecord s1 r then s1 else settleRecord r s1

/-- A command that fails gives up the reference that it took at its acceptance (R56). -/
def failRef (c : Cmd) (st : Status) (s : State) : State :=
  match c.ref with
  | none => fail c st s
  | some r => dropRef r (fail c st s)

/-- A record is released (R56). -/
def releaseRecord (r : Nat) (s : State) : State :=
  settleRecord r (setRecord r (fun x => { x with released := true }) s)

/-- A new record takes the index that has been free longest (R53); the caller has checked that one is free. -/
def newRecord (j : Job) (scope : U16) (blocks : Nat) (lastKey : BlockKey) (parent : Option Nat) (parentBlocks : Nat)
    (pins : List Nat) (lowTier : Nat) (s : State) : Option (PinRecord × State) :=
  match s.index.recordPool.take with
  | none => none
  | some (i, g, p) =>
    let r : PinRecord := { record := i, gen := g, job := j.index, jobGen := j.gen, scope := scope, blocks := blocks,
                           lastKey := lastKey, parent := parent, parentBlocks := parentBlocks, pins := pins, refs := 0,
                           released := false, lowTier := lowTier }
    some (r, { s with index := { s.index with records := s.index.records ++ [r], recordPool := p } })

/-- The runs that have not ended. -/
def liveRuns (s : State) : List LookupCtx := s.index.lookups.filter fun l => !l.isOver

/-- Bytes of the record arena (R80), and those of a record that pins `n` blocks directly. -/
def arenaBytes : Nat := 2 ^ 31
def recordBytes80 (n : Nat) : Nat := alignUp (64 + 4 * n) 64

/-- Bytes of the arena in use. -/
def arenaUsed (s : State) : Nat := sumOf (fun r => recordBytes80 r.pins.length) s.index.records

/-- The pins that commands in flight and open ingests were admitted for and have not yet taken, so that they never
overdraw a quota (R79, R189), of the jobs that `p` names. [DEDUCED, log 45] -/
def pinsPromised (s : State) (p : Nat → Bool) : Nat :=
  sumOf (fun l => match ((findCmd s l.slot).bind (·.job)).map p with
    | some true => match l.kind with
      | .lookupPin => l.maxBlocks
      | .extend _ fork => l.maxBlocks + (if fork then l.firstBlock - 1 else 0)
      | _ => 0
    | _ => 0) (liveRuns s)
    + sumOf (·.newBlocks) (s.tiers.ingests.filter fun g => g.pinOnCommit && p g.job)

/-- Pin records promised in the same way. [DEDUCED, log 45] -/
def recordsPromised (s : State) : Nat :=
  ((liveRuns s).filter fun l => match l.kind with
    | .lookupPin => true
    | .extend _ fork => fork
    | _ => false).length + (s.tiers.ingests.filter fun g => g.pinOnCommit && g.baseRecord.isNone).length

/-- Bytes of the record arena that a growth by `n` directly pinned blocks takes: of a new record, or of one that stands (R80). -/
def arenaNeed (s : State) (record : Option Nat) (n : Nat) : Nat :=
  match record.bind (findRecord s) with
  | none => recordBytes80 n
  | some r => recordBytes80 (r.pins.length + n) - recordBytes80 r.pins.length

/-- Bytes of the arena promised in the same way. [DEDUCED, log 45] -/
def arenaPromised (s : State) : Nat :=
  sumOf (fun l => match l.kind with
    | .lookupPin => recordBytes80 l.maxBlocks
    | .extend r fork => arenaNeed s (if fork then none else some r) l.maxBlocks
    | _ => 0) (liveRuns s)
    + sumOf (fun g => arenaNeed s g.baseRecord g.newBlocks) (s.tiers.ingests.filter (·.pinOnCommit))

/-- Pins a job may still take under its quota, and its tenant under PINS (R55, R78). [DEDUCED, log 45] -/
def jobPinsLeft (s : State) (j : Job) : Nat := j.pinQuota - (jobPins s j.index + pinsPromised s (· == j.index))
/-- [DEDUCED, log 45] -/
def tenantPinsLeft (s : State) (t : Nat) : Option Nat :=
  let q := (quotasOf s t).pins
  let mine := fun i => ((findJob s i).map fun j => j.tenant == t).getD false
  if q == BitVec.allOnes 32 then none else some (q.toNat - (tenantPins s t + pinsPromised s mine))

/-- The first shortage of R78 test 5 for a command that could add `n` to the job's pins and `direct` blocks to a record: a new
one when `grown` is none. RESULT0 and RESULT1. [DEDUCED, log 45] -/
def pinShortage (s : State) (j : Job) (n direct : Nat) (grown : Option Nat) : Option (U32 × U64) :=
  let mine := jobPinsLeft s j
  let least := match tenantPinsLeft s j.tenant with
    | none => mine
    | some t => min mine t
  let why :=
    if n > mine then 1
    else if ((tenantPinsLeft s j.tenant).map fun t => decide (n > t)).getD false then 2
    else if grown.isNone && decide (0 < n) && decide (s.index.recordPool.free ≤ recordsPromised s) then 3
    else if decide (0 < n) && decide (arenaBytes < arenaUsed s + arenaPromised s + arenaNeed s grown direct) then 3
    else 0
  if why == 0 then none else some (BitVec.ofNat 32 least, BitVec.ofNat 64 why)

/-- Whether a run takes pins. -/
def takesPins : RunKind → Bool
  | .lookupPin => true
  | .extend _ _ => true
  | _ => false

/-- A command that fails takes no pins (R78): each pin that its run has taken is dropped again. -/
def dropRunPins (l : LookupCtx) (s : State) : State :=
  if takesPins l.kind then
    l.probes.foldl (fun s p => match p with
      | .good ptr _ _ => askOwner ptr .be (.pinDrop ptr) { s with index := { s.index with dropsInFlight := s.index.dropsInFlight + 1 } }
      | _ => s) s
  else s

/-- Ends the run of a command without an answer. -/
def dropRun (slot : Nat) (s : State) : State :=
  let mine := fun (l : LookupCtx) => l.slot == slot && !l.isOver
  (s.index.lookups.filter mine).foldl (fun s l => dropRunPins l s)
    { s with index := { s.index with lookups := s.index.lookups.filter fun l => !mine l } }

/-! ## Profiles (R36, R44, R45) -/

/-- The profile in a slot. -/
def findProfile (s : State) (slot : Nat) : Option Profile := s.eng.profiles.find? fun p => p.slot == slot

/-- Changes a profile. -/
def setProfile (slot : Nat) (f : Profile → Profile) (s : State) : State :=
  { s with eng := { s.eng with profiles := updWhere (fun p => p.slot == slot) f s.eng.profiles } }

/-- The loaded profiles of a model that a tenant's commands may use: those not being unloaded. -/
def modelProfiles (s : State) (tenant : Nat) (model : U32) : List Profile :=
  s.eng.profiles.filter fun p => p.tenant == tenant && p.desc.modelId == model && !p.unloading

/-- The loaded profile of a variant. -/
def variantProfile (s : State) (tenant : Nat) (model : U32) (v : Nat) : Option Profile :=
  (modelProfiles s tenant model).find? fun p => p.variant == v

/-- A use of a profile begins and ends (R151); an unloading profile that nothing uses leaves its slot, and its T3
copy is dated for R256. -/
def useProfile (slot : Nat) (s : State) : State := setProfile slot (fun p => { p with users := p.users + 1 }) s
def dropProfileIfDone (slot : Nat) (s : State) : State :=
  match findProfile s slot with
  | none => s
  | some p =>
    if p.unloading && p.users == 0 && !(s.jobs.cmds.any fun c => c.holds.contains slot) then
      let n := p.weights.length
      let ws := updWhere (fun w => w.tenant == p.tenant && w.desc == p.desc) (fun w => { w with unloadedAt := some s.clk.slate })
        s.persist.weights
      let bufs := s.eng.codecBufs.filter fun x => !(x.2.any fun w => w.1 == slot)
      let held := s.eng.tileWeights.filter fun x => x.2.1 != slot
      { s with eng := { s.eng with profiles := s.eng.profiles.filter (fun x => x.slot != slot), codecBufs := bufs, tileWeights := held },
               persist := { s.persist with weights := ws },
               tiers := { s.tiers with weightsT1 := s.tiers.weightsT1 - n * recordSize p.desc / 512 } }
    else s
/-- Lets go every unloading profile that no use and no command in flight holds any more. [DEDUCED, log 130] -/
def sweepProfiles (s : State) : State := s.eng.profiles.foldl (fun s p => if p.unloading then dropProfileIfDone p.slot s else s) s

/-- A command holds profiles from its acceptance (R151). [DEDUCED, log 130] -/
def holdProfiles (slot : Nat) (ps : List Profile) (s : State) : State :=
  setCmd slot (fun c => { c with holds := (ps.map (·.slot)).eraseDups }) s

/-- A use of a profile ends (R151). [DEDUCED, log 130] -/
def leaveProfile (slot : Nat) (s : State) : State :=
  dropProfileIfDone slot (setProfile slot (fun p => { p with users := p.users - 1 }) s)

/-- Whether a profile has codec weights (R45). -/
def hasWeights (d : ProfileDesc) : Bool := d.weightsDigest != 0

/-- The codec weights record of a layer, when it has a copy in T1 (R154). -/
def layerWeights (p : Profile) (layer : Nat) : Option WeightsRecord :=
  (p.weights[layer]?).bind fun w => if w.t1 then some w.record else none

/-- Whether the weights that a unit of a layer needs are ready. -/
def weightsReady (p : Profile) (layer : Nat) : Bool := !hasWeights p.desc || (layerWeights p layer).isSome

/-- The accept mask of a VARIANT_MASK (Table 3.2, R78 test 2): `none` when it is refused. -/
def acceptMask (s : State) (j : Job) (m : Byte) : Option Nat :=
  let loaded := ((modelProfiles s j.tenant j.modelId).map (·.variant)).eraseDups
  let mask := m.toNat
  if 16 ≤ mask || loaded.isEmpty then none
  else if mask == 0 then some (sumOf (fun v => 2 ^ v) loaded)
  else if (List.range 4).all fun v => !bitOf mask v || loaded.contains v then some mask
  else none

/-! ## Nodes of a record -/

/-- The nodes of a block range of a record, in block order. -/
def rangePtrs (s : State) (r first count : Nat) : List Nat := ((reach s r).drop (first - 1)).take count

/-- The profile of the variant under which the blocks of a range are pinned (R198): the first block's, loaded, or
being unloaded and held by the command since its acceptance (R151). [DEDUCED, log 43] -/
def rangeProfile (s : State) (j : Job) (holds : List Nat) (ptrs : List Nat) : Option Profile :=
  (ptrs.head?.bind (findNode s)).bind fun n =>
    s.eng.profiles.find? fun p => p.tenant == j.tenant && p.desc.modelId == j.modelId && p.variant == n.variant
      && (!p.unloading || holds.contains p.slot)

end Sys2Proof.Machine
end

