-- ==== Sys2Proof/Machine/DeliverOps.lean ====
section
/-! DEFINITION. Storyboards (chapter "Layer-paced delivery"): the messages of a layer, their addresses and
plaintext, the work of the layers that may run, and how a storyboard settles or is cancelled. -/
namespace Sys2Proof.Machine

/-! ## Primary ring pair (R370) and link-key nonces (Table 14.4) -/

/-- The lane of a job's primary ring pair: the first PCIe lane that it bound and that is still bound. [DEDUCED, log 74] -/
def primaryLane (s : State) (j : Job) : Option Nat :=
  j.lanesEver.find? fun l => decide (0x800000 ≤ l) && s.jobs.lanes.any fun x => x.lane == l && x.job == j.index

/-- The nonce of a device-sealed message: ORIGIN 1 and the job's counter. -/
def deviceNonce (counter : Nat) : BitVec 96 := BitVec.ofNat 96 (2 ^ 95 + counter)

/-! ## Layout of a layer (R201 to R204) -/

/-- R: bytes of one row in an output form. -/
def rowSize (d : ProfileDesc) (a : DeliverParams) : Nat := (if a.outForm == 0 then 2 else 1) * d.headDim.toNat

/-- Whether a layer goes as whole latent pages. -/
def wholePages (d : ProfileDesc) (a : DeliverParams) (raw : Bool) : Bool := raw || (a.outForm == 2 && isLatent d)

/-- Tiles of one block of a layer, messages of one tile, and M. -/
def layerTiles (d : ProfileDesc) (a : DeliverParams) (raw : Bool) : Nat := if wholePages d a raw then 1 else d.kvHeads.toNat
def tileMsgs (d : ProfileDesc) (a : DeliverParams) (raw : Bool) : Nat :=
  if wholePages d a raw then 1 else if a.outForm == 2 || a.tokenStride.toNat == rowSize d a then 2 else 2 * blockSize d
def layerMsgs (d : ProfileDesc) (a : DeliverParams) (raw : Bool) : Nat :=
  a.blockCount.toNat * layerTiles d a raw * tileMsgs d a raw

/-- Block index, head, half and row of message `i` (R204). -/
def msgPlace (d : ProfileDesc) (a : DeliverParams) (raw : Bool) (i : Nat) : Nat × Nat × Nat × Nat :=
  let per := tileMsgs d a raw
  let tile := i / per
  let k := i % per
  let n := layerTiles d a raw
  if per ≤ 2 then (tile / n, tile % n, k, 0) else (tile / n, tile % n, k / blockSize d, k % blockSize d)

/-- MSG_LEN of message `i`. -/
def msgLen (d : ProfileDesc) (a : DeliverParams) (raw : Bool) (i : Nat) : Nat :=
  if wholePages d a raw then pageLen d
  else if a.outForm == 2 then
    halfBytes (if (msgPlace d a raw i).2.2.1 == 0 then d.kCodec.toNat else d.vCodec.toNat) (blockSize d) d.headDim.toNat
  else if a.tokenStride.toNat == rowSize d a then blockSize d * rowSize d a else rowSize d a

/-- The address of message `i` at layer position `p` (R201 to R203). -/
def msgAddr (d : ProfileDesc) (a : DeliverParams) (bt : List U64) (raw : Bool) (p i : Nat) : Nat :=
  let (b, h, v, t) := msgPlace d a raw i
  if raw then a.rawAddr.toNat + p * a.rawLayerStride.toNat + b * pageLen d
  else (bt.getD b 0).toNat + p * a.layerStride.toNat + v * a.vOffset.toNat + h * a.headStride.toNat + t * a.tokenStride.toNat

/-- PART of message `i` (R205). -/
def msgPart (d : ProfileDesc) (a : DeliverParams) (raw : Bool) (i : Nat) : Nat :=
  if raw then 3 else if wholePages d a raw then 2 else (msgPlace d a raw i).2.2.1

/-- The additional data of a message (R205). -/
def msgAad (d : ProfileDesc) (a : DeliverParams) (raw : Bool) (layer i : Nat) : List Byte :=
  let (b, h, _, t) := msgPlace d a raw i
  leBytes 2 a.deliveryId.toNat ++ leBytes 2 layer ++ leBytes 4 (a.firstBlock.toNat + b)
    ++ leBytes 1 (if wholePages d a raw then 0 else h) ++ leBytes 1 (msgPart d a raw i) ++ leBytes 2 t
    ++ leBytes 4 (msgLen d a raw i)

/-- The plaintext of a message: rows in the output form, a stored tile half, or a latent page (R136, R201 to
R203). -/
def msgPlain (d : ProfileDesc) (w : Option WeightsRecord) (a : DeliverParams) (raw : Bool) (body : List Byte) (i : Nat) :
    List Byte :=
  let (b, h, v, t) := msgPlace d a raw i
  if wholePages d a raw then body
  else if a.outForm == 2 then getBytes body (h * tileLen d + v * vOffsetOf d) (msgLen d a raw i)
  else
    let row := fun t => outRow (a.outForm == 0) (tileToken d w body (a.firstBlock.toNat + b) h v t)
    if tileMsgs d a raw == 2 then (List.range (blockSize d)).flatMap row else row t

/-- Bytes of one tile of a layer in stage slots. -/
def tileBytes (d : ProfileDesc) (a : DeliverParams) (raw : Bool) : Nat :=
  if wholePages d a raw then pageLen d else if a.outForm == 2 then tileLen d else decodedLen d (a.outForm == 0)

/-- Whether a tile of a layer is decoded or rebuilt before it is sealed, and whether it is rebuilt. -/
def needsDecode (d : ProfileDesc) (a : DeliverParams) (raw : Bool) : Bool := !wholePages d a raw && a.outForm != 2 && !isLatent d
def needsProject (d : ProfileDesc) (a : DeliverParams) (raw : Bool) : Bool := !wholePages d a raw && a.outForm != 2 && isLatent d

/-- U of R142: the largest power of two of tokens that one projection unit rebuilds. -/
def projectTokens (d : ProfileDesc) : Nat :=
  let cost := (2 * d.headDim.toNat - d.ropeDims.toNat) * d.latentRank.toNat
  ((List.range 8).map fun i => 2 ^ i).foldl (fun best u => if u ≤ blockSize d && u * cost ≤ 3481600 then u else best) 1

/-- Whole tokens that one decode unit gives, of at most 32 KiB of output (Table 5.7, R158). -/
def decodeTokens (d : ProfileDesc) (bf16 : Bool) : Nat := max 1 (32768 / (2 * d.headDim.toNat * (if bf16 then 2 else 1)))

/-- Units of a tile at the first engine, at the movers that carry stored bytes into stage slots, and at the crypto engines (Tables
5.7, 11.2, R142, R158, R172). -/
def firstParts (d : ProfileDesc) (a : DeliverParams) : Nat :=
  ceilDiv (blockSize d) (if isLatent d then projectTokens d else decodeTokens d (a.outForm == 0))
def stageParts (d : ProfileDesc) (a : DeliverParams) (raw : Bool) : Nat := ceilDiv (tileBytes d a raw) 65536
def cryptParts (d : ProfileDesc) (a : DeliverParams) (raw : Bool) : Nat := ceilDiv (tileBytes d a raw) 32768

/-! ## Notice words (Table 7.3) -/

/-- A notice word. -/
def noticeWord (a : DeliverParams) (layer : Nat) (empty aborted settle raw late : Bool) : U32 :=
  BitVec.ofNat 32 (a.deliveryId.toNat * 65536 + layer * 256 + flagBit empty 4 + flagBit aborted 3 + flagBit settle 2
    + flagBit raw 1 + flagBit late 0)

/-! ## Storyboard records -/

/-- The storyboard with a number. -/
def findSb (s : State) (id : Nat) : Option Storyboard := s.eng.storyboards.find? fun b => b.id == id

/-- Changes a storyboard. -/
def setSb (id : Nat) (f : Storyboard → Storyboard) (s : State) : State :=
  { s with eng := { s.eng with storyboards := updWhere (fun b => b.id == id) f s.eng.storyboards } }

/-- The live storyboard of a target with a DELIVERY_ID. -/
def sbNamed (s : State) (job target : Nat) (host : Bool) (d : U16) : Option Storyboard :=
  s.eng.storyboards.find? fun b => b.job == job && b.toHost == host && (host || b.target == target) && b.prm.deliveryId == d

/-- The work of a layer, as it stands before anything was done for it. -/
def layerWork (b : Storyboard) (l : Nat) : LayerWork :=
  (b.layers.find? fun w => w.layer == l).getD
    { layer := l, started := [], decoded := [], held := [], msgs := [], notified := false, late := false, raw := false }

/-- The messages of the form that a layer is sent in: those of a raw layer leave out what was sent decoded before it (R219). -/
def formMsgs (w : LayerWork) : List SbMsg := w.msgs.filter fun m => match m.kind with
  | .data _ => !w.raw
  | .raw _ => w.raw
  | .records => true

/-- Changes the work of a layer. -/
def setLayer (id l : Nat) (f : LayerWork → LayerWork) (s : State) : State :=
  setSb id (fun b => { b with layers := f (layerWork b l) :: b.layers.filter fun w => w.layer != l }) s

/-- The profile of a block of a storyboard. -/
def sbProfile (s : State) (b : Storyboard) (blk : Nat) : Option Profile := (b.slots[blk]?).bind (findProfile s)

/-- The descriptor that fixes a storyboard's layout: variants agree in all that R201 to R204 use but the coded
sizes (R45). [DEDUCED, log 43] -/
def sbDesc (s : State) (b : Storyboard) : Option ProfileDesc := (sbProfile s b 0).map (·.desc)

/-- The block of a tile, and the descriptor of that block's own profile: variants may differ in LATENT_RANK (R142). -/
def tileBlock (d : ProfileDesc) (a : DeliverParams) (raw : Bool) (tile : Nat) : Nat := tile / max (layerTiles d a raw) 1
def tileDesc (s : State) (b : Storyboard) (l tile : Nat) : Option ProfileDesc :=
  (sbDesc s b).bind fun d => (sbProfile s b (tileBlock d b.prm (layerWork b l).raw tile)).map (·.desc)

/-- Every unit queued or running. -/
def allWork (s : State) : List UnitWork :=
  allKinds.flatMap fun k => let e := getEngine s k; (e.lcq ++ e.beq ++ e.busy.map (·.2)).map (·.work)

/-- The storyboard and layer that a unit works for. -/
def sbOf : UnitWork → Option (Nat × Nat)
  | .decode sb l _ _ => some (sb, l)
  | .project sb l _ _ => some (sb, l)
  | .stageTile sb l _ _ => some (sb, l)
  | .crypt sb l _ _ => some (sb, l)
  | .send _ (.sbMsg sb l _ _) _ => some (sb, l)
  | .hostSend _ (.sbMsg sb l _ _) _ => some (sb, l)
  | _ => none

/-- Whether a unit transmits for a storyboard. -/
def sendsFor (id : Nat) : UnitWork → Bool
  | .send _ (.sbMsg sb _ _ _) _ => sb == id
  | .hostSend _ (.sbMsg sb _ _ _) _ => sb == id
  | _ => false

/-- Bytes of a storyboard's whole message. -/
def sbMsgBytes (s : State) (b : Storyboard) (l : Nat) (k : MsgKind) (bytes : Nat) : Nat :=
  match k with
  | .records => ((sbDesc s b).map fun d => 32 * layerMsgs d b.prm (layerWork b l).raw).getD 0
  | _ => bytes

/-- Whether a write of a storyboard is still unacknowledged or being transmitted. -/
def sbOutstanding (s : State) (id : Nat) : Bool :=
  (allWork s).any (sendsFor id)
    || s.net.qps.any fun q => q.sent.any fun m => match m.what with
      | .sbMsg sb _ _ _ => sb == id
      | _ => false

/-- The extent of a block's layer is in T1 and its weights are ready, where the output form needs them. -/
def tileReady (s : State) (b : Storyboard) (l blk : Nat) (raw : Bool) : Bool :=
  match b.ptrs[blk]?, sbProfile s b blk with
  | some ptr, some p =>
    ((findNode s ptr).map fun n => inT1 s ptr (groupOfLayer n.layers l)).getD false
      && (b.prm.outForm == 2 || raw || weightsReady p l)
  | _, _ => false

/-! ## Prefetch (R211) -/

/-- The highest layer that the movers bring into T1. -/
def horizon (b : Storyboard) : Nat :=
  min b.lastLayer ((if bitOf b.prm.dlvFlags.toNat 0 then b.current else b.enable) + b.prm.lead.toNat + 1)

/-- The movers fetch the extents of the layers up to the horizon, in layer order and then in block order; an LC storyboard's
reads of its transmittable layer are escalated (R218). -/
def prefetchSb (b : Storyboard) (s : State) : State :=
  (List.range (horizon b + 1 - b.current)).foldl (fun s i =>
    b.ptrs.foldl (fun s ptr => match findNode s ptr with
      | none => s
      | some n => bringToT1 ptr (groupOfLayer n.layers (b.current + i)) .demand (some b.slot) b.cls
          (b.cls == .lc && i == 0 && decide (b.current ≤ b.enable)) s) s) s

/-! ## Units and messages -/

/-- Sends a tile to its first engine with the stage slots it needs (R211, R322): stored bytes come by a mover (R172). -/
def startTile (id l tile : Nat) (s : State) : State :=
  match findSb s id with
  | none => s
  | some b => match tileDesc s b l tile with
    | none => s
    | some d =>
      let raw := (layerWork b l).raw
      let n := tileSlots (tileBytes d b.prm raw)
      let load := if hasWeights d then (b.slots[tileBlock d b.prm raw tile]?).map fun slot => (slot, l, tile % max (layerTiles d b.prm raw) 1)
        else none
      let s1 := setLayer id l (fun w => { w with started := w.started ++ [tile] }) s
      if needsDecode d b.prm raw then startUnit .codec { newUnit b.cls (.decode id l tile 0) n 0 with weights := load } s1
      else if needsProject d b.prm raw then startUnit .tile { newUnit b.cls (.project id l tile 0) n 0 with weights := load } s1
      else startUnit .mover (newUnit b.cls (.stageTile id l tile 0) n 0) s1

/-- The tiles of a layer that are not started and can start now, and those that cannot. -/
def tilesOf (s : State) (b : Storyboard) (d : ProfileDesc) (l : Nat) : List Nat × List Nat :=
  let w := layerWork b l
  let n := layerTiles d b.prm w.raw
  let waiting := (List.range (b.prm.blockCount.toNat * n)).filter fun t => !w.started.contains t
  (waiting.filter fun t => tileReady s b l (t / n) w.raw, waiting.filter fun t => !tileReady s b l (t / n) w.raw)

/-- Starts every tile of a layer that can start. [DEDUCED, log 129] -/
def startLayer (id l : Nat) (s : State) : State :=
  match findSb s id with
  | none => s
  | some b => match sbDesc s b with
    | none => s
    | some d => (tilesOf s b d l).1.foldl (fun s t => startTile id l t s) s

/-- Queues a message on the storyboard's target (R350, R222). -/
def queueMessage (b : Storyboard) (what : SentWhat) (len : Nat) (s : State) : State :=
  let credits := max 1 (ceilDiv (min len 65536) 4096)
  if b.toHost then
    startUnit (.host (laneRing b.target).1) (newUnit b.cls (.hostSend b.target what len) 0 credits) s
  else match findQp s b.target with
    | none => s
    | some q => startUnit (.rdma (q.lport / 4)) (newUnit b.cls (.send b.target what len) 0 credits) (needContext b.target s)

/-- Queues the sealed messages of a transmittable layer, and its seal records after the last of them (R206,
R211). [DEDUCED, log 129] -/
def queueLayer (id l : Nat) (s : State) : State :=
  match findSb s id with
  | none => s
  | some b => match sbDesc s b with
    | none => s
    | some d =>
      let w := layerWork b l
      let ready := w.msgs.filter fun m => !m.queued
      let s1 := setLayer id l (fun w => { w with msgs := w.msgs.map fun m => { m with queued := true } }) s
      let put := fun (k : MsgKind) (i : Nat) (s : State) =>
        let len := match sbProfile s b (i / (tileMsgs d b.prm w.raw * layerTiles d b.prm w.raw)) with
          | some p => msgLen p.desc b.prm w.raw i
          | none => msgLen d b.prm w.raw i
        queueMessage b (.sbMsg id l k len) len s
      let s2 := ready.foldl (fun s m => match m.kind with
        | .data i => put m.kind i s
        | .raw i => put m.kind i s
        | .records => s) s1
      let total := layerMsgs d b.prm w.raw
      let allSent := (formMsgs w).length == total && (formMsgs w).all (·.sent)
      if allSent && !(w.msgs.any fun m => m.kind == .records) then
        let rec1 : SbMsg := { kind := .records, tile := 0, counter := 0, queued := true, sent := false, sealed := none }
        queueMessage b (.sbMsg id l .records 0) (32 * total) (setLayer id l (fun w => { w with msgs := w.msgs ++ [rec1] }) s2)
      else s2

/-- Gives back the stage slots that a layer's sealed tiles hold, and forgets their unsent work: they are started
again later (R17, R328). [DEDUCED, log 42] -/
def releaseLayer (id l : Nat) (s : State) : State :=
  match findSb s id with
  | none => s
  | some b =>
    let w := layerWork b l
    let s1 := w.held.foldl (fun s h => giveSlots h.2 s) s
    setLayer id l (fun w =>
      let keep := w.msgs.filter (·.sent)
      { w with held := [], msgs := keep, decoded := [],
               started := w.started.filter fun t => (formMsgs { w with msgs := keep }).any fun m => m.tile == t }) s1

/-- Running units whose work `p` names go on, and their output is discarded. -/
def discardRunning (p : UnitWork → Bool) (s : State) : State :=
  allKinds.foldl (fun s k =>
    let e := getEngine s k
    putEngine k { e with busy := e.busy.map fun b => if p b.2.work then (b.1, { b.2 with work := .discard }) else b } s) s

/-- Drops a storyboard's queued units of one layer; those running are discarded at their end, but for a message in
transmission. -/
def dropLayerUnits (id l : Nat) (s : State) : State :=
  discardRunning (fun w => sbOf w == some (id, l) && !sendsFor id w) (dropQueued (fun w => sbOf w == some (id, l)) s)

/-- Whether a tile's block waits for a T2 or T3 read of its extent, or for the codec weights of the layer (R217). -/
def awaitsRead (s : State) (b : Storyboard) (l blk : Nat) (raw : Bool) : Bool :=
  match b.ptrs[blk]?, sbProfile s b blk with
  | some ptr, some p =>
    ((findNode s ptr).map fun n =>
      (!inT1 s ptr (groupOfLayer n.layers l) && s.tiers.moves.any fun m => m.ptr == ptr && m.group == groupOfLayer n.layers l && m.dst == .t1)
        || (b.prm.outForm != 2 && !raw && !weightsReady p l)).getD false
  | _, _ => false

/-- R217: a transmittable layer that waits for nothing but a lower tier or its codec weights is late, which one that waits for pool
space is not; the storyboard parks and gives up the slots of the layer ahead (R17). [DEDUCED, log 42] -/
def noteWait (id : Nat) (s : State) : State :=
  match findSb s id with
  | none => s
  | some b => match sbDesc s b with
    | none => s
    | some d =>
      let w := layerWork b b.current
      let started := w.started.length * tileMsgs d b.prm w.raw
      let waiting := (tilesOf s b d b.current).2
      if b.current ≤ b.enable && !waiting.isEmpty && ((formMsgs w).filter (·.sent)).length == started then
        let late := waiting.any fun t => awaitsRead s b b.current (tileBlock d b.prm w.raw t) w.raw
        let s1 := if late then setSb id (fun b => { b with lateSeen := true }) (setLayer id b.current (fun w => { w with late := true }) s)
          else s
        releaseLayer id (b.current + 1) (dropLayerUnits id (b.current + 1) s1)
      else s

/-- Whether the storyboard waits at its transmittable layer for something not in T1. [DEDUCED, log 42] -/
def sbParked (s : State) (b : Storyboard) (d : ProfileDesc) : Bool :=
  let w := layerWork b b.current
  decide (b.current ≤ b.enable) && !(tilesOf s b d b.current).2.isEmpty
    && ((formMsgs w).filter (·.sent)).length == w.started.length * tileMsgs d b.prm w.raw

/-! ## Ends (R208, R212, R213) -/

/-- Puts a write of a storyboard on its target. -/
def emitWrite (b : Storyboard) (rkey : U32) (addr len : Nat) (imm : Option U32) (data : WriteData) (s : State) : State :=
  if b.toHost then emit (.hostWrite (laneRing b.target).1 (laneRing b.target).2 addr len data) s
  else emit (.rdmaWrite b.target rkey addr len imm data) s

/-- A tile keeps `n` of its stage slots; the others return, those of the LC reserve first (R15, R326). [DEDUCED, log 129] -/
def keepSlots (id l tile n : Nat) (s : State) : State :=
  match ((findSb s id).map fun b => layerWork b l).bind fun w => w.held.find? fun h => h.1 == tile with
  | none => s
  | some h =>
    let back := h.2.lc + h.2.shared - n
    let t : Taken := { lc := min back h.2.lc, shared := back - h.2.lc }
    let rest : Taken := { lc := h.2.lc - t.lc, shared := h.2.shared - t.shared }
    let others := fun (w : LayerWork) => w.held.filter fun x => x.1 != tile
    giveSlots t (setLayer id l (fun w => { w with held := if n == 0 then others w else others w ++ [(tile, rest)] }) s)

/-- A message of a storyboard ends after `n` of its bytes (R213): they leave as a write of their own, and settle as one. -/
def cutMessage (what : SentWhat) (n : Nat) (s : State) : State :=
  match what with
  | .sbMsg id l k _ => match (findSb s id).bind fun b => (sbDesc s b).map fun d => (b, d) with
    | none => s
    | some (b, d) =>
      let w := layerWork b l
      let data := match (w.msgs.find? fun m => m.kind == k).bind (·.sealed) with
        | some m => WriteData.part m
        | none => .none
      let s1 := match k with
        | .data i => emitWrite b b.prm.dataRkey (msgAddr d b.prm b.blockTable false (l - b.firstLayer) i) n none data s
        | .raw i => emitWrite b b.prm.rawRkey (msgAddr d b.prm b.blockTable true (l - b.firstLayer) i) n none data s
        | .records => emitWrite b b.prm.sealRkey (b.prm.sealAddr.toNat + (l - b.firstLayer) * b.prm.sealLayerStride.toNat) n none .none s
      let payload := match k with
        | .records => 0
        | _ => n
      let tile := ((w.msgs.find? fun m => m.kind == k).map (·.tile)).getD 0
      let s2 := if k == .records then s1 else keepSlots id l tile 0 s1
      if b.toHost then setSb id (fun b => { b with ackedBytes := b.ackedBytes + payload }) s2
      else noteSent b.target n (.sbMsg id l k payload) (setQp b.target (fun q => { q with sending := none }) s2)
  | _ => s

/-- A storyboard leaves the table: its reference, its profiles, its slots, its completion entries and its cue
table entry go. [DEDUCED, log 71] -/
def endSb (b : Storyboard) (s : State) : State :=
  let s1 := b.layers.foldl (fun s w => w.held.foldl (fun s h => giveSlots h.2 s) s) s
  let s2 := { s1 with eng := { s1.eng with storyboards := s1.eng.storyboards.filter fun x => x.id != b.id } }
  let s3 := b.slots.eraseDups.foldl (fun s p => leaveProfile p s) s2
  let s4 :=
    if b.toHost then
      setRing (laneRing b.target).1 (laneRing b.target).2 (fun r => { r with reserved := r.reserved - b.reserved }) s3
    else setQp b.target (fun q => { q with cues := q.cues.filter fun c => c.2 != b.id }) s3
  leaveRef b.record s4

/-- The replies of the DELIVER_CANCELs that named a storyboard (R220). [DEDUCED, log 71] -/
def replyCancels (b : Storyboard) (s : State) : State :=
  b.cancels.foldl (fun s slot => match findCmd s slot with
    | none => s
    | some c => done c 0 0 s) s

/-- The DELIVER reply (Table 7.7). -/
def replySb (b : Storyboard) (st : Status) (degraded : Bool) (s : State) : State :=
  match findCmd s b.slot with
  | none => s
  | some c =>
    complete c st { noFlags with late := b.lateSeen, raw := b.rawSeen, degraded := degraded }
      (BitVec.ofNat 32 b.notices) (BitVec.ofNat 64 b.ackedBytes) s

/-- Sends a settle or abort notice (R208). [DEDUCED, log 16] -/
def sendNotice (b : Storyboard) (w : U32) (s : State) : State :=
  if b.toHost then
    setSb b.id (fun b => { b with reserved := b.reserved - 1 })
      (writeCompletion (laneRing b.target).1 (laneRing b.target).2 (.notice w) s)
  else if qpCarries s b.target then sendFormed b.cls b.target (.rdmaWrite b.target b.prm.sealRkey b.prm.sealAddr.toNat 0 (some w) .none) s
  else s

/-- STORYBOARD_SETTLE and STORYBOARD_CANCEL: once no write is outstanding, the notice and the reply are sent. -/
def settleSb (id : Nat) (s : State) : State :=
  match findSb s id with
  | none => s
  | some b =>
    if b.state != .draining || !b.opened || sbOutstanding s id then s
    else
      let w := match b.abort with
        | none => noticeWord b.prm b.lastLayer false false true b.rawSeen b.lateSeen
        | some _ => noticeWord b.prm (b.lastNotice.getD 0) b.lastNotice.isNone true false b.rawSeen b.lateSeen
      let s1 := tick (sendNotice b w s)
      match findSb s1 id with
      | none => s1
      | some b1 => replyCancels b (replySb b (b.abort.getD .ok) false (endSb b1 s1))

/-- The messages of a storyboard that are part sent and wait for their next unit, with the bytes already sent. -/
def partSent (s : State) (b : Storyboard) : List (SentWhat × Nat) :=
  let waiting := (s.eng.rdma ++ s.eng.hostEng).flatMap fun e => (e.lcq ++ e.beq).map (·.work)
  waiting.filterMap fun w =>
    let part := fun (what : SentWhat) (left : Nat) => match what with
      | .sbMsg sb l k bytes => if sb == b.id && left < sbMsgBytes s b l k bytes then some (what, sbMsgBytes s b l k bytes - left) else none
      | _ => none
    match w with
    | .send _ what left => part what left
    | .hostSend _ what left => part what left
    | _ => none

/-- The tiles of a layer of which a unit in progress transmits a message. -/
def tilesInUnit (s : State) (b : Storyboard) (w : LayerWork) : List Nat :=
  let running := (s.eng.rdma ++ s.eng.hostEng).flatMap fun e => e.busy.map (·.2.work)
  (w.msgs.filter fun m => running.any fun u => match u with
    | .send _ (.sbMsg sb l k _) _ => sb == b.id && l == w.layer && k == m.kind
    | .hostSend _ (.sbMsg sb l k _) _ => sb == b.id && l == w.layer && k == m.kind
    | _ => false).map (·.tile)

/-- Sets the abort mark (Table 7.6): transmission stops at the unit in progress (R213), and a message part sent ends where it is. -/
def abortSb (id : Nat) (st : Status) (s : State) : State :=
  match findSb s id with
  | none => s
  | some b =>
    let s1 := dropQueued (fun w => (sbOf w).map (·.1) == some id) ((partSent s b).foldl (fun s x => cutMessage x.1 x.2 s) s)
    let s2 := b.layers.foldl (fun s w => (w.held.filter fun h => !(tilesInUnit s b w).contains h.1).foldl (fun s h => giveSlots h.2 s) s) s1
    settleSb id (setSb id (fun x => { x with
      abort := some (x.abort.getD st), state := .draining,
      layers := x.layers.map fun w => { w with held := w.held.filter fun h => (tilesInUnit s b w).contains h.1, started := [] } }) s2)

/-- What ends a storyboard at its next move (Table 7.6): a lost profile or a lost page, once it is priming or running, or built
with no work of its own under way. [DEDUCED, log 165] -/
def sbLoss (s : State) (b : Storyboard) : Option Status :=
  let busy := ((allWork s).any fun w => (sbOf w).map (·.1) == some b.id) || s.tiers.moves.any fun m => m.slot == some b.slot
  if b.state == .draining || (b.state == .built && busy) then none
  else if b.slots.any fun p => ((findProfile s p).map (·.lost)).getD true then some .modelLost
  else if lostAmong s b.ptrs then some .dataLost
  else none

/-- Moves a storyboard as far as its limits allow (R211): prefetch up to H, units for layers up to
min(E, C + 1), messages of the transmittable layer. [DEDUCED, log 129] -/
def advanceSb (id : Nat) (s : State) : State :=
  match findSb s id with
  | none => s
  | some b =>
    if b.state == .draining || !b.opened then s
    else if let some st := sbLoss s b then abortSb id st s
    else match sbDesc s b with
      | none => s
      | some d =>
        let s1 := prefetchSb b s
        let s2 := if b.current ≤ b.enable then startLayer id b.current s1 else s1
        let b2 := (findSb s2 id).getD b
        let s3 := if b.current + 1 ≤ min b.enable b.lastLayer && !sbParked s2 b2 d then startLayer id (b.current + 1) s2 else s2
        let s4 := if b.current ≤ b.enable && (List.range (b.current - b.firstLayer)).all (fun i =>
            (layerWork b (b.firstLayer + i)).notified) then queueLayer id b.current s3 else s3
        let s5 := noteWait id s4
        let s6 := if b.toHost then s5 else needContext b.target s5
        if b.begun then beginSb (fun b => b.id == id) s6 else s6

/-- A queue pair or ring pair that can carry nothing ends a storyboard without a notice (Table 7.6); one whose command has
not run yet ends when it does. -/
def failSb (id : Nat) (s : State) : State :=
  match findSb s id with
  | none => s
  | some b =>
    if !b.opened then setSb id (fun b => { b with abort := some (b.abort.getD .cancelled), state := .draining }) s
    else
      let s1 := dropQueued (fun w => (sbOf w).map (·.1) == some id) s
      replyCancels b (replySb b .cancelled true (endSb b s1))

/-- The storyboard that a command already has. -/
def ownSb (s : State) (c : Cmd) : Option Storyboard := s.eng.storyboards.find? fun b => b.slot == c.slot

/-- A DELIVER fails: a storyboard that stands already goes without a notice, and the reference ends. -/
def failDeliver (c : Cmd) (st : Status) (s : State) : State :=
  match ownSb s c with
  | none => failRef c st s
  | some b => replyCancels b (fail c st (endSb b s))

/-! ## What a finished unit or message does -/

/-- A part of a tile has passed the first engine: its next part, or the crypto engines (R205). -/
def sbTileUnitEnd (id l tile part : Nat) (u : EUnit) (s : State) : State :=
  match findSb s id with
  | none => giveSlots u.held s
  | some b => match tileDesc s b l tile with
    | none => giveSlots u.held s
    | some d =>
      let w := layerWork b l
      let stored := wholePages d b.prm w.raw || b.prm.outForm == 2
      let parts := if stored then stageParts d b.prm w.raw else firstParts d b.prm
      if b.abort.isSome || !w.started.contains tile then giveSlots u.held s
      else if part + 1 < parts then
        let next : UnitWork := if stored then .stageTile id l tile (part + 1) else if isLatent d then .project id l tile (part + 1)
          else .decode id l tile (part + 1)
        startUnit (if stored then .mover else if isLatent d then .tile else .codec) 
          { newUnit b.cls next 0 0 with held := u.held, weights := u.weights } s
      else
        startUnit .crypto { newUnit b.cls (.crypt id l tile 0) 0 0 with held := u.held }
          (setLayer id l (fun w => { w with decoded := w.decoded ++ [tile] }) s)

/-- The link key of a job. -/
def linkKey (s : State) (job : Nat) : BitVec 256 := ((findJob s job).map (·.keys.link)).getD 0

/-- The sealed form of a data message in the output form or raw, its address and its length. -/
def sealedMsg (s : State) (b : Storyboard) (l : Nat) (raw : Bool) (i counter : Nat) : Option (SealedMsg × Nat × Nat) :=
  match sbDesc s b with
  | none => none
  | some d =>
    let blk := (msgPlace d b.prm raw i).1
    match sbProfile s b blk, (b.ptrs[blk]?).bind (findNode s) with
    | some p, some n =>
      let body := ((n.pages.find? fun g => g.layer == l).map (·.body)).getD []
      some ({ key := linkKey s b.job, nonce := deviceNonce counter, aad := msgAad p.desc b.prm raw l i,
              plain := msgPlain p.desc ((p.weights[l]?).map (·.record)) b.prm raw body i },
            msgAddr p.desc b.prm b.blockTable raw (l - b.firstLayer) i, msgLen p.desc b.prm raw i)
    | _, _ => none

/-- A part of a tile is sealed; after the last part its messages have their nonces (R205, R400). -/
def sbCryptUnitEnd (id l tile part : Nat) (u : EUnit) (s : State) : State :=
  match findSb s id with
  | none => giveSlots u.held s
  | some b => match tileDesc s b l tile with
    | none => giveSlots u.held s
    | some d =>
      let w := layerWork b l
      if b.abort.isSome || !w.started.contains tile then giveSlots u.held s
      else if part + 1 < cryptParts d b.prm w.raw then
        startUnit .crypto { newUnit b.cls (.crypt id l tile (part + 1)) 0 0 with held := u.held } s
      else
        let per := tileMsgs d b.prm w.raw
        let c0 := ((findJob s b.job).map (·.linkCounter)).getD 0
        let ms : List SbMsg := (List.range per).map fun k =>
          { kind := if w.raw then .raw (tile * per + k) else .data (tile * per + k), tile := tile, counter := c0 + 1 + k,
            sealed := (sealedMsg s b l w.raw (tile * per + k) (c0 + 1 + k)).map (·.1), queued := false, sent := false }
        advanceSb id (setJob b.job (fun j => { j with linkCounter := j.linkCounter + per })
          (setLayer id l (fun w => { w with msgs := w.msgs ++ ms, held := w.held ++ [(tile, u.held)] }) s))

/-- Bytes of its tile before message `i`. -/
def msgOffset (d : ProfileDesc) (a : DeliverParams) (raw : Bool) (i : Nat) : Nat :=
  i % tileMsgs d a raw * msgLen d a raw (i - i % tileMsgs d a raw)

/-- The stage slots of a tile that its messages still to be transmitted lie in (R15, R207). -/
def unsentSlots (d : ProfileDesc) (a : DeliverParams) (raw : Bool) (ms : List SbMsg) (tile : Nat) : Nat :=
  let left := ms.filterMap fun m => match m.kind with
    | .data i => if m.tile == tile && !m.sent then some i else none
    | .raw i => if m.tile == tile && !m.sent then some i else none
    | .records => none
  ((List.range (tileSlots (tileBytes d a raw))).filter fun k => left.any fun i =>
    decide (msgOffset d a raw i < (k + 1) * 16384) && decide (k * 16384 < msgOffset d a raw i + msgLen d a raw i)).length

/-- A data message has been transmitted: the stage slots that only it filled return (R207). A decoded message of a layer that has
turned raw meanwhile stays transmitted (R219). [DEDUCED, log 129] -/
def dataSent (id l : Nat) (k : MsgKind) (raw : Bool) (i len : Nat) (s : State) : State :=
  match findSb s id with
  | none => s
  | some b => match (sbDesc s b).bind fun d => tileDesc s b l (i / tileMsgs d b.prm raw) with
    | none => s
    | some d =>
      let w := layerWork b l
      let tile := i / tileMsgs d b.prm raw
      let s1 := match (w.msgs.find? fun m => m.kind == k).bind (·.sealed) with
        | some m => emitWrite b (if raw then b.prm.rawRkey else b.prm.dataRkey)
            (msgAddr d b.prm b.blockTable raw (l - b.firstLayer) i) (msgLen d b.prm raw i) none (.sealed m) s
        | none => s
      let s2 := setLayer id l (fun w => { w with msgs := updWhere (fun m => m.kind == k) (fun m => { m with sent := true }) w.msgs }) s1
      let s3 := setSb id (fun b => { b with state := if b.state == .priming || b.state == .built then .running else b.state,
                                            ackedBytes := b.ackedBytes + (if b.toHost then len else 0) }) s2
      let w3 := ((findSb s3 id).map fun b => layerWork b l).getD w
      let s4 := if raw == w.raw then keepSlots id l tile (if b.abort.isSome then 0 else unsentSlots d b.prm raw w3.msgs tile) s3 else s3
      let dataDone := ((formMsgs w3).filter fun m => m.kind != .records && m.sent).length == layerMsgs d b.prm w.raw
      if dataDone && l == b.current && b.abort.isNone then
        -- the seal records of this layer go before any message of the next (R22, R206)
        setSb id (fun b => { b with current := b.current + 1 }) (queueLayer id l s4)
      else s4

/-- The seal records of a layer's messages in index order (R206). -/
def layerRecords (w : LayerWork) : List Byte :=
  let ms := (formMsgs w).filterMap fun m => match m.kind, m.sealed with
    | .data i, some x => some (i, x)
    | .raw i, some x => some (i, x)
    | _, _ => none
  (sortBy (fun x y => decide (x.1 < y.1)) ms).flatMap fun m => sealRecord m.2

/-- LAYER_NOTICE: the seal records of a layer, with its notice, have been transmitted (R206). -/
def recordsSent (id l : Nat) (s : State) : State :=
  match findSb s id with
  | none => s
  | some b => match sbDesc s b with
    | none => s
    | some d =>
      let w := layerWork b l
      let word := noticeWord b.prm l false false false w.raw w.late
      let addr := b.prm.sealAddr.toNat + (l - b.firstLayer) * b.prm.sealLayerStride.toNat
      let s1 := emitWrite b b.prm.sealRkey addr (32 * layerMsgs d b.prm w.raw) (if b.toHost then none else some word)
        (.records (layerRecords w)) s
      let s2 := if b.toHost then setSb id (fun b => { b with reserved := b.reserved - 1 })
          (writeCompletion (laneRing b.target).1 (laneRing b.target).2 (.notice word) s1) else s1
      let s3 := countJob b.job (fun k => { k with lateLayers := k.lateLayers + (if w.late then 1 else 0),
                                                  rawLayers := k.rawLayers + (if w.raw then 1 else 0) }) s2
      let s4 := setSb id (fun b => { b with notices := b.notices + 1, lastNotice := some l,
                                            state := if l == b.lastLayer then .draining else b.state })
        (setLayer id l (fun w => { w with notified := true }) s3)
      settleSb id (advanceSb id s4)

/-- What a storyboard's whole message does once it is transmitted. -/
def sbMsgSent (id l : Nat) (k : MsgKind) (len : Nat) (s : State) : State :=
  match k with
  | .data i => settleSb id (advanceSb id (dataSent id l k false i len s))
  | .raw i => settleSb id (advanceSb id (dataSent id l k true i len s))
  | .records => recordsSent id l s

/-- A cue (R209, R210), found through the cue table. -/
def applyCue (imm : U32) (find : U16 → Option Storyboard) (job : Option Nat) (s : State) : State :=
  let discard := match job with
    | none => s
    | some j => countJob j (fun k => { k with cueDiscards := k.cueDiscards + 1 }) s
  let layer := bitsOf imm.toNat 8 8
  match find (BitVec.ofNat 16 (bitsOf imm.toNat 16 16)) with
  | none => discard
  | some b =>
    if bitsOf imm.toNat 1 7 != 0 || layer < b.firstLayer || b.lastLayer < layer then discard
    else if b.state == .draining then s
    else
      let e := if bitOf imm.toNat 0 then b.lastLayer else max b.enable (min b.lastLayer (layer + b.prm.lead.toNat + 1))
      advanceSb b.id (setSb b.id (fun b => { b with enable := e }) s)

/-- Moves every storyboard that reads a node as far as it now can. -/
def advanceReaders (ptr : Nat) (s : State) : State :=
  (s.eng.storyboards.filter fun b => b.ptrs.contains ptr).foldl (fun s b => advanceSb b.id s) s

/-- Moves every storyboard as far as it now can. -/
def advanceAll (s : State) : State := s.eng.storyboards.foldl (fun s b => advanceSb b.id s) s

end Sys2Proof.Machine
end

