-- ==== Sys2Proof/Machine/AttendMath.lean ====
section
/-! DEFINITION. The arithmetic of shared-prefix attention (R223, R224, R236 to R239): operands, the online softmax
of one span, the merge of partials, and the final row. -/
namespace Sys2Proof.Machine

/-- −∞ and +∞ as FP32 bits. -/
def negInf : U32 := 0xFF800000#32
def posInf : U32 := 0x7F800000#32

/-- log2 e and ln 2 in FP32. -/
def log2e : Fv := ofBits 0x3FB8AA3B#32
def ln2 : Fv := ofBits 0x3F317218#32

/-- The sum of a list in 32-term groups of increasing index, then of the group sums (R238). -/
def sumGroups (xs : List Fv) : Fv :=
  let gs := (chunks 32 xs).map fun g => g.tail.foldl addF (g.headD zeroF)
  gs.tail.foldl addF (gs.headD zeroF)

/-- The exponent of the row scale s (R237). -/
def rowScale (xs : List Fv) : Int :=
  let a := amaxF xs
  if a.2.1 == 0 then 0
  else
    let l := leadExp a
    min 126 (if 4 * a.2.1 ≤ 7 * 2 ^ a.2.1.log2 then 8 - l else 7 - l)

/-- Row quantisation (R237): the E4M3 values of x × s. -/
def rowQuantise (xs : List Fv) : List Fv × Int :=
  let k := rowScale xs
  (xs.map fun x => decodeFp fmtE4M3 (encodeFp fmtE4M3 (x.1, x.2.1, x.2.2 + k)), k)

/-- x rounded to BF16. -/
def toBf16 (x : Fv) : Fv := decodeFp fmtBF16 (encodeFp fmtBF16 x)

/-- One token of a tile half as the tile uses it (Table 8.6): elements, and the scale of each 32-term group. -/
def operandToken (fp8 : Bool) (d : ProfileDesc) (w : Option WeightsRecord) (body : List Byte) (block head half t : Nat) :
    List Fv × List Fv :=
  let codec := if half == 0 then d.kCodec.toNat else d.vCodec.toNat
  let dim := d.headDim.toNat
  let ng := dim / 32
  let base := head * tileLen d + (if half == 0 then 0 else vOffsetOf d)
  let es := getBytes body (base + t * elemBytes codec dim) (elemBytes codec dim)
  let ss := getBytes body (base + blockSize d * elemBytes codec dim + t * scaleBytes codec dim) (scaleBytes codec dim)
  let mxScales := (List.range ng).map fun g => twoPow (Int.ofNat (ss.getD g 0).toNat - 127)
  let staged := fun (xs : List Fv) =>
    if fp8 then
      let (q, k) := rowQuantise xs
      (q, List.replicate ng (twoPow (-k)))
    else (xs, List.replicate ng (natF 1))
  match codec with
  | 0 => staged ((List.range dim).map fun i => decodeFp fmtBF16 (leNat (getBytes es (2 * i) 2)))
  | 1 => ((List.range dim).map fun i => decodeFp fmtE4M3 (es.getD i 0).toNat,
          List.replicate ng (ofBits (BitVec.ofNat 32 (leNat (getBytes ss 0 4)))))
  | 2 => ((List.range dim).map fun i => decodeFp fmtE4M3 (es.getD i 0).toNat, mxScales)
  | 3 => ((List.range dim).map fun i => decodeFp fmtE2M3 (sixAt es i), mxScales)
  | 4 => ((List.range dim).map fun i => decodeFp fmtE2M1 (nibbleAt es i), mxScales)
  | _ => staged ((tileToken d w body block head half t).map toBf16)

/-- FP32 operations that note an overflow (R233): the value, and whether this or an earlier one overflowed. -/
abbrev Marked := Fv × Bool
def addMarked (x y : Marked) : Marked := (addF x.1 y.1, x.2 || y.2 || overflowsF32 (addExact x.1 y.1))
def mulMarked (x : Marked) (y : Fv) : Marked := (mulF x.1 y, x.2 || overflowsF32 (mulExact x.1 y))

/-- The dot product of a query row and a key: 32-term partial sums with their scales, the query's scale divided
out (R236 to R238), and whether a sum overflowed on the way. [DEDUCED, log 138] -/
def dotScaled (q : List Fv × Int) (k : List Fv × List Fv) : Marked :=
  let groups := chunks 32 (List.zipWith (fun x y => mulMarked (x, false) y) q.1 k.1)
  let parts := (List.range groups.length).map fun g =>
    let xs := groups.getD g []
    mulMarked (mulMarked (xs.tail.foldl addMarked (xs.headD (zeroF, false))) (k.2.getD g (natF 1))) (twoPow (-q.2))
  parts.tail.foldl addMarked (parts.headD (zeroF, false))

/-- The options of a session that the arithmetic uses. -/
structure AttendOptions where
  scale : Fv
  softcap : Fv
  qkFp8 : Bool
  pvFp8 : Bool
deriving DecidableEq, Repr

/-- The running state of one row in a span: m (none for −∞), l, acc, and whether a score overflowed. -/
abbrev RowState := Option Fv × Fv × List Fv × Bool

/-- One block of R238's loop, over the block's key and value operands. [DEDUCED, log 138] -/
def blockStep (o : AttendOptions) (q : List Fv × Int) (ks vs : List (List Fv × List Fv)) (st : RowState) : RowState :=
  let (m, l, acc, ovf) := st
  let zs := ks.map fun k => mulMarked (dotScaled q k) o.scale
  let tooBig := zs.any (·.2)
  let ys := zs.map fun z0 =>
    let z := z0.1
    mulF log2e (if o.softcap.2.1 == 0 then z else mulF o.softcap (tanhF (divF z o.softcap)))
  let top := ys.tail.foldl maxF (ys.headD zeroF)
  let mNew := match m with
    | none => top
    | some a => maxF a top
  let alpha := match m with
    | none => zeroF
    | some a => exp2F (subF a mNew)
  let ps := ys.map fun y => exp2F (subF y mNew)
  let ph :=
    if o.pvFp8 then
      let (x, k) := rowQuantise ps
      x.map fun v => (v.1, v.2.1, v.2.2 - k)
    else ps.map toBf16
  let value := fun (v : List Fv × List Fv) (j : Nat) => mulF (v.1.getD j zeroF) (v.2.getD (j / 32) (natF 1))
  let acc2 := (List.range acc.length).map fun j =>
    addF (mulF (acc.getD j zeroF) alpha) (sumGroups (List.zipWith (fun p v => mulF p (value v j)) ph vs))
  (some mNew, addF (mulF l alpha) (sumGroups ph), acc2, ovf || tooBig)

/-- A row's state as stored. -/
def storeRow (row span : Nat) (st : RowState) : Partial :=
  { row := row, span := span, m := match st.1 with
      | none => negInf
      | some m => bitsF m,
    l := bitsF st.2.1, acc := st.2.2.1.map bitsF, overflow := st.2.2.2 }

/-- The merge of two partials (R239). -/
def mergePair (a b : Partial) : Partial :=
  if a.m == negInf && b.m == negInf then { a with overflow := a.overflow || b.overflow }
  else
    let m := if a.m == negInf then ofBits b.m else if b.m == negInf then ofBits a.m else maxF (ofBits a.m) (ofBits b.m)
    let wt := fun (x : U32) => if x == negInf then zeroF else exp2F (subF (ofBits x) m)
    let wa := wt a.m
    let wb := wt b.m
    { row := a.row, span := a.span, m := bitsF m,
      l := bitsF (addF (mulF (ofBits a.l) wa) (mulF (ofBits b.l) wb)),
      acc := List.zipWith (fun x y => bitsF (addF (mulF (ofBits x) wa) (mulF (ofBits y) wb))) a.acc b.acc,
      overflow := a.overflow || b.overflow }

/-- One level of the merge tree; an unpaired last partial passes up unchanged. [DEDUCED, log 12] -/
def mergeLevel : List Partial → List Partial
  | a :: b :: rest => mergePair a b :: mergeLevel rest
  | l => l

/-- The fixed merge tree over the partials of a row in span order (R239). [DEDUCED, log 12] -/
def mergeTree : Nat → List Partial → List Partial
  | 0, l => l
  | fuel + 1, l => if l.length ≤ 1 then l else mergeTree fuel (mergeLevel l)

/-- A row's O bytes and LSE bits (R233, R239). [DEDUCED, log 138] -/
def finishRow (fp32 : Bool) (dim : Nat) (p : Partial) : List Byte × U32 :=
  let enc := fun (x : Fv) => if fp32 then leBytes 4 (bitsF x).toNat else leBytes 2 (encodeFp fmtBF16 x)
  if p.overflow then ((List.replicate dim zeroF).flatMap enc, posInf)
  else if (ofBits p.l).2.1 == 0 then ((List.replicate dim zeroF).flatMap enc, negInf)
  else (p.acc.flatMap (fun a => enc (divF (ofBits a) (ofBits p.l))),
        bitsF (mulF (addF (ofBits p.m) (log2F (ofBits p.l))) ln2))

end Sys2Proof.Machine
end

