-- ==== Sys2Proof/Machine/AttendOps.lean ====
section
/-! DEFINITION. Memberships, batches and the units of attention (R225 to R250): which spans may run, what a unit's
end leads to, and how a member's result is sealed, sent and replied to. -/
namespace Sys2Proof.Machine

/-! ## Memberships -/

/-- The membership with an index. -/
def findMember (s : State) (i : Nat) : Option Membership := s.eng.memberships.find? fun m => m.index == i

/-- Changes a membership. -/
def setMember (i : Nat) (f : Membership → Membership) (s : State) : State :=
  { s with eng := { s.eng with memberships := updWhere (fun m => m.index == i) f s.eng.memberships } }

/-- A session handle (Table 8.2). -/
def sessionHandle (m : Membership) : U32 := BitVec.ofNat 32 (m.gen * 8192 + m.index)

/-- What a session handle in a job's command names (R229). -/
def resolveSession (s : State) (j : Job) (h : U32) : Except Status Membership :=
  match findMember s (bitsOf h.toNat 0 13) with
  | none => .error .badParam
  | some m =>
    if m.job != j.index then .error .denied
    else if m.gen != bitsOf h.toNat 13 19 then .error .badParam
    else .ok m

/-- AO_FLAGS. -/
def aoFlag (a : AttendOpenParams) (i : Nat) : Bool := bitOf a.aoFlags.toNat i
def coalesces (a : AttendOpenParams) : Bool := aoFlag a 4
def attendHost (a : AttendOpenParams) : Bool := aoFlag a 5

/-- The profile of a block of a membership's range. [DEDUCED, log 43] -/
def memberProfile (s : State) (m : Membership) (blk : Nat) : Option Profile := (m.slots[blk]?).bind (findProfile s)
def memberDesc (s : State) (m : Membership) : Option ProfileDesc := (memberProfile s m 0).map (·.desc)

/-- Hq. -/
def queryHeads (d : ProfileDesc) : Nat := d.kvHeads.toNat * d.qheadsPerKv.toNat

/-- Bytes of a query slot, in 32 KiB ingest slots (R227). -/
def querySlotUnits (d : ProfileDesc) (maxEntries : Nat) : Nat :=
  ceilDiv (0x120 + 2 * maxEntries * queryHeads d * d.headDim.toNat) 32768

/-- Prefetch for an open membership (R248). -/
def prefetchMember (i : Nat) (s : State) : State :=
  match findMember s i with
  | none => s
  | some m => (nextLayers m).foldl (fun s l =>
      m.ptrs.foldl (fun s ptr => match findNode s ptr with
        | none => s
        | some n => bringToT1 ptr (groupOfLayer n.layers l) .demand none m.cls false s) s) s

/-- A membership leaves the table (R229): its query slots, its reference and its profiles go. -/
def dropMember (m : Membership) (s : State) : State :=
  let mine := s.tiers.landing.filter fun x => match x.holder with
    | .query i _ => i == m.index
    | _ => false
  let pool := mine.foldl (fun p x => p.give { lc := if x.fromLc then 1 else 0, shared := if x.fromLc then 0 else 1 }) s.tiers.landingPool
  let left := s.tiers.landing.filter fun x => !mine.contains x
  let s1 := { s with tiers := { s.tiers with landing := left, landingPool := pool },
                     eng := { s.eng with memberships := s.eng.memberships.filter (fun x => x.index != m.index),
                                         memberPool := s.eng.memberPool.give m.index } }
  leaveRef m.record (m.slots.eraseDups.foldl (fun s p => leaveProfile p s) s1)

/-! ## Batches -/

/-- Changes a batch. -/
def setBatch (b : Nat) (f : Batch → Batch) (s : State) : State :=
  { s with eng := { s.eng with batches := updWhere (fun x => x.id == b) f s.eng.batches } }

/-- The membership that stands for a batch's range: that of its first member still to be answered (R228). -/
def batchMember (s : State) (b : Batch) : Option Membership :=
  ((b.members.filter fun m => !m.gone && !m.acked).head?).bind fun m => findMember s m.membership

/-- A batch is LC when any ATTEND in it is LC (R246). -/
def batchCls (s : State) (b : Batch) : Cls :=
  if b.members.any fun m => !m.gone && ((findCmd s m.slot).map fun c => c.cls == .lc).getD false then .lc else .be

/-- Spans of a range, and the block indices of one (R238). -/
def spanBlocks (d : ProfileDesc) : Nat := 256 / blockSize d
def spanCount (d : ProfileDesc) (blocks : Nat) : Nat := ceilDiv blocks (spanBlocks d)
def blocksOfSpan (d : ProfileDesc) (blocks span : Nat) : List Nat :=
  (List.range (spanBlocks d)).filterMap fun i => if span * spanBlocks d + i < blocks then some (span * spanBlocks d + i) else none

/-- Multiply-accumulates of a tile per ARITH cycle (Table 8.6). -/
def macRate (fp8 : Bool) (codec : Byte) : Nat := if !fp8 then 256 else if codec == 3 || codec == 4 then 2048 else 1024

/-- r_max of R244. -/
def maxRows (d : ProfileDesc) (a : AttendOpenParams) : Nat :=
  let rq := macRate (!aoFlag a 0) d.kCodec
  let rp := macRate (!aoFlag a 1) d.vCodec
  max 1 (3400 * rq * rp / (256 * d.headDim.toNat * (rq + rp)))

/-- The row groups of a head: (first row, rows), the larger first (R244). [DEDUCED, log 12] -/
def rowGroups (d : ProfileDesc) (a : AttendOpenParams) (entries : Nat) : List (Nat × Nat) :=
  let r := entries * d.qheadsPerKv.toNat
  let n := max 1 (ceilDiv r (maxRows d a))
  (List.range n).map fun i => (i * (r / n) + min i (r % n), r / n + (if i < r % n then 1 else 0))

/-- Entries of a batch. -/
def batchEntries (b : Batch) : Nat := sumOf (·.entries) b.members

/-- Every extent of a span's blocks at the batch's layer is in T1, and the layer's weights are ready. -/
def spanReady (s : State) (m : Membership) (d : ProfileDesc) (layer span : Nat) : Bool :=
  (blocksOfSpan d m.ptrs.length span).all fun blk =>
    (((m.ptrs[blk]?).bind (findNode s)).map fun n => inT1 s n.ptr (groupOfLayer n.layers layer)).getD false
      && ((memberProfile s m blk).map fun p => weightsReady p layer).getD false

/-- Whether the tiles of a profile are staged before attention: CP_I4G and CP_LATENT (R250). -/
def stagesTiles (d : ProfileDesc) : Bool := isLatent d || d.kCodec == 5 || d.vCodec == 5

/-- Stage slots of a span's decoded tiles of one head, and the units that fill them. -/
def spanSlots (d : ProfileDesc) (blocks span : Nat) : Nat :=
  (blocksOfSpan d blocks span).length * tileSlots (decodedLen d true)
def spanParts (s : State) (m : Membership) (d : ProfileDesc) (span : Nat) : Nat :=
  sumOf (fun blk =>
    let own := ((memberProfile s m blk).map (·.desc)).getD d
    ceilDiv (blockSize d) (if isLatent d then projectTokens own else decodeTokens own true)) (blocksOfSpan d m.ptrs.length span)

/-- Starts the work of one head of one span. -/
def startSpan (id head span : Nat) (s : State) : State :=
  match findBatch s id with
  | none => s
  | some b => match batchMember s b with
    | none => s
    | some m => match memberDesc s m with
      | none => s
      | some d =>
        let c := batchCls s b
        let s1 := setBatch id (fun b => { b with started := b.started ++ [(head, span)] }) s
        let load := if hasWeights d then (m.slots.head?).map fun slot => (slot, b.layer, head) else none
        if isLatent d then
          startUnit .tile { newUnit c (.projectSpan id head span 0) (spanSlots d m.ptrs.length span) 0 with weights := load } s1
        else if stagesTiles d then
          startUnit .codec { newUnit c (.decodeSpan id head span 0) (spanSlots d m.ptrs.length span) 0 with weights := load } s1
        else startUnit .tile (newUnit c (.span id head span 0) 0 0) s1

/-- Marks every member of a batch late (R249). -/
def markLate (id : Nat) (s : State) : State :=
  setBatch id (fun b => { b with members := b.members.map fun m => { m with late := true } }) s

/-- Whether a span waits for a T2 or T3 read or for codec weights, and not for pool space only (R217, R249). -/
def spanAwaits (s : State) (m : Membership) (d : ProfileDesc) (layer span : Nat) : Bool :=
  (blocksOfSpan d m.ptrs.length span).any fun blk =>
    (((m.ptrs[blk]?).bind (findNode s)).map fun n => !inT1 s n.ptr (groupOfLayer n.layers layer)
        && s.tiers.moves.any fun x => x.ptr == n.ptr && x.group == groupOfLayer n.layers layer && x.dst == .t1).getD false
      || ((memberProfile s m blk).map fun p => !weightsReady p layer).getD false

/-- The batch that a unit works for. -/
def batchOf : UnitWork → Option Nat
  | .span b _ _ _ => some b
  | .merge b _ _ _ => some b
  | .decodeSpan b _ _ _ => some b
  | .projectSpan b _ _ _ => some b
  | _ => none

/-- The ATTENDs of a batch park (R17, R249): they give up their engines and stage slots; what is not computed yet starts again.
[DEDUCED, log 42] -/
def parkBatch (id groups : Nat) (s : State) : State :=
  match findBatch s id with
  | none => s
  | some b =>
    let spanWork := fun (w : UnitWork) => batchOf w == some id && (match w with
      | .merge .. => false
      | _ => true)
    let s1 := discardRunning spanWork (dropQueued spanWork s)
    let s2 := b.staged.foldl (fun s x => giveSlots x.2.2 s) s1
    let done := fun (p : Nat × Nat) => (List.range groups).all fun g => b.spansDone.contains (p.1, p.2, g)
    setBatch id (fun b => { b with staged := [], started := b.started.filter done }) s2

/-- The row groups of a batch. -/
def batchGroups (s : State) (b : Batch) : List (Nat × Nat) :=
  match batchMember s b with
  | none => []
  | some m => match memberDesc s m with
    | none => []
    | some d => rowGroups d m.prm (batchEntries b)

/-- Runs what a closed batch can run; while a span's extents or weights are not ready its ATTENDs park for them, and those that wait
for a read or for weights are late (R249). -/
def advanceBatch (id : Nat) (s : State) : State :=
  match findBatch s id with
  | none => s
  | some b =>
    if b.isOpen then s
    else match batchMember s b with
      | none => s
      | some m => match memberDesc s m with
        | none => s
        | some d =>
          let spans := List.range (spanCount d m.ptrs.length)
          let todo := (List.range d.kvHeads.toNat).flatMap fun h => (spans.map fun x => (h, x)).filter fun p => !b.started.contains p
          if todo.all fun p => spanReady s m d b.layer p.2 then todo.foldl (fun s p => startSpan id p.1 p.2 s) s
          else
            let c := batchCls s b
            let s1 := m.ptrs.foldl (fun s ptr => match findNode s ptr with
              | none => s
              | some n => bringToT1 ptr (groupOfLayer n.layers b.layer) .demand ((b.members.head?).map (·.slot)) c (c == .lc) s)
              (parkBatch id (batchGroups s b).length s)
            if spans.any fun x => spanAwaits s1 m d b.layer x then markLate id s1 else s1

/-- Closes a batch (R246). -/
def closeBatch (id : Nat) (s : State) : State := advanceBatch id (setBatch id (fun b => { b with isOpen := false }) s)

/-- Whether a batch closes now: it is full, every member of its group is in it, or it gathers for no time. -/
def batchFull (s : State) (b : Batch) : Bool :=
  match batchMember s b with
  | none => true
  | some m =>
    !coalesces m.prm || m.prm.gatherCycles == 0 || decide (64 ≤ batchEntries b)
      || (s.eng.memberships.filter fun x => x.group == m.group && coalesces x.prm).all fun x => b.members.any fun y => y.membership == x.index

/-- A membership ends: the open batches of its group that hold an ATTEND of every member left close (R246). -/
def endMember (m : Membership) (s : State) : State :=
  let s1 := dropMember m s
  (s1.eng.batches.filter fun b => b.isOpen && b.group == m.group && batchFull s1 b).foldl (fun s b => closeBatch b.id s) s1

/-- The ATTEND that a unit seals or sends for. -/
def resultOf : UnitWork → Option Nat
  | .sealResult slot _ => some slot
  | .send _ (.result slot) _ => some slot
  | .hostSend _ (.result slot) _ => some slot
  | _ => none

/-- A batch ends: its staged slots return. -/
def endBatch (id : Nat) (s : State) : State :=
  match findBatch s id with
  | none => s
  | some b =>
    let s1 := dropQueued (fun w => batchOf w == some id) (b.staged.foldl (fun s x => giveSlots x.2.2 s) s)
    { s1 with eng := { s1.eng with batches := s1.eng.batches.filter fun x => x.id != id } }

/-- A batch with no member left to answer ends. -/
def endIfDone (id : Nat) (s : State) : State :=
  if ((findBatch s id).map fun b => b.members.all fun m => m.gone || m.acked).getD false then endBatch id s else s

/-- The batch and member of an ATTEND. -/
def findAttend (s : State) (slot : Nat) : Option (Batch × AttendCtx) :=
  s.eng.batches.findSome? fun b => (b.members.find? fun m => m.slot == slot && !m.gone && !m.acked).map fun m => (b, m)

/-- An ATTEND gives back the stage slots of its sealed result (R15). -/
def freeResult (slot : Nat) (s : State) : State :=
  match findAttend s slot with
  | none => s
  | some (b, x) =>
    let clear := updWhere (fun m => m.slot == slot) fun m => { m with held := { lc := 0, shared := 0 } }
    giveSlots x.held (setBatch b.id (fun b => { b with members := clear b.members }) s)

/-- A member leaves a batch (R247). -/
def leaveBatch (id slot : Nat) (s0 : State) : State :=
  let s := freeResult slot s0
  endIfDone id (setBatch id (fun b =>
    if b.isOpen then { b with members := b.members.filter fun m => m.slot != slot }
    else { b with members := updWhere (fun m => m.slot == slot) (fun m => { m with gone := true }) b.members }) s)

/-- The ATTENDs of a membership that have not replied. -/
def attendsOf (s : State) (m : Membership) : List Cmd :=
  s.jobs.cmds.filter fun c => match c.instr with
    | .attend _ a => c.job == some m.job && a.session == sessionHandle m
    | _ => false

/-- The slate of a membership's ATTEND_CLOSE, if one is accepted (R229). -/
def closeSlate (s : State) (m : Membership) : Option Nat := (m.closeSlot.bind (findCmd s)).map (·.acceptSlate)

/-- ATTEND_CLOSE's reply, once its ATTENDs have replied. -/
def finishClose (i : Nat) (s : State) : State :=
  match findMember s i with
  | none => s
  | some m => match m.closeSlot with
    | none => s
    | some slot =>
      if (attendsOf s m).all fun c => decide (((closeSlate s m).getD 0) < c.acceptSlate) then
        let s1 := endMember m s
        match findCmd s1 slot with
        | none => s1
        | some c => done c 0 0 s1
      else s

/-- Ends an ATTEND with a status and drops its share of the batch. -/
def failAttend (batch slot membership : Nat) (st : Status) (s : State) : State :=
  let s1 := dropQueued (fun w => resultOf w == some slot) (leaveBatch batch slot s)
  let s2 := match findCmd s1 slot with
    | none => s1
    | some c => fail c st s1
  finishClose membership s2

/-- Ends an ATTEND wherever it is: in its batch, or parked or reading its query block before. -/
def endAttend (c : Cmd) (membership : Nat) (st : Status) (s : State) : State :=
  match findAttend s c.slot with
  | some (b, _) => failAttend b.id c.slot membership st s
  | none =>
    let mine := fun (w : UnitWork) => match w with
      | .hostRead _ slot _ _ => slot == c.slot
      | _ => false
    match findCmd (discardRunning mine (dropQueued mine s)) c.slot with
    | none => s
    | some c => fail c st (discardRunning mine (dropQueued mine s))

/-- Ends a membership at once, its ATTENDs with a status (R229). -/
def killMember (i : Nat) (st : Status) (s : State) : State :=
  match findMember s i with
  | none => s
  | some m =>
    let s1 := (attendsOf s m).foldl (fun s c => endAttend c i st s) s
    match findMember s1 i with
    | none => s1
    | some m1 =>
      let s2 := endMember m1 s1
      match m.closeSlot.bind (findCmd s2) with
      | none => s2
      | some c => done c 0 0 s2

/-! ## What the units compute -/

/-- The member and entry of a row: entries of a batch are numbered in member order. -/
def entryAt : List AttendCtx → Nat → Option (AttendCtx × Nat)
  | [], _ => none
  | m :: rest, e => if e < m.entries then some (m, e) else entryAt rest (e - m.entries)

/-- The arithmetic options of a session. -/
def optionsOf (a : AttendOpenParams) : AttendOptions :=
  { scale := ofBits a.scale, softcap := ofBits a.softcap, qkFp8 := !aoFlag a 0, pvFp8 := !aoFlag a 1 }

/-- Whether a block lies in the window of a query position (R224). -/
def inWindow (a : AttendOpenParams) (bs qpos block : Nat) : Bool :=
  let w := a.windowBlocks.toNat
  w == 0 || (decide (block ≤ qpos / bs + 1) && decide (qpos / bs + 2 ≤ block + w))

/-- The partial of one row over one span (R238). -/
def rowPartial (s : State) (m : Membership) (d : ProfileDesc) (layer head span row : Nat) (qpos : Nat) (q : List Fv) : Partial :=
  let o := optionsOf m.prm
  let qq := if o.qkFp8 then rowQuantise q else (q, 0)
  let blocks := blocksOfSpan d m.ptrs.length span
  let start : RowState := (none, zeroF, List.replicate d.headDim.toNat zeroF, false)
  let st := blocks.foldl (fun st blk =>
    let n := m.prm.firstBlock.toNat + blk
    if !inWindow m.prm (blockSize d) qpos n then st
    else match (m.ptrs[blk]?).bind (findNode s), memberProfile s m blk with
      | some nd, some p =>
        let body := ((nd.pages.find? fun g => g.layer == layer).map (·.body)).getD []
        let w := (p.weights[layer]?).map (·.record)
        let toks := List.range (blockSize d)
        blockStep o qq (toks.map fun t => operandToken o.qkFp8 p.desc w body n head 0 t)
          (toks.map fun t => operandToken o.pvFp8 p.desc w body n head 1 t) st
      | _, _ => st) start
  storeRow row span st

/-- The partials of a row group of one head over one span. -/
def groupPartials (s : State) (b : Batch) (m : Membership) (d : ProfileDesc) (head span group : Nat) : List Partial :=
  let g := d.qheadsPerKv.toNat
  let (first, count) := ((rowGroups d m.prm (batchEntries b))[group]?).getD (0, 0)
  (List.range count).filterMap fun i =>
    let r := first + i
    let qh := head * g + r % max g 1
    (entryAt b.members (r / max g 1)).map fun (x, e) =>
      let at0 := (e * queryHeads d + qh) * d.headDim.toNat
      let q := (List.range d.headDim.toNat).map fun k => decodeFp fmtBF16 ((x.prm.query.queries.getD (at0 + k) 0).toNat)
      rowPartial s m d b.layer head span (r / max g 1 * queryHeads d + qh) (x.prm.query.qpos.getD e 0).toNat q

/-- A member's result: its rows' O, then their LSE (Table 8.4). -/
def resultBytes (b : Batch) (d : ProfileDesc) (fp32 : Bool) (slot : Nat) : List Byte × Nat :=
  let hq := queryHeads d
  let before := sumOf (·.entries) (b.members.takeWhile fun m => m.slot != slot)
  let n := ((b.members.find? fun m => m.slot == slot).map (·.entries)).getD 0
  let rows := (List.range (n * hq)).map fun i =>
    let row := before * hq + i
    match b.partials.find? fun p => p.row == row with
    | some p => finishRow fp32 d.headDim.toNat p
    | none => finishRow fp32 d.headDim.toNat { row := row, span := 0, m := negInf, l := 0, acc := [], overflow := false }
  (rows.flatMap (·.1) ++ rows.flatMap (fun r => leBytes 4 r.2.toNat), (rows.filter fun r => r.2 == posInf).length)

/-! ## Results -/

/-- Seals every member's result, once the last row of the batch is merged (R247): units of 32 KiB. -/
def sealResults (id : Nat) (s : State) : State :=
  match findBatch s id with
  | none => s
  | some b => b.members.foldl (fun s m => match if m.gone then none else findCmd s m.slot with
      | none => s
      | some c => startUnit .crypto (newUnit c.cls (.sealResult m.slot 0) 2 0) s) s

/-- Bytes of a result (Table 8.4). -/
def resultLen (d : ProfileDesc) (fp32 : Bool) (entries : Nat) : Nat :=
  0x20 + entries * queryHeads d * (d.headDim.toNat * (if fp32 then 4 else 2) + 4)

/-- Sends a sealed result to its buffer (R230). -/
def sendResult (slot : Nat) (s : State) : State :=
  match findAttend s slot with
  | none => s
  | some (_, x) => match findMember s x.membership, findCmd s slot with
    | some m, some c => match memberDesc s m with
      | none => s
      | some d =>
        let len := resultLen d (aoFlag m.prm 2) x.entries
        let credits := max 1 (ceilDiv (min len 65536) 4096)
        if attendHost m.prm then
          match (findJob s m.job).bind (primaryLane s) with
          | none => s
          | some l => startUnit (.host (laneRing l).1) (newUnit c.cls (.hostSend l (.result slot) len) 0 credits) s
        else
          let qpn := bitsOf m.prm.qpn.toNat 0 24
          match findQp s qpn with
          | none => s
          | some q => startUnit (.rdma (q.lport / 4)) (newUnit c.cls (.send qpn (.result slot) len) 0 credits) (needContext qpn s)
    | _, _ => s

/-- The ATTEND reply, once its write is acknowledged (R234). -/
def replyAttend (slot : Nat) (s : State) : State :=
  match findAttend s slot with
  | none => s
  | some (b, x) => match findMember s x.membership, findCmd s slot with
    | some m, some c =>
      let hq := ((memberDesc s m).map queryHeads).getD 0
      let s1 := complete c .ok (lateFlags x.late) (BitVec.ofNat 32 (x.entries * hq))
        (BitVec.ofNat 64 (batchEntries b + 256 * b.members.length)) s
      let s2 := setBatch b.id (fun b => { b with members := updWhere (fun m => m.slot == slot) (fun m => { m with acked := true }) b.members }) s1
      finishClose m.index (endIfDone b.id s2)
    | _, _ => s

/-- A result's write has been transmitted: it goes out sealed, its overflow rows are counted (R233), and a host
write counts as acknowledged at once (R234). -/
def resultSent (slot : Nat) (s0 : State) : State :=
  let s := freeResult slot s0
  match findAttend s slot with
  | none => s
  | some (b, x) => match findMember s x.membership with
    | none => s
    | some m => match memberDesc s m, findJob s m.job with
      | some d, some j =>
        let fp32 := aoFlag m.prm 2
        let (bytes, overflows) := resultBytes b d fp32 slot
        let aad := leBytes 12 (deviceNonce (j.linkCounter + 1)).toNat ++ leBytes 2 x.entries ++ leBytes 2 b.layer
          ++ leBytes 4 (sessionHandle m).toNat
        let sealedResult : SealedMsg := { key := j.keys.link, nonce := deviceNonce (j.linkCounter + 1), aad := aad, plain := bytes }
        let len := resultLen d fp32 x.entries
        let s1 := setJob j.index (fun j => { j with
          linkCounter := j.linkCounter + 1, counters := { j.counters with overflowRows := j.counters.overflowRows + overflows } }) s
        if attendHost m.prm then
          let l := (primaryLane s j).getD 0
          replyAttend slot (emit (.hostWrite (laneRing l).1 (laneRing l).2 x.prm.resultAddr.toNat len (.sealed sealedResult)) s1)
        else emit (.rdmaWrite (bitsOf m.prm.qpn.toNat 0 24) m.prm.resultRkey x.prm.resultAddr.toNat len none (.sealed sealedResult)) s1
      | _, _ => s

/-! ## Unit ends -/

/-- A (head, row group) is merged: with the batch's last one the results are sealed. -/
def rowsMerged (id head group : Nat) (s : State) : State :=
  match findBatch s id with
  | none => s
  | some b => match (batchMember s b).bind (memberDesc s) with
    | none => s
    | some d =>
      let g := d.qheadsPerKv.toNat
      let (first, count) := ((batchGroups s b)[group]?).getD (0, 0)
      let rows := (List.range count).map fun i => (first + i) / max g 1 * queryHeads d + head * g + (first + i) % max g 1
      let (mine, rest) := b.partials.partition fun p => rows.contains p.row
      let merged := rows.filterMap fun r =>
        (mergeTree (mine.length + 1) (sortBy (fun a b => decide (a.span < b.span)) (mine.filter fun p => p.row == r))).head?
      let s1 := setBatch id (fun b => { b with partials := rest ++ merged, rowsDone := b.rowsDone ++ [(head, group)] }) s
      if b.rowsDone.length + 1 == d.kvHeads.toNat * (batchGroups s b).length then sealResults id s1 else s1

/-- An attention unit ended (R244): the next row group of its span and head on the same tile, and the merges once every span of a
row group is done. A unit of a span that was started again after a fault changes nothing that is done. -/
def spanUnitEnd (tile id head span group : Nat) (s : State) : State :=
  match findBatch s id with
  | none => s
  | some b => match batchMember s b with
    | none => s
    | some m => match memberDesc s m with
      | none => s
      | some d =>
        let groups := (batchGroups s b).length
        let c := batchCls s b
        let again := b.spansDone.contains (head, span, group)
        let s1 := if again then s else
          setBatch id (fun x => { x with partials := x.partials ++ groupPartials s b m d head span group,
                                         spansDone := x.spansDone ++ [(head, span, group)] }) s
        let s2 :=
          if group + 1 < groups then startUnit .tile { newUnit c (.span id head span (group + 1)) 0 0 with bound := some tile } s1
          else
            let mine := b.staged.filter fun x => x.1 == head && x.2.1 == span
            setBatch id (fun x => { x with staged := x.staged.filter fun y => !(y.1 == head && y.2.1 == span) })
              (mine.foldl (fun s x => giveSlots x.2.2 s) s1)
        let n := spanCount d m.ptrs.length
        let doneSpans := (b.spansDone.filter fun x => x.1 == head && x.2.2 == group).length + 1
        if !again && doneSpans == n then
          if n ≤ 1 then rowsMerged id head group s2
          else startUnit .tile (newUnit c (.merge id head group 1) 0 0) s2
        else s2

/-- A merge unit ended (R239): one pair of the row group's tree; after the last the rows are final. [DEDUCED, log 12] -/
def mergeUnitStep (id head group step : Nat) (s : State) : State :=
  match findBatch s id with
  | none => s
  | some b => match batchMember s b with
    | none => s
    | some m => match memberDesc s m with
      | none => s
      | some d =>
        if step + 1 < spanCount d m.ptrs.length then
          startUnit .tile (newUnit (batchCls s b) (.merge id head group (step + 1)) 0 0) s
        else rowsMerged id head group s

/-- A part of a span's staged tiles is filled; after the last its attention units run (R250). -/
def stagedUnitEnd (id head span part : Nat) (u : EUnit) (s : State) : State :=
  match findBatch s id with
  | none => giveSlots u.held s
  | some b => match batchMember s b with
    | none => giveSlots u.held s
    | some m => match memberDesc s m with
      | none => giveSlots u.held s
      | some d =>
        let c := batchCls s b
        if part + 1 < spanParts s m d span then
          if isLatent d then startUnit .tile { newUnit c (.projectSpan id head span (part + 1)) 0 0 with held := u.held, weights := u.weights } s
          else startUnit .codec { newUnit c (.decodeSpan id head span (part + 1)) 0 0 with held := u.held, weights := u.weights } s
        else
          startUnit .tile (newUnit c (.span id head span 0) 0 0)
            (setBatch id (fun x => { x with staged := x.staged ++ [(head, span, u.held)] }) s)

/-- A part of a result is sealed, and its stage slots stay until the result is transmitted (R15); after the last part it is sent. -/
def sealResultEnd (slot part : Nat) (u : EUnit) (s : State) : State :=
  match findAttend s slot with
  | none => giveSlots u.held s
  | some (b, x) => match (findMember s x.membership).bind (fun m => (memberDesc s m).map fun d => (m, d)), findCmd s slot with
    | some (m, d), some c =>
      let keep := updWhere (fun m => m.slot == slot) fun m =>
        { m with held := { lc := m.held.lc + u.held.lc, shared := m.held.shared + u.held.shared } }
      let s0 := setBatch b.id (fun b => { b with members := keep b.members }) s
      if (part + 1) * 32768 < resultLen d (aoFlag m.prm 2) x.entries - 0x20 then
        startUnit .crypto (newUnit c.cls (.sealResult slot (part + 1)) 2 0) s0
      else sendResult slot s0
    | _, _ => giveSlots u.held s

/-- Moves every batch and every membership's prefetch as far as it now can. -/
def advanceAttention (s : State) : State :=
  let s1 := s.eng.batches.foldl (fun s b => advanceBatch b.id s) s
  s1.eng.memberships.foldl (fun s m => prefetchMember m.index s) s1

end Sys2Proof.Machine
end

