-- ==== Sys2Proof/Machine/IngestOps.lean ====
section
/-! DEFINITION. Ingests (R187 to R196): the acceptance and encoding of a record, complete pages, and the end of an
ingest. -/
namespace Sys2Proof.Machine

/-- The ingest with an index. -/
def findIngest (s : State) (i : Nat) : Option Ingest := s.tiers.ingests.find? fun x => x.index == i

/-- Changes an ingest. -/
def setIngest (i : Nat) (f : Ingest → Ingest) (s : State) : State :=
  { s with tiers := { s.tiers with ingests := updWhere (fun x => x.index == i) f s.tiers.ingests } }

/-- An ingest handle (R189). -/
def ingestHandle (g : Ingest) : U32 := BitVec.ofNat 32 (g.gen * 4096 + g.index)

/-- What an ingest handle in a job's command names (R190): ST_DENIED for another job's, ST_BAD_PARAM for a free or stale one, or
one whose commit or abort was accepted (R194). An index that another job's ingest holds is DENIED whatever its GEN.
[DESIGN CHOICE, log 159] -/
def resolveIngest (s : State) (j : Job) (h : U32) : Except Status Ingest :=
  match findIngest s (bitsOf h.toNat 0 12) with
  | none => .error .badParam
  | some g =>
    if g.job != j.index then .error .denied
    else if g.gen != bitsOf h.toNat 12 20 || g.phase != .taking then .error .badParam
    else .ok g

/-- The profile of an ingest's variant, unloading or not. -/
def ingestProfile (s : State) (g : Ingest) : Option Profile :=
  match findJob s g.job with
  | none => none
  | some j => s.eng.profiles.find? fun p => p.tenant == j.tenant && p.desc.modelId == j.modelId && p.variant == g.variant

/-! ## Records -/

/-- How a record ended. -/
inductive RecordEnd where
  | accepted | duplicate | rejected
deriving DecidableEq, Repr

/-- The header checks of R187: ranges, the new blocks, and PAYLOAD_LEN. -/
def recordHeaderOk (d : ProfileDesc) (g : Ingest) (r : IngestRecord) : Bool :=
  let n := r.blockNo.toNat
  let elems := if isLatent d then rowDims d else d.headDim.toNat
  r.ingestHandle == ingestHandle g && bitsOf r.recFlags.toNat 1 7 == 0 && r.reserved14 == 0 && r.reserved24 == 0
    && decide (g.base + g.skip < n) && decide (n ≤ g.base + g.newBlocks) && decide (r.layer.toNat < d.layers.toNat)
    && (if isLatent d then r.head == 0 && r.recFlags == 0 else decide (r.head.toNat < d.kvHeads.toNat))
    && decide (r.firstToken.toNat < blockSize d) && decide (1 ≤ r.tokenCount.toNat)
    && decide (r.firstToken.toNat + r.tokenCount.toNat ≤ blockSize d)
    && r.payloadLen.toNat == r.tokenCount.toNat * elems * inputBytes d.inputFormat && decide (r.payloadLen.toNat ≤ 32704)

/-- The page that a record belongs to, empty when nothing of it has been accepted. -/
def ingestPage (d : ProfileDesc) (g : Ingest) (block layer : Nat) : IngestPage :=
  (g.pages.find? fun p => p.block == block && p.layer == layer).getD
    { block := block, layer := layer, accepted := [], body := zeroBytes (pageLen d), rejected := false, writeNo := none, epoch := 0,
      pageSeal := 0, tileChecks := [], stored := false }

/-- Whether a record covers a token already accepted (R188). -/
def recordDuplicate (p : IngestPage) (r : IngestRecord) : Bool :=
  p.accepted.any fun (h, half, first, count) =>
    h == r.head.toNat && half == bitsOf r.recFlags.toNat 0 1
      && decide (r.firstToken.toNat < first + count) && decide (first < r.firstToken.toNat + r.tokenCount.toNat)

/-- Whether every token of every half of every tile has been accepted (R187). -/
def pageComplete (d : ProfileDesc) (p : IngestPage) : Bool :=
  !p.rejected && sumOf (fun a => a.2.2.2) p.accepted == blockSize d * (if isLatent d then 1 else 2 * d.kvHeads.toNat)

/-- Landing slots return to the part they came from (R326). -/
def giveLanding (p : LandingSlot → Bool) (s : State) : State :=
  let mine := s.tiers.landing.filter p
  let pool := mine.foldl (fun q x => q.give { lc := if x.fromLc then 1 else 0, shared := if x.fromLc then 0 else 1 }) s.tiers.landingPool
  let left := s.tiers.landing.filter fun x => !p x
  { s with tiers := { s.tiers with landing := left, landingPool := pool } }

/-- The address of a landing slot (R347). -/
def landingAddr (n : Nat) : Nat := Config.landingBase + 32768 * n

/-- The ingest record that a byte string holds (Table 6.7): its payload is opened under the job's link key. -/
def recordOf (key : BitVec 256) (l : List Byte) : IngestRecord :=
  let f := fun a n => leNat ((l.drop a).take n)
  let len := f 0x10 4
  let nonce := BitVec.ofNat 96 (f 0x18 12)
  { ingestHandle := BitVec.ofNat 32 (f 0 4), blockNo := BitVec.ofNat 32 (f 4 4), layer := BitVec.ofNat 16 (f 8 2),
    head := BitVec.ofNat 8 (f 0x0A 1), recFlags := BitVec.ofNat 8 (f 0x0B 1), firstToken := BitVec.ofNat 16 (f 0x0C 2),
    tokenCount := BitVec.ofNat 16 (f 0x0E 2), payloadLen := BitVec.ofNat 32 len, reserved14 := BitVec.ofNat 32 (f 0x14 4), nonce := nonce,
    reserved24 := BitVec.ofNat 96 (f 0x24 12),
    opened := gcmOpen (keyBytes key) nonce (l.take 0x30) ((l.drop 0x30).take len) ((l.drop (0x30 + len)).take 16) }

/-- The record that stands in a landing slot (R192): as many bytes as its PAYLOAD_LEN names, within the slot. -/
def slotRecord (s : State) (x : LandingSlot) : IngestRecord :=
  let a := landingAddr x.num
  let n := min 32768 (0x40 + leNat (memBytes s.tiers.landingMem (a + 0x10) 4))
  recordOf (linkKey s x.job) (memBytes s.tiers.landingMem a n)

/-- T1 granules that a record's payload is counted as while the dirty mark is reached (R177). [DESIGN CHOICE, log 177] -/
def recordGranules (r : IngestRecord) : Nat := ceilDiv r.payloadLen.toNat 512

/-- The granules of a record are taken from what eviction has freed, while the dirty mark is reached (R177). [DEDUCED, log 146] -/
def useFreed (n : Nat) (s : State) : State :=
  if s.tiers.aboveMark then { s with tiers := { s.tiers with freed := s.tiers.freed - n } } else s

/-- Whether a command is an INGEST_PULL of an ingest. -/
def pullOf (g : Ingest) (c : Cmd) : Bool :=
  match c.instr with
  | .ingestPull _ a => c.job == some g.job && a.ingestHandle == ingestHandle g
  | _ => false

/-- The reply of an INGEST_PULL (R191). -/
def replyPull (c : Cmd) (st : Status) (s : State) : State :=
  complete c st noFlags (BitVec.ofNat 32 c.count) (BitVec.ofNat 64 (c.dups + c.rejects * 2 ^ 32)) s

/-! ## Records under way (Table 6.10) -/

/-- Moves a record of an ingest forward. -/
def setIncoming (id : Nat) (f : Incoming → Incoming) (s : State) : State :=
  { s with tiers := { s.tiers with incoming := updWhere (fun x => x.id == id) f s.tiers.incoming } }

/-- The record with a number. -/
def findIncoming (s : State) (id : Nat) : Option Incoming := s.tiers.incoming.find? fun x => x.id == id

/-- The page of a record, its ingest, and the profile under which it is encoded. -/
def incomingPage (s : State) (x : Incoming) : Option (Ingest × Profile × IngestPage) :=
  (findIngest s x.ingest).bind fun g => (ingestProfile s g).map fun p =>
    (g, p, ingestPage p.desc g x.record.blockNo.toNat x.record.layer.toNat)

/-- INGEST_PULL's reply follows its last record (R191). [DEDUCED, log 37] -/
def finishPull (slot : Nat) (s : State) : State :=
  match findCmd s slot with
  | none => s
  | some c =>
    if c.wait == .reads && c.left == 0 && !(s.tiers.incoming.any fun x => x.pull == some slot) then
      replyPull c (if c.rejects == 0 then .ok else .partialDone) s
    else s

/-- A record is settled: it leaves its slots, its ingest's job counts it, and so does its pull (R187, R188, R191). -/
def recordDone (x : Incoming) (e : RecordEnd) (s : State) : State :=
  let s1 := giveSlots x.held { s with tiers := { s.tiers with incoming := s.tiers.incoming.filter fun y => y.id != x.id } }
  let s2 := match x.landing with
    | none => s1
    | some n => giveLanding (fun y => y.num == n) s1
  let s3 := match findIngest s2 x.ingest with
    | none => s2
    | some g => countJob g.job (fun k => match e with
        | .accepted => k
        | .duplicate => { k with ingestDuplicates := k.ingestDuplicates + 1 }
        | .rejected => { k with ingestRejects := k.ingestRejects + 1 }) s2
  match x.pull with
  | none => s3
  | some slot => finishPull slot (setCmd slot (fun c => match e with
      | .accepted => { c with count := c.count + 1 }
      | .duplicate => { c with dups := c.dups + 1 }
      | .rejected => { c with rejects := c.rejects + 1 }) s3)

/-- Whether two records cover a token of the same tile half. -/
def recordsOverlap (r q : IngestRecord) : Bool :=
  r.blockNo == q.blockNo && r.layer == q.layer && r.head == q.head && r.recFlags == q.recFlags
    && decide (r.firstToken.toNat < q.firstToken.toNat + q.tokenCount.toNat)
    && decide (q.firstToken.toNat < r.firstToken.toNat + r.tokenCount.toNat)

/-- Whether a record must wait: for granules that eviction frees (R177), for the codec weights of its layer (R154), or for an
earlier record of the same tokens, so that the first accepted wins (R188). [DESIGN CHOICE, log 13; DEDUCED, log 146] -/
def recordWaits (s : State) (x : Incoming) (p : Profile) : Bool :=
  (x.cls == .lc && s.tiers.aboveMark && decide (s.tiers.freed < recordGranules x.record))
    || !weightsReady p x.record.layer.toNat
    || s.tiers.incoming.any fun y => decide (y.id < x.id) && y.ingest == x.ingest && recordsOverlap y.record x.record

/-- Step 3 of Table 6.10: the header and duplicates are checked first, then a crypto unit verifies the tag and opens the payload
into stage slots (R187, R188). Once the ingest's commit is accepted, only the pulls accepted before it still bring records
(R194). [DESIGN CHOICE, log 13] -/
def startRecord (x : Incoming) (s : State) : State :=
  match incomingPage s x with
  | none => recordDone x .rejected s
  | some (g, p, page) =>
    if (g.phase != .taking && x.pull.isNone) || p.lost || !recordHeaderOk p.desc g x.record then recordDone x .rejected s
    else if recordDuplicate page x.record then recordDone x .duplicate s
    else if recordWaits s x p then s
    else startUnit .crypto (newUnit x.cls (.openRecord x.id) (tileSlots x.record.payloadLen.toNat) 0)
      (setIncoming x.id (fun x => { x with step := .opening }) (useFreed (recordGranules x.record) s))

/-- Every waiting record goes on as far as it now can, in their order of arrival. [DESIGN CHOICE, log 13; DEDUCED, log 146] -/
def startRecords (s : State) : State :=
  (s.tiers.incoming.filter fun x => x.step == .waiting).foldl (fun s x => if s.tiers.incoming.contains x then startRecord x s else s) s

/-- INGEST_RECORD: a record arrives for an ingest, from a pull or in a landing slot (Table 6.10). [DESIGN CHOICE, log 13] -/
def arrive (i : Nat) (pull landing : Option Nat) (r : IngestRecord) (s : State) : State :=
  match findIngest s i with
  | none => s
  | some g =>
    let x : Incoming := { id := s.tiers.nextIncoming, ingest := i, cls := g.cls, pull := pull, landing := landing, record := r,
                          step := .waiting, held := { lc := 0, shared := 0 } }
    startRecord x { s with tiers := { s.tiers with incoming := s.tiers.incoming ++ [x], nextIncoming := s.tiers.nextIncoming + 1 } }

/-- Encode units of a record (Table 5.7, R158): whole tokens, at most 16 KiB of input each. -/
def encodeParts (d : ProfileDesc) (r : IngestRecord) : Nat :=
  let token := (if isLatent d then rowDims d else d.headDim.toNat) * inputBytes d.inputFormat
  max 1 (ceilDiv r.tokenCount.toNat (max 1 (16384 / max 1 token)))

/-- A record's tag is verified and its payload opened; its landing slot returns, and its tokens go to a codec engine. The tag of a
nonce that the device would use itself fails. [DESIGN CHOICE, log 13] -/
def recordOpened (id : Nat) (u : EUnit) (s : State) : State :=
  match findIncoming s id with
  | none => giveSlots u.held s
  | some x =>
    let x1 := { x with held := u.held }
    match (if bitOf x.record.nonce.toNat 95 then none else x.record.opened) with
    | none => recordDone x1 .rejected s
    | some payload =>
      if payload.length != x.record.payloadLen.toNat then recordDone x1 .rejected s
      else
        let s1 := match x.landing with
          | none => s
          | some n => giveLanding (fun y => y.num == n) s
        let load := (incomingPage s x).bind fun y =>
          if hasWeights y.2.1.desc then some (y.2.1.slot, x.record.layer.toNat, x.record.head.toNat) else none
        startUnit .codec { newUnit x.cls (.encode id 0) 0 0 with weights := load }
          (setIncoming id (fun x => { x with step := .encoding, landing := none, held := u.held }) s1)

/-- Changes a page of an ingest. -/
def setIngestPage (i : Nat) (q : IngestPage) (s : State) : State :=
  setIngest i (fun g => { g with pages := q :: g.pages.filter fun y => !(y.block == q.block && y.layer == q.layer) }) s

/-- Tokens encoded into the reserved page (R127, R158): the page, and the saturated elements. -/
def encodedPage (p : Profile) (r : IngestRecord) (q : IngestPage) : IngestPage × Nat :=
  let half := bitsOf r.recFlags.toNat 0 1
  let w := (p.weights[r.layer.toNat]?).map (·.record)
  let enc := ((r.opened).bind (inputValues p.desc.inputFormat)).bind fun vals =>
    encodeRecord p.desc w r.head.toNat half r.firstToken.toNat vals q.body
  let q1 := { q with accepted := q.accepted ++ [(r.head.toNat, half, r.firstToken.toNat, r.tokenCount.toNat)] }
  match enc with
  | some (body, n) => ({ q1 with body := body }, n)
  | none => ({ q1 with rejected := true }, 0)

/-- Steps 4 and 5 of Table 6.10: a codec unit of a record has ended; after the last the record is accepted and charged, and a
complete page goes to the crypto engines for its seal. [DESIGN CHOICE, log 13] -/
def recordEncoded (id part : Nat) (u : EUnit) (s : State) : State :=
  match (findIncoming s id).bind fun x => (incomingPage s x).map fun y => (x, y) with
  | none => s
  | some (x, g, p, page) =>
    if part + 1 < encodeParts p.desc x.record then startUnit .codec { newUnit x.cls (.encode id (part + 1)) 0 0 with weights := u.weights } s
    else
      let (q, sat) := encodedPage p x.record page
      let s1 := countJob g.job (fun k => { k with codecSaturations := k.codecSaturations + sat })
        (setUse p.tenant (fun u => { u with ingestBytes := u.ingestBytes + 0x40 + x.record.payloadLen.toNat }) s)
      let s2 := startRecords (recordDone x .accepted (setIngestPage x.ingest q s1))
      if pageComplete p.desc q then startUnit .crypto (newUnit x.cls (.sealIngest x.ingest q.block q.layer 0) 0 0) s2 else s2

/-- INGEST_PAGE_COMPLETE: TILE_CHECK is computed, and the seal, which takes the next WRITE_NO, under the newest epoch (R166,
R167, R187, R403); a mover then writes the page to T1 (Table 1.5). [DESIGN CHOICE, log 13] -/
def pageSealed (i block layer part : Nat) (s : State) : State :=
  match (findIngest s i).bind fun g => (ingestProfile s g).map fun p => (g, p, ingestPage p.desc g block layer) with
  | none => s
  | some (g, p, page) =>
    if (part + 1) * 32768 < pageLen p.desc then startUnit .crypto (newUnit g.cls (.sealIngest i block layer (part + 1)) 0 0) s
    else
      let q := sealedPage s p.tenant (regGenOf s p.tenant) (g.keys.getD (block - g.base - 1) 0) block g.variant (pageTiles p.desc) layer
        ((epochsOf s p.tenant).newest % 4) (s.tiers.writeNo + 1) page.body
      let s1 := setIngestPage i { page with
        writeNo := some q.writeNo, epoch := q.sealEpoch, pageSeal := q.pageSeal, tileChecks := q.tileChecks }
        { s with tiers := { s.tiers with writeNo := s.tiers.writeNo + 1 } }
      startUnit .mover (newUnit g.cls (.storeIngest i block layer 0) 0 0) s1

/-- A part of a sealed page is in T1; after the last the page is stored. [DESIGN CHOICE, log 13] -/
def pageStored (i block layer part : Nat) (s : State) : State :=
  match (findIngest s i).bind fun g => (ingestProfile s g).map fun p => (g, p, ingestPage p.desc g block layer) with
  | none => s
  | some (g, p, page) =>
    if (part + 1) * 65536 < pageLen p.desc then startUnit .mover (newUnit g.cls (.storeIngest i block layer (part + 1)) 0 0) s
    else setIngestPage i { page with stored := true } s

/-- A page of an ingest fails a check on its way: what it held is discarded (R156). [DEDUCED, log 166] -/
def dropIngestPage (i block layer : Nat) (s : State) : State :=
  setIngest i (fun g => { g with pages := g.pages.filter fun y => !(y.block == block && y.layer == layer) }) s

/-- Whether an ingest still has a record or a page under way (R194). -/
def ingestBusy (s : State) (g : Ingest) : Bool :=
  (s.tiers.incoming.any fun x => x.ingest == g.index) || g.pages.any fun q => match ingestProfile s g with
    | none => false
    | some p => pageComplete p.desc q && !q.stored

/-! ## Ends -/

/-- Whether every page of a new block is complete, and whether one was rejected under R127. -/
def blockComplete (d : ProfileDesc) (g : Ingest) (block : Nat) : Bool :=
  (List.range d.layers.toNat).all fun l => g.pages.any fun p => p.block == block && p.layer == l && p.stored
def blockRejected (g : Ingest) (block : Nat) : Bool := g.pages.any fun p => p.block == block && p.rejected

/-- The layer groups of a profile (R61). -/
def layerGroups (d : ProfileDesc) : Nat := min 8 d.layers.toNat

/-- T1 granules of one extent of a profile (R164), and of all the extents of one block. -/
def groupGranules (d : ProfileDesc) (g : Nat) : Nat :=
  let l := d.layers.toNat
  let n := groupFirst l (layerGroups d) (g + 1) - groupFirst l (layerGroups d) g
  ceilDiv (n * headerBytes (pageTiles d)) 512 + n * (pageLen d / 512)
def blockGranules (d : ProfileDesc) : Nat := sumOf (groupGranules d) (List.range (layerGroups d))

/-- Gives back granules of a reservation. -/
def unreserve (n : Nat) (s : State) : State :=
  { s with tiers := { s.tiers with t1Reserved := s.tiers.t1Reserved - n, t1Free := s.tiers.t1Free + n } }

/-- An ingest leaves the table: its records under way, its slots, its reservation and its profile go, and its index joins the
free order. -/
def endIngest (g : Ingest) (s0 : State) : State :=
  let mine := s0.tiers.incoming.filter fun x => x.ingest == g.index
  let work := fun (w : UnitWork) => match w with
    | .openRecord id => mine.any fun x => x.id == id
    | .encode id _ => mine.any fun x => x.id == id
    | .sealIngest i _ _ _ => i == g.index
    | .storeIngest i _ _ _ => i == g.index
    | _ => false
  let s := mine.foldl (fun s x => giveSlots x.held s) (discardRunning work (dropQueued work
    { s0 with tiers := { s0.tiers with incoming := s0.tiers.incoming.filter fun x => x.ingest != g.index } }))
  let s1 := giveLanding (fun x => x.holder == .ingest g.index) s
  let s2 := unreserve g.reserved s1
  let left := s2.tiers.ingests.filter fun x => x.index != g.index
  let s3 := { s2 with tiers := { s2.tiers with ingests := left, ingestPool := s2.tiers.ingestPool.give g.index } }
  match ingestProfile s g with
  | none => s3
  | some p => leaveProfile p.slot s3

/-- Whether a command is the INGEST_COMMIT that an ingest has accepted. -/
def commitOf (g : Ingest) (c : Cmd) : Bool :=
  match c.instr with
  | .ingestCommit _ a => c.job == some g.job && a.ingestHandle == ingestHandle g && c.phase == 1
  | _ => false

/-- Landing slots that a job holds, for ingests and query slots alike (R192, R226). -/
def jobSlots (s : State) (j : Nat) : Nat := (s.tiers.landing.filter fun x => x.job == j).length

/-- R195: pulls in flight, and a commit that has inserted nothing, complete with ST_CANCELLED, and nothing becomes
visible. [DEDUCED, log 37, 140] -/
def abortIngest (g : Ingest) (s : State) : State :=
  let s1 := (s.jobs.cmds.filter (pullOf g)).foldl (fun s c => replyPull c .cancelled s) s
  let s2 := (s1.jobs.cmds.filter (commitOf g)).foldl (fun s c => fail c .cancelled s) s1
  endIngest g s2

end Sys2Proof.Machine
end

