-- ==== Sys2Proof/Machine/JobOps.lean ====
section
/-! DEFINITION. The ends of jobs, lanes, queue pairs and ring pairs (R288, R301, R307, R343, R356, R367, R370), and
what a stop-all or a compute-domain reset does to the compute domain (Tables 11.1, 14.11, 16.4). -/
namespace Sys2Proof.Machine

/-! ## Closing a job (Table 11.1) -/

/-- Step 3 of Table 11.1: later packets find no job; storyboards, memberships and ingests end (R307). An ingest whose
blocks are being inserted runs to its commit's reply (Table 6.10). [DEDUCED, log 69] -/
def startClose (j : Nat) (slot : Option Nat) (s : State) : State :=
  let s1 := setJob j (fun x => { x with closing := true, closeSlot := slot }) s
  let s2 := (s1.eng.storyboards.filter fun b => b.job == j).foldl (fun s b => abortSb b.id .cancelled s) s1
  let s3 := (s2.eng.memberships.filter fun m => m.job == j).foldl (fun s m => killMember m.index .cancelled s) s2
  (s3.tiers.ingests.filter fun g => g.job == j && g.phase != .inserting && g.phase != .undoing).foldl (fun s g => abortIngest g s) s3

/-- A queue pair whose binding has ended is disconnected by DREQ once its last reply is out (R343), and its context is pinned no
longer (R345). [DEDUCED, log 44] -/
def disconnectQp (qpn : Nat) (s : State) : State :=
  match findQp s qpn with
  | none => s
  | some q =>
    if q.state != .ready then s
    else if (formsOf s qpn).isEmpty then
      emit (.cmDreq qpn) (setQp qpn (fun q => { q with state := .disconnecting, leaveDue := false, pinnedInCache := false }) s)
    else setQp qpn (fun q => { q with leaveDue := true, pinnedInCache := false }) s

/-- Commands of a job that read or write its bounce region or a queue pair's buffers (R356, R370): pulls and
descriptor reads. [DEDUCED, log 69] -/
def readsBuffers (c : Cmd) : Bool :=
  match c.instr with
  | .ingestPull .. => true
  | _ => c.wait == .descRead

/-- Completes a command whose reads cannot go on. -/
def cancelReads (p : Cmd → Bool) (s : State) : State :=
  (s.jobs.cmds.filter fun c => readsBuffers c && p c).foldl (fun s c => match c.instr with
    | .ingestPull .. => replyPull c .cancelled s
    | _ => failDeliver c .cancelled s) s

/-- R370: with its primary ring pair a job loses its TO_HOST storyboards and memberships, and the commands that
use the region. [DEDUCED, log 74] -/
def losePrimary (j : Nat) (s : State) : State :=
  let s1 := (s.eng.storyboards.filter fun b => b.job == j && b.toHost).foldl (fun s b => failSb b.id s) s
  let s2 := (s1.eng.memberships.filter fun m => m.job == j && attendHost m.prm).foldl (fun s m => killMember m.index .cancelled s) s1
  cancelReads (fun c => c.job == some j && decide (0x800000 ≤ c.lane)) s2

/-- Unbinds a lane (R288); JOB_AUTO_CLOSE follows when it was the job's last. Of a job with several lanes, the one that ends
takes its own pulls with it, and the job's ingests end with the last (R195). [DEDUCED, log 44; DESIGN CHOICE, log 160] -/
def unbindLane (lane : Nat) (s : State) : State :=
  match findLane s lane with
  | none => s
  | some l =>
    let primary := ((findJob s l.job).bind (primaryLane s)) == some lane
    let s0 := if primary then losePrimary l.job s else s
    let s1 := { s0 with jobs := { s0.jobs with lanes := s0.jobs.lanes.filter fun x => x.lane != lane } }
    let s2 := if isRdmaLane lane then setQp lane (fun q => { q with pinnedInCache := false }) s1 else s1
    match findJob s2 l.job with
    | none => s2
    | some j => if !j.closing && lanesBound s2 j.index == 0 then startClose j.index none s2 else s2

/-- Whether step 4 of Table 11.1 is due: nothing of a closing job is left but its close, whose reply follows every other (R307). -/
def closeDue (s : State) (j : Job) : Bool :=
  j.closing && !(s.jobs.cmds.any fun c => c.job == some j.index && some c.slot != j.closeSlot)
    && !(s.eng.storyboards.any fun b => b.job == j.index) && !(s.eng.memberships.any fun m => m.job == j.index)
    && !(s.tiers.ingests.any fun g => g.job == j.index)
    && !(s.jobs.lanes.any fun l => l.job == j.index && !(formsOf s l.lane).isEmpty)

/-- Steps 4 and 5 of Table 11.1: the records are counted and freed, the close replies, lanes unbind, the entry is
free. [DEDUCED, log 69] -/
def finishJob (j : Job) (s : State) : State :=
  let rs := s.index.records.filter fun r => r.job == j.index
  let s1 : State := rs.foldl (fun s r => releaseRecord r.record s) (setJob j.index (fun x => { x with closing := false }) s)
  let lost : Nat := ((findJob s1 j.index).map (·.cancelledSinceClose)).getD 0
  let s2 : State := match j.closeSlot.bind (findCmd s1) with
    | none => s1
    | some c => complete c .ok noFlags (BitVec.ofNat 32 rs.length) (BitVec.ofNat 64 lost) s1
  let mine := (s2.jobs.lanes.filter fun l => l.job == j.index).map (·.lane)
  let s3 := { s2 with jobs := { s2.jobs with lanes := s2.jobs.lanes.filter fun l => l.job != j.index } }
  let s4 := mine.foldl (fun s l => if isRdmaLane l then disconnectQp l s else s) s3
  { s4 with jobs := { s4.jobs with table := s4.jobs.table.filter (fun x => x.index != j.index),
                                   pool := s4.jobs.pool.give j.index } }

/-! ## Queue pairs -/

/-- Everything that uses a queue pair ends (R356), after the event of `note`, and its lane unbinds. [DEDUCED, log 27] -/
def endQp (qpn : Nat) (note : Option Job → State → State) (s : State) : State :=
  match findQp s qpn with
  | none => s
  | some q =>
    if !(q.state == .ready || q.state == .awaitingRtu) then s
    else
      let job := (findLane s qpn).bind fun l => findJob s l.job
      let s1 := dropQueued (fun w => match w with
        | .send n _ _ => n == qpn
        | w => resends qpn w) (setQp qpn (fun q => { q with state := .error, held := [], sent := [], sending := none, rnrWaiting := false }) s)
      let s2 := note job s1
      let s3 := (s2.eng.storyboards.filter fun b => !b.toHost && b.target == qpn).foldl (fun s b => failSb b.id s) s2
      let s4 := (s3.eng.memberships.filter fun m => !attendHost m.prm && bitsOf m.prm.qpn.toNat 0 24 == qpn).foldl
        (fun s m => killMember m.index .cancelled s) s3
      let s5 := cancelReads (fun c => c.lane == qpn) s4
      unbindLane qpn s5

/-- QP_ERROR (R356): everything that uses the queue pair ends, EV_QP_FATAL is raised, the lane unbinds, DREQ goes out. -/
def qpError (qpn cause : Nat) (s : State) : State :=
  if qpCarries s qpn then
    emit (.cmDreq qpn) (endQp qpn (fun job => raise 0x0003 ((job.map (·.tenant)).getD 0) qpn cause (Int.ofNat ((job.map jobHandle).getD 0))) s)
  else s

/-- Whether anything still references a queue pair (R343). -/
def qpReferenced (s : State) (qpn : Nat) : Bool :=
  (s.eng.storyboards.any fun b => !b.toHost && b.target == qpn)
    || (s.eng.memberships.any fun m => !attendHost m.prm && bitsOf m.prm.qpn.toNat 0 24 == qpn)
    || (s.jobs.cmds.any fun c => c.lane == qpn || c.replyLane == qpn)

/-- A context whose disconnection is over is freed once nothing references it (R343). [DEDUCED, log 27] -/
def leaveQp (qpn : Nat) (s : State) : State :=
  setQp qpn (fun q => { q with state := .leaving }) s

/-- Frees a context: its index joins the free order. -/
def freeQp (qpn : Nat) (s : State) : State :=
  match findQp s qpn with
  | none => s
  | some q => { s with net := { s.net with qps := s.net.qps.filter (fun x => qpnOf x != qpn), qpPool := s.net.qpPool.give q.context } }

/-- Frees every context whose disconnection is over and that nothing references. [DEDUCED, log 27] -/
def freeLeaving (s : State) : State :=
  (s.net.qps.filter fun q => q.state == .leaving && !qpReferenced s (qpnOf q)).foldl (fun s q => freeQp (qpnOf q) s) s

/-! ## Ring pairs (R367, R368, Table 13.12) -/

/-- A ring pair at its reset values but for what the host configured. -/
def clearRing (r : RingPair) : RingPair :=
  { r with sqHead := 0, sqTail := 0, cqTail := 0, cqHead := 0, phase := true, reserved := 0, coalescing := false,
           coalescePending := false, waitingEntries := [], arriving := 0 }

/-- Clearing ENABLE (R367). -/
def disableRing (port ring : Nat) (s : State) : State :=
  unbindLane (ringLane port ring) (setRing port ring (fun r => { clearRing r with enable := false }) s)

/-- RING_PAIR_FAULT (R368). -/
def faultRing (port ring cause : Nat) (s : State) : State :=
  unbindLane (ringLane port ring)
    (setRing port ring (fun r => { r with fault := true, faultCause := cause, waitingEntries := [], arriving := 0 }) s)

/-- A function-level reset of one function (Table 13.12): its ring pairs and registers return to reset values. -/
def resetFunction (port link fn : Nat) (s : State) : State :=
  let mine := s.host.rings.filter fun r => r.port == port && r.link == link && r.fn == fn
  let s1 := mine.foldl (fun s r => disableRing r.port r.ring s) s
  let rs := s1.host.rings.filter fun r => !(r.port == port && r.link == link && r.fn == fn)
  let fs := updWhere (fun f : FuncRegs => f.port == port && f.link == link && f.fn == fn)
    (fun f => { f with events := 0, mask := 0x3F, vector := 0, msix := [], pba := [] }) s1.host.funcs
  { s1 with host := { s1.host with rings := rs, funcs := fs } }

/-- Every function of a link reset (R364, R384). -/
def resetLink (port link : Nat) (s : State) : State :=
  let fns := (((s.host.funcs.filter fun f => f.port == port && f.link == link).map (·.fn))
    ++ ((s.host.rings.filter fun r => r.port == port && r.link == link).map (·.fn))).eraseDups
  fns.foldl (fun s f => resetFunction port link f s) s

/-! ## Splice links -/

/-- PORT_KIND of the event codes (Table 10.17): Ethernet 1, host 2, splice 3, in [31:24] with the port below. -/
def portSource (kind port : Nat) : Nat := kind * 2 ^ 24 + port

/-- EV_PORT_DOWN and its function event (R366). [DEDUCED, log 99] -/
def portDown (kind port why : Nat) (s : State) : State := setFuncEvent 2 (raise 0x0001 0 (portSource kind port) why 0 s)
def portUp (kind port mode : Nat) (s : State) : State := setFuncEvent 2 (raise 0x0002 0 (portSource kind port) mode 0 s)

/-- Changes a splice port. -/
def setSplice (n : Nat) (f : SplicePort → SplicePort) (s : State) : State :=
  { s with splice := { s.splice with ports := updWhere (fun p => p.num == n) f s.splice.ports } }

/-- A splice link goes down (R428): its queued messages are dropped and its key is erased; EV_PORT_DOWN when it was up.
[DEDUCED, log 100] -/
def spliceDown (n why : Nat) (s : State) : State :=
  match s.splice.ports.find? fun p => p.num == n with
  | none => s
  | some p =>
    let e := getEngine s (.splice n)
    let s1 := putEngine (.splice n) { e with lcq := [], beq := [] } s
    let s2 := setSplice n (fun p => { p with step := .down, txCounter := 0, contribution := 0, peerContribution := 0, offeredRoot := none,
                                             rootSent := false, frameRetries := 0 }) s1
    if p.step == .up then portDown 3 n why s2 else s2

/-- SHA-512 of the domain root, zeros when there is none (Table 15.1). -/
def domainDigest (r : Option Nat) : Digest := (r.map rootDigest).getD 0

/-- Sends a bring-up message, which is not sealed (Table 15.3). -/
def sendBringUp (n : Nat) (b : SpliceBody) (s : State) : State :=
  emit (.splice n s.cfg.deviceNumber 0 0 0 0 false false 0 b) s

/-- Whether a port may begin bring-up: its PHY is trained, the index serves lookups (Table 17.9), and no reset runs.
[DEDUCED, log 100] -/
def bringUpAllowed (s : State) (p : SplicePort) : Bool :=
  p.phy && p.step == .down && decide (8 ≤ s.power.step) && !s.sec.transition && s.power.flushing.isNone
    && !((s.cfg.ports[6 + p.num]?).map (·.adminDown)).getD false

/-- Step 2 of Table 15.1: HELLO with a fresh nonce. [DEDUCED, log 100] -/
def startBringUp (n : Nat) (s : State) : State :=
  match s.splice.ports.find? fun p => p.num == n with
  | none => s
  | some p =>
    if bringUpAllowed s p then
      let (k, s1) := useFree s
      sendBringUp n (.hello s.cfg.deviceNumber s.sec.resetGen (BitVec.ofNat 256 (Config.drbg k)) (domainDigest s.persist.root))
        (setSplice n (fun p => { p with step := .hello }) s1)
    else s

/-- Starts bring-up on every port that may begin it. -/
def bringUpAll (s : State) : State := (List.range 4).foldl (fun s n => startBringUp n s) s

/-! ## The compute domain (step 6 of Table 16.4) -/

/-- Every engine abandons its unit, its queues are empty, and the pools are whole again. -/
def clearEngines (s : State) : State :=
  let wipe := fun (e : Engine) => { e with lcq := [], beq := [], busy := [] }
  let pool := fun (p : Pool) => { p with lcFree := p.reserveSize, sharedFree := p.total - p.reserveSize }
  let stage := pool s.eng.stage
  let ps := fun (l : List Program) => l.map fun p => { p with held := { lc := 0, shared := 0 } }
  let as := s.flash.assembling.map fun a => { a with held := { lc := 0, shared := 0 } }
  let s1 : State := { s with flash := { s.flash with programs := ps s.flash.programs, waiting := ps s.flash.waiting, assembling := as } }
  { s1 with eng := { s.eng with
      tiles := wipe s.eng.tiles, codecs := wipe s.eng.codecs, cryptos := wipe s.eng.cryptos, movers := wipe s.eng.movers,
      hashers := s.eng.hashers.map wipe, rdma := s.eng.rdma.map wipe, hostEng := s.eng.hostEng.map wipe,
      spliceEng := s.eng.spliceEng.map wipe, control := wipe s.eng.control, codecBufs := [], tileWeights := [],
      stage := { stage with sharedFree := stage.sharedFree - s.faults.badSlots },
      ethCredits := s.eng.ethCredits.map pool, hostCredits := s.eng.hostCredits.map pool, spliceCredits := s.eng.spliceCredits.map pool } }

/-- Every transfer between tiers is abandoned (R172); a T3 placement gives back its granules. -/
def abandonMoves (s : State) : State := s.tiers.moves.foldl (fun s m => abandonMove m s) s

/-- A pool that gets every index in use back, in ascending order (R32, R53, R189). -/
def giveAll (used : List Nat) (p : IndexPool) : IndexPool :=
  (sortBy (fun a b => decide (a < b)) used).foldl (fun p i => p.give i) p

/-- The tables of step 6 of Table 16.4 are cleared; generations and free orders are kept. -/
def clearTables (s : State) : State :=
  let mgmt := s.jobs.cmds.filter fun c => c.job.isNone
  let jobs := { s.jobs with
    table := [], pool := giveAll (s.jobs.table.map (·.index)) s.jobs.pool, lanes := [], cmds := mgmt,
    slotsFree := Config.commandSlots - mgmt.length }
  let nodes := s.index.nodes.map fun n => { n with entryPresent := false }
  let index := { s.index with
    nodes := nodes.filter (fun n => !n.dying && (n.keyed || !(n.purged || n.lost))), records := [],
    recordPool := giveAll (s.index.records.map (·.record)) s.index.recordPool, dropsInFlight := 0, lookups := [],
    continuations := [], remote := [], slivers := s.index.slivers.map fun v => { v with lcq := [], beq := [], log := [], k := 0, outbox := [] } }
  let pool := s.tiers.landingPool
  let tiers := { s.tiers with
    ingests := [], ingestPool := giveAll (s.tiers.ingests.map (·.index)) s.tiers.ingestPool, landing := [],
    landingPool := { pool with lcFree := pool.reserveSize, sharedFree := pool.total - pool.reserveSize },
    t1Free := s.tiers.t1Free + s.tiers.t1Reserved, t1Reserved := 0, weightsT1 := 0, promoteQueue := [], evicting := [] }
  let eng := { s.eng with
    profiles := [], storyboards := [], memberships := [], batches := [],
    memberPool := giveAll (s.eng.memberships.map (·.index)) s.eng.memberPool }
  { s with jobs := jobs, index := index, tiers := tiers, eng := eng,
           marr := { s.marr with entries := s.marr.entries.map clearEntry, reports := [], refilled := [],
                                 sections := s.marr.sections.map fun x => { x with probes := [], requests := [] } } }

/-- Nodes that the cleared tables leave without a pin or a directory entry go with their copies. -/
def dropUnkeyed (s : State) : State :=
  (s.index.nodes.filter fun n => n.purged || n.lost || n.dying).foldl (fun s n => dropAll n.ptr s) s

/-- Dates the T3 weights of every loaded profile as unloaded (R150). [DEDUCED, log 114] -/
def unloadAll (s : State) : State :=
  let ws := s.persist.weights.map fun w =>
    if s.eng.profiles.any fun p => p.tenant == w.tenant && p.desc == w.desc then { w with unloadedAt := some s.clk.slate } else w
  { s with persist := { s.persist with weights := ws } }

/-- A reply that a queue pair transmits at a stop-all, which waits for no engine (R357). [DEDUCED, log 16] -/
def putForm (qpn : Nat) (o : Output) (s : State) : State :=
  if ((findQp s qpn).map (qpOpen s)).getD false then emit o s else s

/-- A plain ST_JOBS_LOST on its reply lane (R301). -/
def putLost (lane : Nat) (tag : U64) (s : State) : State :=
  let s1 := tick s
  let r : Reply := { lane := lane, tag := tag, status := .jobsLost, flags := { noFlags with plain := true }, result0 := 0, result1 := 0,
                     slate := s1.clk.slate, sealed := none }
  if isRdmaLane lane then putForm lane (.reply r) s1 else putReply .lc r s1

/-- The replies that queue pairs still had to send, in their order: no sealed message leaves any more, so that a reply that was
sealed becomes a plain ST_JOBS_LOST. [DEDUCED, log 16] -/
def putForms (s : State) : State :=
  s.net.qps.foldl (fun s q =>
    (sortBy (fun a b => decide (a.1 < b.1)) (formsOf s (qpnOf q))).foldl (fun s x => match x.2 with
      | .reply r => if r.sealed.isSome then putLost (qpnOf q) r.tag s else putForm (qpnOf q) (.reply r) s
      | _ => s) s) s

/-- What a ring pair holds in reserve once its commands have replied: the entry of a packet that is still to arrive (R373). -/
def freeReserved (s : State) : State :=
  { s with host := { s.host with rings := s.host.rings.map fun r => { r with reserved := r.arriving } } }

/-- Step 4 of Table 16.4: each command of a job in flight receives a plain ST_JOBS_LOST, in slate order. -/
def loseCommands (s : State) : State :=
  freeReserved ((sortBy (fun a b => decide (a.acceptSlate < b.acceptSlate)) (s.jobs.cmds.filter fun c => c.job.isSome)).foldl
    (fun s c => putLost c.replyLane c.tag (freeSlot c.slot s)) (putForms s))

/-- Step 5 of Table 16.4: every queue pair in error with a DREQ and no event (R357), every ring-pair lane unbound,
every splice link down. -/
def losePorts (s : State) : State :=
  let s1 := s.net.qps.foldl (fun s q =>
    if q.state == .ready || q.state == .awaitingRtu then emit (.cmDreq (qpnOf q)) s else s) s
  let qs := s1.net.qps.map fun q =>
    { q with state := if q.state == .ready || q.state == .awaitingRtu then .error else q.state, held := [], sent := [],
             leaveDue := false, sending := none, cues := [], pinnedInCache := false, rnrWaiting := false }
  (List.range 4).foldl (fun s n => spliceDown n 1 s) { s1 with net := { s1.net with qps := qs } }

/-- Steps 1, 2, 4, 5 and 6 of Table 16.4, common to a stop-all and a compute-domain reset: TRANSITION, keys,
commands, ports, tables. Debug unlock ends (R415). -/
def clearCompute (s : State) : State :=
  let s1 := { s with sec := { s.sec with transition := true, hashKeys := [], memKeys := [] },
                     cfg := { s.cfg with debugState := 0 } }
  clearTables (abandonMoves (clearEngines (dropUnkeyed (losePorts (loseCommands (unloadAll s1))))))

/-- Live-epoch keys as the root of trust reloads them (Table 14.11, step 4). -/
def reloadKeys (s : State) : State :=
  let live := s.cfg.tenants.filter (·.registered)
  let hk := live.map fun t => (t.tenant, t.regGen)
  let mk := live.flatMap fun t =>
    let e := epochsOf s t.tenant
    (List.range (e.newest + 1 - e.oldest)).map fun i => (t.tenant, e.oldest + i)
  { s with sec := { s.sec with hashKeys := hk, memKeys := mk } }

/-- Steps 3 to 5 of Table 14.11 and the end of Table 16.4: the reset generation rises once and reaches T3, the keys
are reloaded, intake reopens. A DEVICE_RESET that joined the reset replies with its generation. [DEDUCED, log 90] -/
def finishCompute (s : State) : State :=
  let s1 := { s with sec := { s.sec with resetGen := s.sec.resetGen + 1, transition := false, stopAllPending := false },
                     persist := { s.persist with resetGen := s.sec.resetGen + 1 } }
  let slots := s1.sec.resetSlots
  let s2 := setFuncEvent 4 (reloadKeys { s1 with sec := { s1.sec with resetSlots := [] } })
  slots.foldl (fun s slot => match findCmd s slot with
    | none => s
    | some c => done c (BitVec.ofNat 32 s2.sec.resetGen) 0 s) (bringUpAll s2)

/-- The key slots of jobs, models and splice links are erased (R448). -/
def eraseSessionKeys (s : State) : State :=
  let js := s.jobs.table.map fun j => { j with keys := { command := 0, reply := 0, link := 0 } }
  let ps := s.eng.profiles.map fun p => { p with key := none }
  let ls := s.splice.ports.map fun p => { p with contribution := 0, peerContribution := 0 }
  { s with jobs := { s.jobs with table := js }, eng := { s.eng with profiles := ps }, splice := { s.splice with ports := ls } }

/-- STOP_ALL (R446): steps 1 to 6 of Table 16.4. A fault reported during them joins the one that runs (R448); after
the hold-up flush has begun only the job, model and splice keys are erased, and the full-chip reset does the rest. -/
def stopAll (unit detail : Nat) (s : State) : State :=
  if s.sec.stopAllPending then s
  else if s.power.flushing.isSome then eraseSessionKeys s
  else
    let s1 := { s with sec := { s.sec with stopAllPending := true } }
    let s2 := setFuncEvent 3 (raise 0x0005 0 unit detail (Int.ofNat (s.sec.resetGen + 1)) (countFault 13 1 s1))
    clearCompute (setFuncEvent 4 s2)

end Sys2Proof.Machine
end

