-- ==== Sys2Proof/Machine/FaultOps.lean ====
section
/-! DEFINITION. Data errors and their reporting (R442 to R445), lost weights (R155), the hold-up flush (Table 17.3)
and the full-chip reset (Table 17.7). -/
namespace Sys2Proof.Machine

/-! ## Data errors -/

/-- Abandons every transfer of a node (R444). -/
def abandonMovesOf (ptr : Nat) (s : State) : State :=
  abandonWhere ptr (fun _ => true) s

/-- Whether a storyboard has still to read a node. -/
def sbNeeds (b : Storyboard) (ptr : Nat) : Bool :=
  b.abort.isNone && b.ptrs.contains ptr
    && (List.range (b.lastLayer + 1 - b.firstLayer)).any fun i => !((layerWork b (b.firstLayer + i)).notified)

/-- The (batch, slot, membership) of every ATTEND whose session `p` names. -/
def attendsWhere (s : State) (p : Membership → Bool) : List (Nat × Nat × Nat) :=
  s.eng.batches.flatMap fun b => (b.members.filter fun x => !x.gone && !x.acked
    && ((findMember s x.membership).map p).getD false).map fun x => (b.id, x.slot, x.membership)

/-- Ends the commands that need a lost node (R444): storyboards under Table 7.6, ATTENDs with their sessions
broken (R245). [DEDUCED, log 132] -/
def failReaders (ptr : Nat) (s : State) : State :=
  let s1 := (s.eng.storyboards.filter fun b => b.opened && sbNeeds b ptr).foldl (fun s b => match sbLoss s b with
    | none => s
    | some st => abortSb b.id st s) s
  let hit := attendsWhere s1 fun m => m.ptrs.contains ptr
  let s2 := hit.foldl (fun s x => setMember x.2.2 (fun m => { m with broken := true }) s) s1
  hit.foldl (fun s x => failAttend x.1 x.2.1 x.2.2 .dataLost s) s2

/-- R442 and R444: the node is LOST and its readers end. -/
def loseData (ptr : Nat) (s : State) : State :=
  if ((findNode s ptr).map fun n => n.lost).getD true then s
  else failReaders ptr (loseNode ptr (abandonMovesOf ptr s))

/-- The bad copy of an extent in a tier is handled (R442, R443): masked when it is clean and another tier holds a
copy, a lost T3 copy under R281, and otherwise the node is lost. -/
def dataError (ptr g : Nat) (bad : Tier) (s : State) : State :=
  match (findNode s ptr).bind fun n => groupAt n g with
  | none => s
  | some x =>
    let clean := match bad, x.dirty with
      | .t1, .t1 => false
      | .t2, .t2 => false
      | _, _ => true
    if clean && otherCopy x bad then
      match bad with
      | .t3 => countFault 12 1 (loseT3 ptr g s)
      | t => maskFault ptr g t s
    else loseData ptr s

/-! ## Lost weights (R155) -/

/-- A profile none of whose copies of a record is good: it is LOST, EV_MODEL_LOST is raised once, and the commands
that wait for its weights end. -/
def profileLost (slot firstLayer : Nat) (s : State) : State :=
  match findProfile s slot with
  | none => s
  | some p =>
    if p.lost then s
    else
      let s1 := raise 0x0009 p.tenant p.desc.modelId.toNat p.variant (Int.ofNat firstLayer)
        (setProfile slot (fun p => { p with lost := true }) s)
      let s2 := (s1.eng.storyboards.filter fun b => b.opened && b.abort.isNone && b.slots.contains slot).foldl
        (fun s b => match sbLoss s b with
          | none => s
          | some st => abortSb b.id st s) s1
      let s3 := (attendsWhere s2 fun m => m.slots.contains slot).foldl (fun s x => failAttend x.1 x.2.1 x.2.2 .modelLost s) s2
      loseIngests slot s3
where
  /-- The pulls of the profile's ingests end, and the records that wait for its weights are rejected. -/
  loseIngests (slot : Nat) (s : State) : State :=
    let gs := s.tiers.ingests.filter fun g => (ingestProfile s g).map (·.slot) == some slot
    let s1 := gs.foldl (fun s g => (s.jobs.cmds.filter fun c => pullOf g c && c.wait == .reads).foldl (fun s c => replyPull c .modelLost s) s) s
    (s1.tiers.incoming.filter fun x => gs.any fun g => g.index == x.ingest).foldl (fun s x =>
      let work := fun (w : UnitWork) => match w with
        | .openRecord id => id == x.id
        | .encode id _ => id == x.id
        | _ => false
      recordDone x .rejected (discardRunning work (dropQueued work s))) s1

/-- A weights record with one tier's copy replaced. -/
def withWeights (t : Tier) (good : Bool) (w : WeightsCopy) : WeightsCopy :=
  match t with
  | .t1 => { w with t1 := good }
  | .t2 => { w with t2 := good }
  | .t3 => { w with t3 := good }

/-- Changes the copies of one record of a profile. -/
def setWeights (slot layer : Nat) (f : WeightsCopy → WeightsCopy) (s : State) : State :=
  setProfile slot (fun p => { p with weights := p.weights.modify layer f }) s

/-- Whether a unit of a copy of one weights record is queued or runs. -/
def weightsBusy (slot layer : Nat) (src dst : Tier) (s : State) : Bool :=
  (allWork s).any fun w => match w with
    | .weightsMove p l a b _ => p == slot && l == layer && a == src && b == dst
    | .weightsCrypt p l a b _ => p == slot && l == layer && a == src && b == dst
    | _ => false

/-- Starts a copy of a weights record from one tier to another (R153): movers carry it, and a crypto engine takes it under K_mem
or out of it (R172). [DEDUCED, log 64] -/
def copyWeights (slot layer : Nat) (src dst : Tier) (s : State) : State :=
  match findProfile s slot with
  | none => s
  | some p => if weightsBusy slot layer src dst s then s
    else queueUnit .mover (newUnit .be (.weightsMove slot layer src dst (recordSize p.desc / 65536)) 0 0) s

/-- A copy of a weights record is bad (R155): it is restored from the highest good one, and with none left the profile is
LOST. [DEDUCED, log 64] -/
def weightsBad (slot layer : Nat) (bad : Tier) (s : State) : State :=
  let s1 := setWeights slot layer (withWeights bad false) s
  let move := fun (src dst : Tier) => copyWeights slot layer src dst s1
  match (findProfile s1 slot).bind fun p => p.weights[layer]? with
  | none => s
  | some w =>
    if w.t1 then move .t1 bad
    else if w.t2 then move .t2 .t1
    else if w.t3 then move .t3 .t1
    else profileLost slot layer s1

/-! ## Units whose input is bad (R440, R444) -/

/-- A move whose data cannot be read is abandoned, and the copy that it read is bad (R442, R443). -/
def failMove (id : Nat) (s : State) : State :=
  match findMove s id with
  | none => s
  | some m => if m.why == .reseal then abandonWhere m.ptr (fun x => x.why == .reseal) s else abandonMove m s
def badSource (id : Nat) (s : State) : State :=
  match findMove s id with
  | none => s
  | some m => advanceAttention (advanceAll (dataError m.ptr m.group m.src (failMove id s)))

/-- A tile of a storyboard is not started: its first engine's output was discarded. -/
def undoTile (sb l tile : Nat) (s : State) : State :=
  setLayer sb l (fun w => { w with started := w.started.filter (fun t => t != tile), decoded := w.decoded.filter fun t => t != tile }) s

/-- A span of a batch is not started: its staged tiles go. -/
def undoSpan (id head span : Nat) (s : State) : State :=
  match findBatch s id with
  | none => s
  | some b =>
    let mine := b.staged.filter fun x => x.1 == head && x.2.1 == span
    let rest := b.staged.filter fun x => !(x.1 == head && x.2.1 == span)
    setBatch id (fun x => { x with started := x.started.filter (fun p => p != (head, span)), staged := rest })
      (mine.foldl (fun s x => giveSlots x.2.2 s) s)

/-- The check of a unit's rerun failed too: its input is bad, and its command is handled under R444. A unit that reads a
page in T1 found a bad copy there, which another tier may mask (R443); the unit is then run again once the good copy
is in T1. [DEDUCED, log 49, 64, 127] -/
def inputBad (u : EUnit) (s : State) : State :=
  let s1 := giveSlots u.held s
  match u.work with
  | .hash run _ => match s1.index.lookups.find? fun l => l.run == run with
    | none => s1
    | some l =>
      if l.isOver then { s1 with index := { s1.index with lookups := s1.index.lookups.filter fun x => x.run != run } }
      else match findCmd s1 l.slot with
        | none => s1
        | some c => fail c .dataLost (dropRun l.slot s1)
  | .move id => badSource id s1
  | .moveCode id => badSource id s1
  | .moveCrypt id _ => badSource id (countFault 10 1 s1)
  | .weightsMove slot layer src _ _ => weightsBad slot layer src s1
  | .weightsCrypt slot layer src _ _ => weightsBad slot layer src s1
  | .decode sb l tile _ => badTile sb l tile s1
  | .project sb l tile _ => badTile sb l tile s1
  | .stageTile sb l tile _ => badTile sb l tile s1
  | .resend .. => s1
  | .openRecord id => badRecord id s1
  | .encode id _ => badRecord id s1
  | .sealIngest i block layer _ => dropIngestPage i block layer s1
  | .storeIngest i block layer _ => dropIngestPage i block layer s1
  | .crypt sb l tile _ => badSealInput sb l tile s1
  | .send qpn what _ => badMessage what (setQp qpn (fun q => { q with sending := none }) s1)
  | .hostSend _ what _ => badMessage what s1
  | .hostRead _ slot _ _ => failSlot slot s1
  | .span b head span _ => badSpan b head span s1
  | .decodeSpan b head span _ => badSpan b head span s1
  | .projectSpan b head span _ => badSpan b head span s1
  | .merge b _ _ _ => failBatch b s1
  | .sealResult slot _ => failResult slot s1
  | .spliceMsg .. => s1
  | .discard => s1
  | .step _ => s1
where
  /-- An opened record fails a check in its stage slots: nothing of it is kept. -/
  badRecord (id : Nat) (s : State) : State :=
    match findIncoming s id with
    | none => s
    | some x => recordDone x .rejected s
  /-- The T1 copy of the page that a tile of a storyboard comes from is bad: the tile is not started. -/
  badTile (sb l tile : Nat) (s : State) : State :=
    match findSb s sb with
    | none => s
    | some b => match sbDesc s b with
      | none => s
      | some d =>
        match (b.ptrs[tileBlock d b.prm (layerWork b l).raw tile]?).bind (findNode s) with
        | none => abortSb sb .dataLost s
        | some n => advanceAttention (advanceAll (dataError n.ptr (groupOfLayer n.layers l) .t1 (undoTile sb l tile s)))
  /-- What a crypto unit seals is bad: a page straight from T1, or a decoded tile in stage slots, which ends the command. -/
  badSealInput (sb l tile : Nat) (s : State) : State :=
    match findSb s sb with
    | none => s
    | some b =>
      if (layerWork b l).decoded.contains tile then abortSb sb .dataLost s else badTile sb l tile s
  /-- The command of a message ends. -/
  badMessage (what : SentWhat) (s : State) : State :=
    match what with
    | .sbMsg sb _ _ _ => abortSb sb .dataLost s
    | .formed .. => s
    | .result slot => failResult slot s
    | .readDesc slot _ _ => failSlot slot s
    | .readPull slot _ _ => failSlot slot s
  /-- A command ends with ST_DATA_LOST. -/
  failSlot (slot : Nat) (s : State) : State :=
    match findCmd s slot with
    | none => s
    | some c => failDeliver c .dataLost s
  /-- The T1 copies of the pages of a span of a batch are bad: the span is not started. -/
  badSpan (id head span : Nat) (s : State) : State :=
    match findBatch s id with
    | none => s
    | some b => match batchMember s b with
      | none => s
      | some m => match memberDesc s m with
        | none => s
        | some d =>
          advanceAttention (advanceAll ((blocksOfSpan d m.ptrs.length span).foldl (fun s i =>
            match (m.ptrs[i]?).bind (findNode s) with
            | none => s
            | some n => dataError n.ptr (groupOfLayer n.layers b.layer) .t1 s) (undoSpan id head span s)))
  /-- Every ATTEND of a batch ends. -/
  failBatch (id : Nat) (s : State) : State :=
    match findBatch s id with
    | none => s
    | some b => (b.members.filter fun m => !m.gone && !m.acked).foldl (fun s m => failAttend id m.slot m.membership .dataLost s) s
  /-- One ATTEND ends. -/
  failResult (slot : Nat) (s : State) : State :=
    match findAttend s slot with
    | none => s
    | some (b, x) => failAttend b.id slot x.membership .dataLost s

/-- The codec weights that a unit read are bad (R155): its output is discarded, its work waits until the record is restored.
[DEDUCED, log 64] -/
def weightsFailed (u : EUnit) (s : State) : State :=
  match u.weights with
  | none => inputBad u s
  | some (slot, layer, _) =>
    let s1 := match u.work with
      | .decode sb l tile _ => undoTile sb l tile (giveSlots u.held s)
      | .project sb l tile _ => undoTile sb l tile (giveSlots u.held s)
      | .decodeSpan b h x _ => undoSpan b h x (giveSlots u.held s)
      | .projectSpan b h x _ => undoSpan b h x (giveSlots u.held s)
      | .encode .. => queueUnit .codec u s
      | _ => giveSlots u.held s
    advanceAttention (advanceAll (weightsBad slot layer .t1 s1))

/-- A unit of a wanted kind of work ends on an instance: `k` goes on with it when its check passed. A failed check discards the
output; the unit runs again elsewhere, and a second failure means that its input is bad (R440).
[DEDUCED, log 49; DESIGN CHOICE, log 143] -/
def unitEnded (kind : EngineKind) (inst : Nat) (chk : UnitCheck) (want : UnitWork → Bool) (k : EUnit → State → State)
    (s : State) : State :=
  match runningUnit s kind inst with
  | none => s
  | some u =>
    if !want u.work then s
    else match chk with
      | .passed => k u (endUnit kind inst u s)
      | .failed => if u.reruns == 0 then rerunUnit kind inst u s else inputBad u (endUnit kind inst u s)
      | .inputFailed => inputBad u (endUnit kind inst u s)
      | .weightsFailed => weightsFailed u (endUnit kind inst u s)

/-! ## Hold-up flush and full-chip reset (Tables 17.3, 17.7) -/

/-- What T3 and the gaffer keep over a full-chip reset. -/
def keptMedia (s : State) : Persist := { s.persist with faults := s.faults.counters }
def keptPower (s : State) : Power :=
  { s.power with step := 0, clocksOn := false, skip := 0, flushing := none,
                 fatalRecord := if s.power.flushing.isSome then none else s.power.fatalRecord,
                 throttledNow := false, trained := none }

/-- FULL_CHIP_RESET: everything but T3, the fuses, boot NOR and the gaffer's own state is cleared (Table 17.7). The
model's own fields stay, as do the levels that the hosts hold PERST_N at. [DEDUCED, log 126] -/
def fullChipReset (s : State) : State :=
  let c := State.cold (keptMedia s) s.boot (keptPower s) s.clk
  { c with pending := s.pending, out := s.out, free := s.free,
           host := { c.host with links := s.host.links.map fun l => { l with up := false, vfs := 0 } } }

/-- Steps 1 and 2 of Table 17.3: a second trigger joins (R465). Engines stop, no command in flight will be
replied to (R464), slots still being assembled are discarded (R286), the Ethernet and splice PHYs power down. [DEDUCED, log 50] -/
def beginFlush (cause : Nat) (s : State) : State :=
  if s.power.flushing.isSome then s
  else
    let s1 := clearEngines s
    let ports := s1.net.lports.map fun l => { l with up := false }
    let sp := s1.splice.ports.map fun p => { p with step := .down, phy := false }
    let recs := s1.flash.pendingRecs ++ s1.index.journalBuf.map JournalRec.index
    { s1 with
      power := { s1.power with flushing := some cause, holdupFlushes := s1.power.holdupFlushes + 1 },
      jobs := { s1.jobs with cmds := [] },
      index := { s1.index with lookups := [], continuations := [], remote := [] },
      eng := { s1.eng with storyboards := [], batches := [] },
      flash := { (queueNand .flush (flushDies s1 true recs) s1).flash with assembling := [], waiting := [] },
      net := { s1.net with lports := ports },
      splice := { s1.splice with ports := sp } }

/-- EV_DEVICE_FATAL, whose record the journal carries over the reset (R456). [DEDUCED, log 117] -/
def fatalEvent (source argA : Nat) (s : State) : State :=
  let s1 := raise 0x0004 0 source argA 0 s
  { s1 with power := { s1.power with fatalRecord := s1.clk.events.getLast? } }

/-- A trigger whose reset is at once before DEVICE_STATE 1 (R461, R475): there is nothing to flush. [DEDUCED, log 50, 110] -/
def flushOrReset (cause : Nat) (s : State) : State :=
  if s.power.flushing.isSome then s
  else if s.power.step < 6 then fullChipReset s
  else beginFlush cause s

/-- Any other trigger: a full-chip reset that the device decides for itself opens with the flush (R465). [DEDUCED, log 110] -/
def decideReset (cause : Nat) (s : State) : State := if s.power.step == 0 then s else beginFlush cause s

end Sys2Proof.Machine
end

