-- ==== Sys2Proof/Machine/LaneOps.lean ====
section
/-! DEFINITION. How command packets reach intake: the fetch of submission entries on a ring pair (R371, R373), and the arrival
of a packet on its lane. -/
namespace Sys2Proof.Machine

/-! ## The bounce region (R367, R370) -/

/-- Offsets of the completion ring and of the data area in a region, and its size (Tables 13.5, 13.6). -/
def cqOffset (r : RingPair) : Nat := alignUp (16 * 64 * 2 ^ r.sqOrder) 4096
def dataOffset (r : RingPair) : Nat := cqOffset r + 128 * cqSize r
def regionSize (r : RingPair) : Nat := 4096 * r.bouncePages.toNat

/-- Whether `len` bytes at an offset lie in a ring pair's data area. -/
def inDataArea (r : RingPair) (off len : Nat) : Bool := decide (dataOffset r ≤ off) && decide (off + len ≤ regionSize r)

/-! ## Fetching submission entries -/

/-- Entries of a submission ring (Table 13.6). -/
def sqSize (r : RingPair) : Nat := 64 * 2 ^ r.sqOrder

/-- FAULT_CAUSE of an entry: 2 when it breaks Table 13.9, 3 when its read failed, 4 when its packet would leave the region;
`none` for a good one. [DEDUCED, log 89] -/
def entryFault (r : RingPair) (e : SqEntry) : Option Nat :=
  if !e.readOk then some 3
  else if e.reserved01 != 0 then some 2
  else if e.kind == 1 then
    if e.arg.toNat < 64 || 69632 < e.arg.toNat || e.offset.toNat % 64 != 0 || e.offset.toNat < dataOffset r then some 2
    else if regionSize r < e.offset.toNat + e.arg.toNat then some 4
    else none
  else if e.kind == 2 then if e.offset == 0 then none else some 2
  else some 2

/-- A CUE entry: a cue through the cue table of the primary ring pair, discarded on any other (R371, R209). [DEDUCED, log 74, 89] -/
def ringCue (port ring : Nat) (word : U32) (s : State) : State :=
  let lane := ringLane port ring
  match (findLane s lane).bind fun l => findJob s l.job with
  | none => s
  | some j => applyCue word (fun d => if primaryLane s j == some lane then sbNamed s j.index lane true d else none) (some j.index) (tick s)

/-- Fetches the entries that wait before SQ_TAIL, while the ring pair runs and a completion entry can be reserved; a COMMAND's
packet arrives before the next entry is fetched. [DEDUCED, log 9] -/
def fetchFuel (port ring : Nat) : Nat → State → State
  | 0, s => s
  | fuel + 1, s =>
    match findRing s port ring with
    | none => s
    | some r =>
      if !r.enable || r.fault || 0 < r.arriving || deviceState s < 1 then s
      else match r.waitingEntries with
        | [] => s
        | e :: rest =>
          let take := setRing port ring fun r => { r with sqHead := (r.sqHead + 1) % sqSize r, waitingEntries := rest }
          match entryFault r e with
          | some c => faultRing port ring c s
          | none =>
            if e.kind == 2 then fetchFuel port ring fuel (ringCue port ring e.arg (take s))
            else if cqFree r == 0 then s
            else setRing port ring (fun r => { r with reserved := r.reserved + 1, arriving := 1 }) (take s)

/-- Fetches on one ring pair, and on every one. -/
def fetchRing (port ring : Nat) (s : State) : State :=
  fetchFuel port ring (((findRing s port ring).map fun r => r.waitingEntries.length).getD 0) s
def fetchAll (s : State) : State := s.host.rings.foldl (fun s r => fetchRing r.port r.ring s) s

/-! ## Arrival -/

/-- A command packet arrives on its lane: over RC after the transport's checks (R339, R348), a SEND longer than the largest
packet being refused (R340), and one that finds no room for now (R349); on a ring pair as the COMMAND
entry last fetched, after which fetching goes on; on the management path at once. [DEDUCED, log 9, 22, 24] -/
def onLane (i : Instr) (p : Packet) (k : State → State) (s : State) : State :=
  match p.path with
  | .mgmt => k s
  | .rdma =>
    let h := { p.bth with qpn := p.lane }
    match rcEnter i h p.length s with
    | (s1, false) => s1
    | (s1, true) =>
      rcAccept h (rcPackets s1 p.lane p.length)
        (if 69632 < p.length then some .invalidRequest else if h.noRoom then some .rnr else none) (sendAck p.lane) k s1
  | .pcie =>
    let port := (laneRing p.lane).1
    let ring := (laneRing p.lane).2
    if p.lane < 0x800000 || ((findRing s port ring).map (·.arriving)).getD 0 == 0 then s
    else fetchRing port ring (k (setRing port ring (fun r => { r with arriving := 0 }) s))

/-- A command's whole step. -/
def command (i : Instr) (op : OpInfo) (p : Packet) (atAccept run : Cmd → State → State) (s : State) : State :=
  onLane i p (perform i op p atAccept run) s

end Sys2Proof.Machine
end

