-- ==== Sys2Proof/Machine/ReadOps.lean ====
section
/-! DEFINITION. The data of descriptors (R293, R370, R510): where a PCIe job's buffers may lie, and the reads that bring a
command's TOKEN, WEIGHTS or BLOCK_TABLE data. -/
namespace Sys2Proof.Machine

/-! ## The bounce region (R367, R370) -/

/-- The ring pair whose region is a job's bounce-buffer region. [DEDUCED, log 74] -/
def primaryRing (s : State) (j : Job) : Option RingPair :=
  (primaryLane s j).bind fun l => findRing s (laneRing l).1 (laneRing l).2

/-- Whether `len` bytes at an offset lie in the job's data area. -/
def inJobRegion (s : State) (j : Job) (off len : Nat) : Bool := ((primaryRing s j).map fun r => inDataArea r off len).getD false

/-- A job command's descriptors are of kinds that the opcode takes, well formed, and on the PCIe path inside the
job's data area (R293, R370). -/
def descsOk (s : State) (j : Job) (p : Packet) (kinds : List Nat) : Bool :=
  p.descs.all fun d => descOk p.path kinds d && (p.path != .pcie || inJobRegion s j d.address.toNat (descLen d))

/-! ## Reads -/

/-- The descriptors whose data an opcode reads, cut to the first `limit` bytes of their string. -/
def cutDescs : Nat → List Descriptor → List (Nat × Descriptor)
  | _, [] => []
  | limit, d :: ds => if limit == 0 then [] else (min limit (descLen d), d) :: cutDescs (limit - descLen d) ds

/-- Queues the reads of a command's descriptors of a kind: RDMA READs on the arrival lane, or reads of the job's
bounce-buffer region. -/
def startReads (c : Cmd) (p : Packet) (kind limit : Nat) (s : State) : State :=
  let ds := cutDescs limit (descsOf kind p)
  let s1 := setCmd c.slot (fun c => { c with wait := .descRead, left := ds.length, count := 0 }) s
  if p.path == .rdma then
    match findQp s c.lane with
    | none => s1
    | some q => ds.foldl (fun s d =>
        startUnit (.rdma (q.lport / 4)) (newUnit c.cls (.send c.lane (.readDesc c.slot d.2.rkey d.2.address.toNat) d.1) 0 0) s) (needContext c.lane s1)
  else
    match (jobOf s c).bind (primaryLane s) with
    | none => s1
    | some l => ds.foldl (fun s d =>
        startUnit (.host (laneRing l).1) (newUnit c.cls (.hostRead l c.slot d.2.address.toNat d.1) 0 (max 1 (ceilDiv (min d.1 65536) 4096))) s) s1

/-- Goes on with `k` once the first `limit` bytes of a command's data of a kind have arrived. Data that came inline
or in the management stream is there already. -/
def reading (c : Cmd) (p : Packet) (kind limit : Nat) (k : State → State) (s : State) : State :=
  if c.fetched || p.path == .mgmt || (descsOf kind p).isEmpty then k s
  else if c.wait == .descRead then s
  else startReads c p kind limit s

/-- One descriptor's data has arrived. -/
def readArrived (slot : Nat) (s : State) : State :=
  setCmd slot (fun c => { c with left := c.left - 1, count := 0, fetched := c.left ≤ 1 }) s

/-- What a command does with an object it has read (R294, R510). -/
def withObject {α : Type} (c : Cmd) (o : Fetched α) (k : α → State → State) (s : State) : State :=
  match o with
  | .stopped => failRef c .cancelled s
  | .badTag => failRef c .integrity s
  | .opened a => k a s

end Sys2Proof.Machine
end

