-- ==== Sys2Proof/Machine/SpliceOps.lean ====
section
/-! DEFINITION. Splice messages and continuations (R429 to R435): routing, sending, the match-in that an origin sends, and
how a continuation ends. -/
namespace Sys2Proof.Machine

/-! ## Sending (R429, R430) -/

/-- Body bytes of a message (Tables 4.6, 4.7 and 15.3). -/
def spliceLen : SpliceBody → Nat
  | .matchIn b => 0x28 + 16 * b.keys.length
  | .matchOut _ => 0x18
  | .frame _ _ bytes => bytes.length
  | _ => 0

/-- Queues a message for a device; `false` when it is dropped for want of a route or of a port that is up. [DEDUCED, log 102] -/
def sendSplice (src dst relays probes regGen : Nat) (cls : Cls) (b : SpliceBody) (s : State) : Bool × State :=
  match routePort s dst with
  | none => (false, countSplice 5 s)
  | some n =>
    if spliceUp s n then
      let len := 48 + spliceLen b
      (true, startUnit (.splice n) (newUnit cls (.spliceMsg src dst relays probes regGen b len) 0 (max 1 (ceilDiv (min len 65536) 4096))) s)
    else (false, countSplice 5 s)

/-! ## Continuations of this device's lookups -/

/-- Whether the device is on a lookup path (R72). -/
def onPath (s : State) : Bool := s.cfg.deviceNumber != 0 && (routeEntry s 0).isSome

/-- The blocks that the received ranges cover without a gap from block `e` on (R433). -/
def coverFrom (hs : List HolderRange) : Nat → Nat → Nat
  | 0, e => e
  | fuel + 1, e => match hs.find? fun h => decide (h.firstBlock ≤ e + 1) && decide (e + 1 ≤ h.lastBlock) with
    | none => e
    | some h => coverFrom hs fuel h.lastBlock

/-- The count of a continuation, and the ranges that it uses, in block order. -/
def contCount (k : Continuation) : Nat := coverFrom k.holders k.holders.length k.localCount
def contRanges (k : Continuation) : List HolderRange :=
  sortBy (fun a b => decide (a.firstBlock < b.firstBlock))
    (k.holders.filter fun h => decide (h.firstBlock ≤ contCount k) && decide (h.firstBlock ≤ h.lastBlock))

/-- The continuation of a LOOKUP_ID. -/
def findCont (s : State) (id : U64) : Option Continuation := s.index.continuations.find? fun k => k.lookupId == id

/-- Replies to a continued lookup (R433, R434, Table 3.4). -/
def replyCont (k : Continuation) (cut : Bool) (s : State) : State :=
  let s1 := { s with index := { s.index with continuations := s.index.continuations.filter fun x => x.lookupId != k.lookupId } }
  match findCmd s1 k.slot with
  | none => s1
  | some c =>
    let count := contCount k
    let hs := contRanges k
    let low := s.index.recovering || hs.any (·.lowerBound)
    let degraded := cut || k.holders.any fun h => decide (count < h.firstBlock) && decide (h.firstBlock ≤ h.lastBlock)
    let flags := { noFlags with lowerBound := low, degraded := degraded }
    let r0 : U32 := BitVec.ofNat 32 (if k.adds then count else k.localCount)
    if hs.isEmpty then complete c .ok flags r0 k.result1 s1
    else completeWith c (16 + 16 * hs.length) 16 16 (.holders k.localCount degraded low k.budgetSpent hs) flags r0 k.result1 s1

/-- Sends the match-in that asks for the blocks after `n` (R123): at most 1,024 keys. A match-in dropped here ends the
continuation (R432). -/
def sendMatchIn (id : U64) (n : Nat) (s : State) : State :=
  match findCont s id with
  | none => s
  | some k => match findCmd s k.slot, (routeEntry s 0) with
    | some c, some r =>
      let ks := (k.keys.drop (n - k.localCount)).take 1024
      let last := if n == k.localCount then k.lastKey else k.keys.getD (n - k.localCount - 1) 0
      let body : MatchInBody := { lookupId := id, tenant := BitVec.ofNat 16 c.tenant, variantMask := BitVec.ofNat 8 k.run.mask,
                                  miFlags := BitVec.ofNat 8 (clsBit c.cls), hopBudget := k.hopBudget, countSoFar := n,
                                  lastKey := last, keys := ks }
      let ks1 := updWhere (fun x => x.lookupId == id) (fun x => { x with sentFrom := n, sentCount := ks.length }) s.index.continuations
      let s1 := { s with index := { s.index with continuations := ks1 } }
      let (sent, s2) := sendSplice s.cfg.deviceNumber r.dest 0 1 (regGenOf s c.tenant) c.cls (.matchIn body) s1
      if sent then s2
      else match findCont s2 id with
        | none => s2
        | some k2 => replyCont k2 true s2
    | _, _ => replyCont k true s

/-- A continuation reaches an end (R432): the next round when the last one was covered whole and the chain has more keys
(R433), else the reply. `cut` marks an expiry. -/
def endCont (id : U64) (cut : Bool) (s : State) : State :=
  match findCont s id with
  | none => s
  | some k =>
    let count := contCount k
    if !cut && k.sentCount == 1024 && count == k.sentFrom + 1024 && decide (count < k.localCount + k.keys.length) then
      sendMatchIn id count s
    else replyCont k cut s

/-- Starts the continuation of a lookup whose local run ended after `n` blocks (R72). [DEDUCED, log 47] -/
def startCont (run : LookupCtx) (n : Nat) (keys : List BlockKey) (last : BlockKey) (adds : Bool) (result1 : U64) (s : State) : State :=
  let id : U64 := BitVec.ofNat 64 (s.cfg.deviceNumber * 2 ^ 48 + s.index.nextLookup % 2 ^ 48)
  let k : Continuation := { lookupId := id, slot := run.slot, localCount := n, sentFrom := n, sentCount := 0, keys := keys,
                            lastKey := last, result1 := result1, adds := adds, hopBudget := run.hopBudget, run := run, holders := [],
                            budgetSpent := false }
  sendMatchIn id n (park run.slot .continuation
    { s with index := { s.index with continuations := s.index.continuations ++ [k], nextLookup := s.index.nextLookup + 1 } })

/-! ## Runs for other devices (R124, R125) -/

/-- The answer to a match-in of which `m` keys passed: a match-out, a forwarded match-in, or both. `hint` is the lowest
tier that the run's hints name. [DEDUCED, log 48] -/
def answerMatchIn (body : MatchInBody) (probes regGen : Nat) (cls : Cls) (m hint : Nat) (s : State) : State :=
  let n := body.countSoFar
  let origin := body.lookupId.toNat / 2 ^ 48
  let hops := if (routeEntry s 0).isNone then 1 else body.hopBudget
  let short := decide (m < body.keys.length)
  let spentAll := short && decide (hops ≤ 1)
  let me := s.cfg.deviceNumber
  let out : MatchOutBody := { lookupId := body.lookupId, holderDevice := BitVec.ofNat 16 me, hopsUsed := probes,
                              lowerBound := s.index.recovering, budgetSpent := spentAll, firstBlock := n + 1,
                              extendedCount := n + m, tierHint := BitVec.ofNat 8 (if m == 0 then 0 else hint) }
  let s1 := if 1 ≤ m || spentAll then (sendSplice me origin 0 0 0 cls (.matchOut out) s).2 else s
  if short && !spentAll then
    let next : MatchInBody :=
      { body with countSoFar := n + m, lastKey := if m == 0 then body.lastKey else body.keys.getD (m - 1) 0,
                  keys := body.keys.drop m, hopBudget := body.hopBudget - 1 }
    (sendSplice me (((routeEntry s 0).map (·.dest)).getD 0) 0 (probes + 1) regGen cls (.matchIn next) s1).2
  else s1

end Sys2Proof.Machine
end

