-- ==== Sys2Proof/Machine/LookupOps.lean ====
section
/-! DEFINITION. Runs of block keys (R66 to R72, R101 to R103, R124): how a chain is hashed, how its keys are probed and
confirmed in block order, and what a finished run does. -/
namespace Sys2Proof.Machine

/-! ## Chains (R40, R66) -/

/-- The keys of the next `n` blocks of `t` tokens after `prev`. -/
def chainKeys (s : State) (tenant t : Nat) : Nat → BlockKey → List U64 → List BlockKey
  | 0, _, _ => []
  | n + 1, prev, toks =>
    let k := nextKey s tenant prev (toks.take t)
    k :: chainKeys s tenant t n k (toks.drop t)

/-- Blocks that one hasher unit of 8,192 message bytes computes (Table 11.2). -/
def hashUnitBlocks (t : Nat) : Nat := max 1 (8192 / (16 + 8 * t))

/-! ## Runs -/

/-- A run of keys, and the live one of a command slot (R103). -/
def findRunId (s : State) (run : Nat) : Option LookupCtx := s.index.lookups.find? fun l => l.run == run
def findRunOf (s : State) (slot : Nat) : Option LookupCtx := s.index.lookups.find? fun l => l.slot == slot && !l.isOver

/-- Changes a run. -/
def setRun (run : Nat) (f : LookupCtx → LookupCtx) (s : State) : State :=
  { s with index := { s.index with lookups := updWhere (fun l => l.run == run) f s.index.lookups } }

/-- The class of a run: its command's. -/
def runCls (s : State) (slot : Nat) : Cls := ((findCmd s slot).map (·.cls)).getD .be

/-- The run of a match-in, and a change of one. -/
def findRemote (s : State) (run : Nat) : Option RemoteRun := s.index.remote.find? fun r => r.run == run
def setRemote (run : Nat) (f : RemoteRun → RemoteRun) (s : State) : State :=
  { s with index := { s.index with remote := updWhere (fun r => r.run == run) f s.index.remote } }

/-- The part of an accept mask under which block `n` of a model counts: the variants whose own limit it lies within (R39). -/
def maskAt (s : State) (tenant : Nat) (model : U32) (mask n : Nat) : Nat :=
  sumOf (fun v => if bitOf mask v && ((variantProfile s tenant model v).map fun p => decide (n ≤ maxBlock p.desc)).getD true
    then 2 ^ v else 0) (List.range 4)

/-- Whether a block of a run has been resolved as usable. -/
def isGood : ProbeState → Bool
  | .good _ _ _ => true
  | _ => false

/-- The index of the first block of a run that is not resolved as usable. -/
def firstOpen (ps : List ProbeState) : Nat := (ps.takeWhile isGood).length

/-- Whether a run has ended: every block is usable, or the first open one is not. [DEDUCED, log 54] -/
def runEnded (ps : List ProbeState) : Bool :=
  match ps[firstOpen ps]? with
  | none => true
  | some .bad => true
  | _ => false

/-- The node pointers and hints of a run's usable blocks. -/
def runPtrs (ps : List ProbeState) : List Nat :=
  (ps.takeWhile isGood).filterMap fun p => match p with
    | .good ptr _ _ => some ptr
    | _ => none
def runHints (ps : List ProbeState) : List Nat :=
  (ps.takeWhile isGood).filterMap fun p => match p with
    | .good _ h _ => some h
    | _ => none

/-- The lowest tier that the hints of a run name: 0 for an empty run (R99). -/
def runTier (ps : List ProbeState) : Nat := (runHints ps).foldl (fun m h => max m (lowestTier h)) 0

/-- Puts a probe into its section's queue, which holds 64 (R121). -/
def queueProbe (p : Probe) (s : State) : State :=
  let ss := updWhere (fun x : Section => x.num == sectionOf p.keyLo) (fun x => { x with probes := x.probes ++ [p] }) s.marr.sections
  { s with marr := { s.marr with sections := ss } }

/-- Whether a section's probe queue has room. -/
def probeRoom (s : State) (lo : U64) : Bool :=
  ((s.marr.sections.find? fun x => x.num == sectionOf lo).map fun x => decide (x.probes.length < 64)).getD false

/-- Issues the probes of a run in block order (R68, R103): up to 16 beyond the first open block, none beyond a block that is not
usable, and none past one whose section queue is full. `mask` is the accept mask of a block; `ks` are the keys hashed so far, in
the same order as `ps`; `i` is the index of the head. -/
def issueProbes (run first tenant last : Nat) (mask : Nat → Nat) : Nat → List BlockKey → List ProbeState → State → List ProbeState × State
  | _, [], ps, s => (ps, s)
  | _, _, [], s => ([], s)
  | i, k :: ks, p :: ps, s =>
    if last < i then (p :: ps, s)
    else match p with
      | .bad => (p :: ps, s)
      | .waiting =>
        if probeRoom s (keyLo k) then
          let s1 := queueProbe { run := run, block := first + i, keyLo := keyLo k, tenant := tenant, mask := mask (first + i) } s
          let (qs, s2) := issueProbes run first tenant last mask (i + 1) ks ps s1
          (.inFlight :: qs, s2)
        else (p :: ps, s)
      | q =>
        let (qs, s1) := issueProbes run first tenant last mask (i + 1) ks ps s
        (q :: qs, s1)

/-! ## Finished runs -/

/-- Ends a run: nothing is probed any more, and a result that is still on its way counts for nothing (R103). Its context stays while
the hasher completes the chain (R68). -/
def removeRun (run : Nat) (s : State) : State :=
  match findRunId s run with
  | none => s
  | some l =>
    if l.keys.length < l.total then setRun run (fun l => { l with isOver := true }) s
    else { s with index := { s.index with lookups := s.index.lookups.filter fun l => l.run != run } }

/-- Whether a run that ended after `n` of its blocks goes on elsewhere (R72). [DEDUCED, log 47] -/
def continues (s : State) (l : LookupCtx) (n : Nat) : Bool := decide (n < l.total) && decide (0 < l.hopBudget) && onPath s

/-- The reply of a lookup whose count is final, or its continuation (R72, R77, Table 3.4). `n` counts the usable blocks of
the run. [DEDUCED, log 47] -/
def replyRun (l : LookupCtx) (n : Nat) (r0 : Nat) (r1 : U64) (adds : Bool) (s : State) : State :=
  match findCmd s l.slot with
  | none => s
  | some c =>
    if continues s l n then
      let last := if n == 0 then (if l.firstBlock == 1 then 0 else l.lastKey) else l.keys.getD (n - 1) 0
      startCont l (l.firstBlock - 1 + n) (l.keys.drop n) last adds r1 s
    else complete c .ok (lowerBoundFlags s.index.recovering) (BitVec.ofNat 32 r0) r1 s

/-- Grows a record in place by a run's blocks (R75). -/
def growRecord (r : Nat) (ptrs : List Nat) (last : BlockKey) (tier : Nat) (s : State) : State :=
  setRecord r (fun x => { x with blocks := x.blocks + ptrs.length, pins := x.pins ++ ptrs,
                                 lastKey := if ptrs.isEmpty then x.lastKey else last, lowTier := max x.lowTier tier }) s

/-- What a finished run does: LOOKUP's scored use and count, LOOKUP_PIN's record, LOOKUP_EXTEND's record or child, or the SKIP
of an INGEST_OPEN (R75, R77, R86, R189). A pin scores its own block, so that only the blocks before the last pinned one are sent
scores. A record released or freed while its extension runs takes nothing: the pins fall again and the command is refused.
[DESIGN CHOICE, log 149] -/
def finishRun (l : LookupCtx) (s0 : State) : State :=
  let s := removeRun l.run s0
  let ptrs := runPtrs l.probes
  let n := ptrs.length
  let last := l.keys.getD (n - 1) 0
  let refuse := fun (st : Status) (s : State) => match findCmd s l.slot with
    | none => dropRunPins l s
    | some c => fail c st (dropRunPins l s)
  match (findCmd s l.slot).bind (jobOf s) with
  | none => dropRunPins l s
  | some j => match l.kind with
    | .lookup => replyRun l n n 0 true (askScores ptrs s)
    | .lookupPin =>
      if n == 0 then replyRun l 0 0 0 false s
      else match newRecord j l.scope n last none 0 ptrs (runTier l.probes) s with
        | none => refuse .quota s
        | some (r, s1) => replyRun l n n (pinHandle r) false (askScores ptrs.dropLast s1)
    | .extend ri fork => match findRecord s ri with
      | none => refuse .badParam s
      | some r =>
        if r.released then refuse .badParam s
        else
          let base := l.firstBlock - 1
          let all := (reach s ri).take base ++ ptrs
          if fork then
            match newRecord j l.scope (base + n) (if n == 0 then r.lastKey else last) (some ri) base ptrs (max r.lowTier (runTier l.probes)) s with
            | none => refuse .quota s
            | some (k, s1) => replyRun l n (base + n) (pinHandle k) false (if n == 0 then takeRef ri s1 else askScores all.dropLast (takeRef ri s1))
          else
            let s1 := growRecord ri ptrs last (runTier l.probes) s
            replyRun l n (base + n) (pinHandle r) false (if n == 0 then s1 else askScores all.dropLast s1)
    | .ingestOpen => setCmd l.slot (fun c => { c with wait := .slivers, count := n, phase := c.phase + 1 }) s

/-- The match-in's run is over: the answer, the forwarded match-in, or both (R125). [DEDUCED, log 48] -/
def finishRemote (r : RemoteRun) (s : State) : State :=
  let s1 := { s with index := { s.index with remote := s.index.remote.filter fun x => x.run != r.run } }
  answerMatchIn r.body r.probesField r.regGen r.cls (firstOpen r.probes) (runTier r.probes) s1

/-! ## Advancing -/

/-- Asks the core that owns a key to confirm a block (R69). -/
def askConfirm (run block : Nat) (key : BlockKey) (tenant mask : Nat) (hit : Option Hit) (cls : Cls) (s : State) : State :=
  askSliver (sliverOf key) cls (.confirm run block key tenant mask hit) s

/-- The accept mask of a block of a run. -/
def runMask (s : State) (l : LookupCtx) (block : Nat) : Nat := maskAt s l.tenant l.model l.mask block

/-- Moves a command's run on: probes, the next pin in block order (R70, R71), LOOKUP's confirmation of its last block, and
the end of the run. -/
def advanceRun (run : Nat) (s : State) : State :=
  match findRunId s run with
  | none => s
  | some l =>
    if l.isOver then s
    else
      let u := firstOpen l.probes
      let cls := runCls s l.slot
      if runEnded l.probes then
        match (if l.kind == .lookup && 0 < u then l.probes[u - 1]? else none) with
        | some (.good ptr h false) =>
          let hit : Option Hit := some { ptr := ptr, priority := 0, hint := h }
          let block := l.firstBlock + (u - 1)
          askConfirm run block (l.keys.getD (u - 1) 0) l.tenant (runMask s l block) hit cls
            (setRun run (fun l => { l with probes := l.probes.set (u - 1) (.confirming hit) }) s)
        | _ =>
          if continues s l u && decide (l.keys.length < l.total) then s
          else finishRun l s
      else
        let (ps, s1) := issueProbes run l.firstBlock l.tenant (u + 16) (runMask s l) 0 l.keys l.probes s
        match (if takesPins l.kind then ps[u]? else none) with
        | some (.confirming hit) =>
          let block := l.firstBlock + u
          askSliver (sliverOf (l.keys.getD u 0)) cls (.pin run block (l.keys.getD u 0) l.tenant (runMask s l block) hit)
            (setRun run (fun l => { l with probes := ps.set u .pinning }) s1)
        | _ => setRun run (fun l => { l with probes := ps }) s1

/-- Moves a match-in's run on. -/
def advanceRemote (run : Nat) (s : State) : State :=
  match findRemote s run with
  | none => s
  | some r =>
    if runEnded r.probes then finishRemote r s
    else
      let (ps, s1) := issueProbes run (r.body.countSoFar + 1) r.body.tenant.toNat (firstOpen r.probes + 16)
        (fun _ => r.body.variantMask.toNat) 0 r.body.keys r.probes s
      setRemote run (fun r => { r with probes := ps }) s1

/-- Every run whose section had no room tries again. -/
def advanceRuns (s : State) : State :=
  let s1 := s.index.lookups.foldl (fun s l => advanceRun l.run s) s
  s1.index.remote.foldl (fun s r => advanceRemote r.run s) s1

/-- The blocks of a LOOKUP's run that have been found unusable and whose keys are among those given, back to where they were before
their probe. -/
def retryBlocks (keys : List BlockKey) (l : LookupCtx) : LookupCtx :=
  { l with probes := l.probes.zipIdx.map fun (p, i) => if p == .bad && keys.contains (l.keys.getD i 0) then .waiting else p }

/-- Blocks that a commit has made visible: a LOOKUP that has not replied yet, or that waits for its continuation, and that found
one of them missing looks for it again, so that a reply after the commit's counts it (R21). -/
def reviveRuns (keys : List BlockKey) (s : State) : State :=
  let again := fun (l : LookupCtx) => l.kind == .lookup && retryBlocks keys l != l
  let back := s.index.continuations.filter fun k => again k.run
  let s1 := { s with index := { s.index with
    continuations := s.index.continuations.filter fun k => !again k.run,
    lookups := s.index.lookups.map (fun l => if !l.isOver && again l then retryBlocks keys l else l) ++ back.map fun k => retryBlocks keys k.run } }
  advanceRuns (back.foldl (fun s k => park k.slot .busy s) s1)

/-! ## Starting -/

/-- Queues the next hasher unit of a chain. [DEDUCED, log 54] -/
def nextHash (run hasher : Nat) (s : State) : State :=
  match findRunId s run with
  | none => s
  | some l =>
    let left := l.total - l.keys.length
    if left == 0 then s
    else startUnit (.hasher hasher) (newUnit (runCls s l.slot) (.hash run (min (hashUnitBlocks l.blockTokens) left)) 0 0) s

/-- Starts the run of a command: `total` blocks are hashed from `tokens` on after `prev`, and the first `probed` of them
probed. A run of no blocks ends at once. -/
def startRun (c : Cmd) (kind : RunKind) (j : Job) (scope : U16) (mask hops first t total probed : Nat) (prev : BlockKey)
    (tokens : List U64) (s : State) : State :=
  let run := s.index.nextRun
  let l : LookupCtx := { run := run, isOver := false, slot := c.slot, kind := kind, tenant := j.tenant, model := j.modelId, scope := scope,
                         mask := mask, hopBudget := hops,
                         firstBlock := first, blockTokens := t, tokensLeft := tokens, lastKey := prev, keys := [],
                         probes := List.replicate probed .waiting, maxBlocks := probed, total := total }
  let s1 := park c.slot .busy { s with index := { s.index with lookups := s.index.lookups ++ [l], nextRun := run + 1 } }
  advanceRun run (nextHash run (shortestHasher s1) s1)

/-- A hasher unit of a run is done: its keys join the chain, the next unit is queued, and the run moves on. A run that is over
goes once its chain is complete (R68). [DEDUCED, log 54] -/
def hashDone (run blocks hasher : Nat) (s : State) : State :=
  match findRunId s run with
  | none => s
  | some l =>
    let prev := (l.keys.getLast?).getD l.lastKey
    let ks := chainKeys s l.tenant l.blockTokens blocks prev l.tokensLeft
    let s1 := nextHash run hasher
      (setRun run (fun l => { l with keys := l.keys ++ ks, tokensLeft := l.tokensLeft.drop (l.blockTokens * blocks) }) s)
    if l.isOver then removeRun run s1 else advanceRun run s1

/-! ## Results -/

/-- A probe's result reaches its run (R69, R70, R103): a result of a run that has ended is discarded. -/
def probeResult (run block : Nat) (hit : Option Hit) (s : State) : State :=
  match findRemote s run with
  | some r =>
    let i := block - (r.body.countSoFar + 1)
    if r.probes[i]? == some .inFlight then
      advanceRemote run (askConfirm run block (r.body.keys.getD i 0) r.body.tenant.toNat r.body.variantMask.toNat hit r.cls
        (setRemote run (fun r => { r with probes := r.probes.set i (.confirming hit) }) s))
    else s
  | none => match findRunId s run with
    | none => s
    | some l =>
      let i := block - l.firstBlock
      if !l.isOver && l.probes[i]? == some .inFlight && !(l.probes.take i).contains .bad then
        let put := fun (p : ProbeState) (s : State) => setRun run (fun l => { l with probes := l.probes.set i p }) s
        let key := l.keys.getD i 0
        let ask := fun (h : Option Hit) => askConfirm run block key l.tenant (runMask s l block) h (runCls s l.slot) (put (.confirming h) s)
        match l.kind, hit with
        | .lookup, some h => advanceRun run (put (.good h.ptr h.hint false) s)
        | .lookup, none => advanceRun run (ask none)
        | .ingestOpen, h => advanceRun run (ask h)
        | _, h => advanceRun run (put (.confirming h) s)
      else s

/-- Whether a node carries on the chain of a match-in at its joint (R124). -/
def joins (s : State) (r : RemoteRun) (i ptr : Nat) : Bool :=
  let prev := if i == 0 then (if r.body.countSoFar == 0 then 0 else keyLo r.body.lastKey) else keyLo (r.body.keys.getD (i - 1) 0)
  ((findNode s ptr).map fun n => n.parentLo == prev).getD false

/-- Whether a block awaits a core's answer. -/
def awaits : Option ProbeState → Bool
  | some (.confirming _) => true
  | some .pinning => true
  | _ => false

/-- A core's answer reaches the run that asked for it, if the block still awaits it under that key (R103). -/
def coreAnswer (run block : Nat) (key : BlockKey) (a : Option (Nat × Nat)) (s : State) : State :=
  match findRemote s run with
  | some r =>
    let i := block - (r.body.countSoFar + 1)
    let p := match a with
      | some (ptr, h) => if joins s r i ptr then ProbeState.good ptr h true else .bad
      | none => .bad
    if awaits r.probes[i]? && r.body.keys[i]? == some key then
      advanceRemote run (setRemote run (fun r => { r with probes := r.probes.set i p }) s)
    else s
  | none => match findRunId s run with
    | none => s
    | some l =>
      let i := block - l.firstBlock
      let p := match a with
        | some (ptr, h) => ProbeState.good ptr h true
        | none => .bad
      if !l.isOver && awaits l.probes[i]? && l.keys[i]? == some key then
        advanceRun run (setRun run (fun l => { l with probes := l.probes.set i p }) s)
      else s

/-! ## What a core does with a block (R69, R110) -/

/-- Whether a node passes its CHECK, and its extents' entries theirs (R62, Table 6.3). [DEDUCED, log 155] -/
def nodeReads (n : Node) : Bool := n.checkOk && n.groups.all (·.entryOk)

/-- A node that a core reads with a CHECK that does not match is lost (R62). -/
def loseUnchecked (p : Node → Bool) (s : State) : State :=
  (s.index.nodes.filter fun n => p n && !n.lost && !nodeReads n).foldl (fun s n => loseData n.ptr s) s

/-- The core reads the node that a request names (R62). -/
def readNode (ptr : Nat) (s : State) : State := loseUnchecked (fun n => n.ptr == ptr) s

/-- The node that a core finds for a block: the hit's when it passes, else the one that its directory search finds; a
reel-path hit renews the node's entry. [DEDUCED, log 55] -/
def resolveBlock (key : BlockKey) (tenant mask : Nat) (hit : Option Hit) (s0 : State) : Option (Nat × Nat) × State :=
  let s := loseUnchecked (fun n => n.keyed && (n.key == key && n.tenant == tenant || (hit.map (·.ptr)) == some n.ptr)) (replayOn s0)
  match hit.bind fun h => (findNode s h.ptr).bind fun n => if n.key == key && usable s tenant mask n then some (h.ptr, h.hint) else none with
  | some h => (some h, s)
  | none => match searchIndex s key tenant mask with
    | none => (none, s)
    | some n =>
      let a := some (n.ptr, tierHintOf n)
      if n.entryPresent then
        let s1 := askRemove n (setNode n.ptr (fun m => { m with entryPresent := false }) s)
        (a, askInsert n s1)
      else if entryDue s n then (a, s)
      else (a, askInsert n s)

end Sys2Proof.Machine
end

