-- ==== Sys2Proof/Machine/Lookup.lean ====
section
/-! DEFINITION. LOOKUP, LOOKUP_PIN, LOOKUP_EXTEND and UNPIN (R73 to R79), the key hashers' unit ends, probe results, and
the requests of the reel cores that serve lookups and pins (R59, R69 to R71, R81, R86). -/
namespace Sys2Proof.Machine

/-! ## Token input -/

/-- Test 1 of R78: TOKEN_COUNT agrees with the inline or the descriptor length. `fixed` is the length of the parameters
before the tokens. -/
def tokensAgree (p : Packet) (fixed : Nat) (inl : Bool) (count : Nat) : Bool :=
  if inl then paramLen p == fixed + 8 * count && (descsOf kindToken p).isEmpty
  else paramLen p == fixed && (descBytes kindToken p == objectBytes p.path count || (count == 0 && (descsOf kindToken p).isEmpty))

/-- Reads a token input: inline words are there already. -/
def withTokens (c : Cmd) (p : Packet) (inl : Bool) (count : Nat) (o : Fetched (List U64)) (k : List U64 → State → State)
    (s : State) : State :=
  if inl || count == 0 && (descsOf kindToken p).isEmpty then
    k (match o with
      | .opened ts => ts.take count
      | _ => []) s
  else reading c p kindToken (descBytes kindToken p) (withObject c o fun ts => k (ts.take count)) s

/-- The largest block number among the loaded variants that a mask accepts, and their block size (R39, R45). -/
def maskLimit (s : State) (j : Job) (mask : Nat) : Nat :=
  ((modelProfiles s j.tenant j.modelId).filter fun p => bitOf mask p.variant).foldl (fun m p => max m (maxBlock p.desc)) 0
def modelBlockSize (s : State) (j : Job) : Nat := (((modelProfiles s j.tenant j.modelId).head?).map fun p => blockSize p.desc).getD 64

/-- Complete blocks of a token input that starts after block `base`, within the limit of the accepted variants (R37,
R39). -/
def inputBlocks (s : State) (j : Job) (mask base count : Nat) : Nat :=
  min (count / modelBlockSize s j) (maskLimit s j mask - base)

/-- Blocks that a pinning command may probe (R79). -/
def pinBound (blocks : Nat) (m : U32) : Nat := if m == 0 then blocks else min blocks m.toNat

/-! ## LOOKUP and LOOKUP_PIN -/

/-- The form of LOOKUP's and LOOKUP_PIN's parameters (R9, R73, R293). -/
def lookupForm (s : State) (j : Job) (p : Packet) (a : LookupParams) (pins : Bool) : Bool :=
  bitsOf a.lkFlags.toNat 1 7 == 0 && a.reserved05 == 0 && (pins || a.maxBlocks == 0)
    && descsOk s j p [kindToken, kindReplyPayload]

/-- The run of LOOKUP and of LOOKUP_PIN: R78's tests in order, then the tokens, then the chain. -/
def lookupRun (p : Packet) (a : LookupParams) (pins : Bool) (c : Cmd) (s : State) : State :=
  match jobOf s c with
  | none => fail c .noJob s
  | some j =>
    let inl := bitOf a.lkFlags.toNat 0
    let count := a.tokenCount.toNat
    if !lookupForm s j p a pins || !tokensAgree p 0x10 inl count then fail c .badParam s
    else match acceptMask s j a.variantMask with
      | none => fail c .badParam s
      | some mask =>
        if 63 < a.hopBudget.toNat then fail c .badParam s
        else if !scopeAllowed j a.scopeId then fail c .denied s
        else
          let total := inputBlocks s j mask 0 count
          let bound := if pins then pinBound total a.maxBlocks else total
          match (if pins then pinShortage s j bound bound none else none) with
          | some (r0, r1) => complete c .quota noFlags r0 r1 s
          | none => withTokens c p inl count a.tokens (fun ts s =>
              startRun c (if pins then .lookupPin else .lookup) j a.scopeId mask a.hopBudget.toNat 1 (modelBlockSize s j) total
                bound (seedKey s j.tenant j.modelId a.scopeId) ts s) s

/-- LOOKUP's run. -/
def runLookup (p : Packet) (a : LookupParams) (c : Cmd) (s : State) : State := lookupRun p a false c s

/-- LOOKUP (0x0301). -/
def execLookup (p : Packet) (a : LookupParams) (s : State) : Host.Outcome State Fault Refusal :=
  finish s (command (.lookup p a) (opLate 0x0301) p atOnce (runLookup p a) s)

/-- LOOKUP_PIN's run. -/
def runLookupPin (p : Packet) (a : LookupParams) (c : Cmd) (s : State) : State := lookupRun p a true c s

/-- LOOKUP_PIN (0x0302). -/
def execLookupPin (p : Packet) (a : LookupParams) (s : State) : Host.Outcome State Fault Refusal :=
  finish s (command (.lookupPin p a) (opLate 0x0302) p atOnce (runLookupPin p a) s)

/-! ## LOOKUP_EXTEND -/

/-- Whether a record is being grown in place, by another LOOKUP_EXTEND or by a commit with PIN_ON_COMMIT. [DEDUCED, log 46] -/
def growing (s : State) (r : Nat) : Bool :=
  (liveRuns s).any (fun l => l.kind == .extend r false)
    || s.tiers.ingests.any fun g => g.pinOnCommit && g.baseRecord == some r && (g.phase == .inserting || g.phase == .undoing)

/-- Whether a run that continues a record is under way, so that the record may not grow: its N stays the child's P (R80).
[DEDUCED, log 46] -/
def extending (s : State) (r : Nat) : Bool :=
  growing s r || (liveRuns s).any fun l => l.kind == .extend r true

/-- LOOKUP_EXTEND's run (R74, R75, R78, R79). [DEDUCED, log 46] -/
def runLookupExtend (p : Packet) (a : ExtendParams) (c : Cmd) (s : State) : State :=
  match jobOf s c with
  | none => fail c .noJob s
  | some j =>
    let inl := bitOf a.lkFlags.toNat 0
    let fork := bitOf a.lkFlags.toNat 1
    let count := a.tokenCount.toNat
    if bitsOf a.lkFlags.toNat 2 6 != 0 || a.reserved0B != 0 || a.reserved14 != 0 || !descsOk s j p [kindToken, kindReplyPayload]
        || !tokensAgree p 0x18 inl count then fail c .badParam s
    else match acceptMask s j a.variantMask with
      | none => fail c .badParam s
      | some mask =>
        if 63 < a.hopBudget.toNat then fail c .badParam s
        else match resolvePin s j a.pinHandle with
          | .error st => fail c st s
          | .ok r =>
            if (if fork then growing s r.record else extending s r.record) then park c.slot .slivers s
            else
              let total := inputBlocks s j mask r.blocks count
              let bound := pinBound total a.maxBlocks
              match pinShortage s j (if fork then r.blocks + bound else bound) bound (if fork then none else some r.record) with
              | some (r0, r1) => complete c .quota noFlags r0 r1 s
              | none => withTokens c p inl count a.tokens (fun ts s =>
                  startRun c (.extend r.record fork) j r.scope mask a.hopBudget.toNat (r.blocks + 1) (modelBlockSize s j) total
                    bound r.lastKey ts s) s

/-- LOOKUP_EXTEND (0x0303). -/
def execLookupExtend (p : Packet) (a : ExtendParams) (s : State) : Host.Outcome State Fault Refusal :=
  finish s (command (.lookupExtend p a) (opLate 0x0303) p atOnce (runLookupExtend p a) s)

/-! ## UNPIN -/

/-- UNPIN at its acceptance: the record is released then, so that a command accepted later may not name it (R56). -/
def acceptUnpin (p : Packet) (a : UnpinParams) (c : Cmd) (s : State) : State :=
  match jobOf s c with
  | none => s
  | some j =>
    if !formOk p 16 [] (a.reserved08 == 0) then s
    else match resolvePin s j a.pinHandle with
      | .error _ => s
      | .ok r => setCmd c.slot (fun c => { c with phase := 1 }) (setRecord r.record (fun x => { x with released := true }) s)

/-- UNPIN's run (R56, R76). -/
def runUnpin (p : Packet) (a : UnpinParams) (c : Cmd) (s : State) : State :=
  match jobOf s c with
  | none => fail c .noJob s
  | some j =>
    if !formOk p 16 [] (a.reserved08 == 0) then fail c .badParam s
    else if c.phase == 1 then settleRecord (bitsOf a.pinHandle.toNat 24 20) (done c 0 0 s)
    else match resolvePin s j a.pinHandle with
      | .error st => fail c st s
      | .ok r => releaseRecord r.record (done c 0 0 s)

/-- UNPIN (0x0304). -/
def execUnpin (p : Packet) (a : UnpinParams) (s : State) : Host.Outcome State Fault Refusal :=
  finish s (command (.unpin p a) (opLate 0x0304) p (acceptUnpin p a) (runUnpin p a) s)

/-! ## Hashers and probes -/

/-- Whether a unit hashes. -/
def isHash : UnitWork → Bool
  | .hash _ _ => true
  | _ => false

/-- KEY_HASHER_UNIT_END: `inst` is 8 × hasher + instance. -/
def doKeyHasherUnitEnd (inst : Nat) (chk : UnitCheck) (s : State) : State :=
  unitEnded (.hasher (inst / 8)) (inst % 8) chk isHash (fun u s => match u.work with
    | .hash run blocks => hashDone run blocks (inst / 8) s
    | _ => s) s

/-- KEY_HASHER_UNIT_END (R66). -/
def execKeyHasherUnitEnd (inst : Nat) (chk : UnitCheck) (s : State) : Host.Outcome State Fault Refusal :=
  finish s (doKeyHasherUnitEnd inst chk s)

/-! ## Reel cores

What each request does is a function of its own, so that the spare that replays a failed core's log runs the same (R94). -/

/-- A confirm: the core reads the hit's node, or searches its directory (R69). -/
def applyConfirm (run block : Nat) (key : BlockKey) (tenant mask : Nat) (hit : Option Hit) (s : State) : State :=
  let (a, s1) := resolveBlock key tenant mask hit s
  coreAnswer run block key a s1

/-- SLIVER_CONFIRM (R69). -/
def doSliverConfirm (n : Nat) (s : State) : State :=
  sliverStep n (fun e => match e.req with
    | .confirm run block key tenant mask hit => some (applyConfirm run block key tenant mask hit)
    | _ => none) s

/-- SLIVER_CONFIRM. -/
def execSliverConfirm (sliver : Nat) (s : State) : Host.Outcome State Fault Refusal := finish s (doSliverConfirm sliver s)

/-- A pin dropped again because the run that asked for it has gone. [DEDUCED, log 40] -/
def dropPin (ptr : Nat) (s : State) : State :=
  askOwner ptr .be (.pinDrop ptr) { s with index := { s.index with dropsInFlight := s.index.dropsInFlight + 1 } }

/-- Whether a run still waits for a pin on a block's key (R103). -/
def wantsPin (s : State) (run block : Nat) (key : BlockKey) : Bool :=
  ((findRunId s run).map fun l => !l.isOver && l.probes[block - l.firstBlock]? == some .pinning
    && l.keys[block - l.firstBlock]? == some key).getD false

/-- Takes a pin on a node, a scored use of it (R71, R82, R86). -/
def takePin (ptr seq : Nat) (s : State) : State :=
  setNode ptr (fun n => { scoreUse (window16 s) n with
    pinCount := pinCountOf s n + 1, pinGen := s.sec.resetGen, lastReq := seq }) s

/-- A pin request (R71): an EVICTING node is not usable, and the pin is refused. -/
def applyPin (run block : Nat) (key : BlockKey) (tenant mask : Nat) (hit : Option Hit) (seq : Nat) (s : State) : State :=
  match resolveBlock key tenant mask hit s with
  | (none, s1) => coreAnswer run block key none s1
  | (some (ptr, h), s1) =>
    let s2 := takePin ptr seq s1
    if wantsPin s2 run block key then coreAnswer run block key (some (ptr, h)) s2 else dropPin ptr s2

/-- SLIVER_PIN (R71). -/
def doSliverPin (n : Nat) (s : State) : State :=
  sliverStep n (fun e => match e.req with
    | .pin run block key tenant mask hit => some (applyPin run block key tenant mask hit e.seq)
    | _ => none) s

/-- SLIVER_PIN. -/
def execSliverPin (sliver : Nat) (s : State) : Host.Outcome State Fault Refusal := finish s (doSliverPin sliver s)

/-- A pin drop (R60, R81): an unkeyed node goes with its last pin. -/
def applyPinDrop (ptr seq : Nat) (s0 : State) : State :=
  let s := readNode ptr s0
  let s1 := { s with index := { s.index with dropsInFlight := s.index.dropsInFlight - 1 } }
  let s2 := setNode ptr (fun n => { n with pinCount := pinCountOf s n - 1, pinGen := s.sec.resetGen, lastReq := seq }) s1
  match findNode s2 ptr with
  | none => s2
  | some nd => if !nd.keyed && nd.pinCount == 0 && !nd.dying then retireNode ptr (dropAll ptr s2) else s2

/-- SLIVER_PIN_DROP (R60, R81). -/
def doSliverPinDrop (n : Nat) (s : State) : State :=
  sliverStep n (fun e => match e.req with
    | .pinDrop ptr => some (applyPinDrop ptr e.seq)
    | _ => none) s

/-- SLIVER_PIN_DROP. -/
def execSliverPinDrop (sliver : Nat) (s : State) : Host.Outcome State Fault Refusal := finish s (doSliverPinDrop sliver s)

/-- A score request (R86). -/
def applyScore (ptr seq : Nat) (s0 : State) : State :=
  let s := readNode ptr s0
  setNode ptr (fun nd => { scoreUse (window16 s) nd with lastReq := seq }) s

/-- SLIVER_SCORE (R86). -/
def doSliverScore (n : Nat) (s : State) : State :=
  sliverStep n (fun e => match e.req with
    | .score ptr => some (applyScore ptr e.seq)
    | _ => none) s

/-- SLIVER_SCORE. -/
def execSliverScore (sliver : Nat) (s : State) : Host.Outcome State Fault Refusal := finish s (doSliverScore sliver s)

end Sys2Proof.Machine
end

