-- ==== Sys2Proof/Machine/Ingests.lean ====
section
/-! DEFINITION. INGEST_OPEN, INGEST_PULL, INGEST_PUSH_SLOTS, INGEST_COMMIT, INGEST_ABORT (R187 to R195) and SLIVER_INSERT
(R65, R83 to R85). -/
namespace Sys2Proof.Machine

/-- Whether a tenant's ingest bytes of this window are spent (Table 11.6). -/
def ingestSpent (s : State) (t : Nat) : Bool := spent (quotasOf s t).ingestBytes (useOf s t).ingestBytes

/-- What a spent rate quota does to a command (R330, Table 11.6): BE fails, LC parks until the next cut marker. -/
def onQuota (c : Cmd) (s : State) : State :=
  match c.cls with
  | .be => fail c .quota s
  | .lc => park c.slot .quotaWindow (setUse c.tenant (fun u => { u with parks := u.parks + 1 }) s)

/-! ## INGEST_OPEN -/

/-- IO_FLAGS. -/
def ioFlag (a : IngestOpenParams) (i : Nat) : Bool := bitOf a.ioFlags.toNat i

/-- The base of an INGEST_OPEN: the record that BASE_HANDLE names, or none for block 1. -/
def ingestBase (s : State) (j : Job) (a : IngestOpenParams) : Except Status (Option PinRecord) :=
  if a.baseHandle == 0 then (if scopeAllowed j a.scopeId then .ok none else .error .denied)
  else if a.scopeId != 0 then .error .badParam
  else match resolvePin s j a.baseHandle with
    | .error st => .error st
    | .ok r => .ok (some r)

/-- The profile that an ingest uses: the loaded one, or one being unloaded that its INGEST_OPEN holds since its
acceptance (R151). -/
def openProfile (s : State) (j : Job) (a : IngestOpenParams) (holds : List Nat) : Option Profile :=
  match variantProfile s j.tenant j.modelId a.variant.toNat with
  | some p => some p
  | none => s.eng.profiles.find? fun p => p.tenant == j.tenant && p.desc.modelId == j.modelId && p.variant == a.variant.toNat
      && holds.contains p.slot

/-- INGEST_OPEN's acceptance: it holds its variant's profile (R151). [DEDUCED, log 130] -/
def acceptIngestOpen (a : IngestOpenParams) (c : Cmd) (s : State) : State :=
  match (jobOf s c).bind fun j => openProfile s j a [] with
  | none => s
  | some p => holdProfiles c.slot [p] s

/-- The key that an ingest's first new block follows. -/
def ingestPrev (s : State) (j : Job) (a : IngestOpenParams) (base : Option PinRecord) : BlockKey :=
  match base with
  | some r => r.lastKey
  | none => seedKey s j.tenant j.modelId a.scopeId

/-- The places of the extents of one block from group `g` on, beside the runs taken: `none` when one of them finds no room
(R164, R189). -/
def placeBlock (d : ProfileDesc) (total block : Nat) : List Nat → List (Nat × Nat) → Option (List (Nat × Nat × Nat × Nat))
  | [], _ => some []
  | g :: gs, rs =>
    let n := groupGranules d g
    (fitIn rs total n).bind fun a => (placeBlock d total block gs ((a, n) :: rs)).map fun ps => (block, g, a, n) :: ps

/-- The places of the extents of `n` blocks from `block` on. -/
def placeBlocks (d : ProfileDesc) (total : Nat) : Nat → Nat → List (Nat × Nat) → Option (List (Nat × Nat × Nat × Nat))
  | 0, _, _ => some []
  | n + 1, block, rs =>
    (placeBlock d total block (List.range (layerGroups d)) rs).bind fun ps =>
      (placeBlocks d total n (block + 1) (ps.map (fun p => p.2.2) ++ rs)).map (ps ++ ·)

/-- No room for an INGEST_OPEN's extents: BE fails, LC waits for eviction (R190). -/
def openNoSpace (c : Cmd) (s : State) : State :=
  match c.cls with
  | .be => fail c .noSpace s
  | .lc => park c.slot .t1Space s

/-- Once SKIP is known: the reservation, the index and the reply (R189, R190). -/
def openIngest (c : Cmd) (j : Job) (a : IngestOpenParams) (base : Option PinRecord) (pr : Profile) (toks : List U64) (s : State) :
    State :=
  let n := (base.map (·.blocks)).getD 0
  let t := blockSize pr.desc
  let b := a.tokenCount.toNat / t
  let need := (b - c.count) * blockGranules pr.desc
  if s.tiers.t1Free < need then openNoSpace c s
  else match placeBlocks pr.desc s.tiers.t1Total (b - c.count) (n + c.count + 1) (takenRuns s .t1), s.tiers.ingestPool.take with
    | none, _ => openNoSpace c s
    | _, none => (match c.cls with
      | .be => fail c .noSpace s
      | .lc => park c.slot .ingestIndex s)
    | some places, some (i, gen, pool) =>
      let scope := match base with
        | some r => r.scope
        | none => a.scopeId
      let prev := ingestPrev s j a base
      let g : Ingest := { index := i, gen := gen, job := j.index, slot := c.slot, cls := c.cls, scope := scope,
                          variant := a.variant.toNat, baseRecord := base.map (·.record), base := n, newBlocks := b, skip := c.count,
                          keys := chainKeys s j.tenant t b prev toks, baseKey := if n == 0 then 0 else prev,
                          pinOnCommit := ioFlag a 1, persist := ioFlag a 2, reserved := need, places := places, phase := .taking,
                          pages := [], inserts := [], failedAt := none, dupPtrs := [] }
      let s1 := { s with tiers := { s.tiers with t1Free := s.tiers.t1Free - need, t1Reserved := s.tiers.t1Reserved + need,
                                                 ingests := s.tiers.ingests ++ [g], ingestPool := pool } }
      done c (ingestHandle g) (BitVec.ofNat 64 (b + c.count * 2 ^ 32)) (useProfile pr.slot s1)

/-- INGEST_OPEN's run: its tests, then the chain; once the run has found SKIP, the reservation. -/
def runIngestOpen (p : Packet) (a : IngestOpenParams) (c : Cmd) (s : State) : State :=
  match jobOf s c with
  | none => fail c .noJob s
  | some j =>
    let inl := ioFlag a 0
    let count := a.tokenCount.toNat
    if j.closing then fail c .cancelled (dropRun c.slot s)
    else if bitsOf a.ioFlags.toNat 3 5 != 0 || !descsOk s j p [kindToken] || !tokensAgree p 0x10 inl count then fail c .badParam s
    else match ingestBase s j a with
      | .error st => fail c st s
      | .ok base => match openProfile s j a c.holds with
        | none => fail c .badParam s
        | some pr =>
          let n := (base.map (·.blocks)).getD 0
          let t := blockSize pr.desc
          let b := count / t
          if pr.lost then fail c .modelLost s
          else if b < 1 || 4096 < b || maxBlock pr.desc < n + b then fail c .badParam s
          else if ioFlag a 1 && (pinShortage s j b b (base.map (·.record))).isSome then fail c .quota s
          else if c.phase == 0 && ingestSpent s j.tenant then onQuota c s
          else if s.tiers.ingestPool.free == 0 || (c.cls == .be && decide (s.tiers.ingestPool.free ≤ Config.ingestHeadroom)) then
            (match c.cls with
              | .be => fail c .noSpace s
              | .lc => park c.slot .ingestIndex s)
          else if c.cls == .be && s.tiers.aboveMark then fail c .noSpace s
          else withTokens c p inl count a.tokens (fun toks s =>
            if c.phase == 0 then
              startRun c .ingestOpen j (match base with
                | some r => r.scope
                | none => a.scopeId) (2 ^ a.variant.toNat) 0 (n + 1) t b b (ingestPrev s j a base) toks s
            else openIngest c j a base pr toks s) s

/-- INGEST_OPEN (0x0401). -/
def execIngestOpen (p : Packet) (a : IngestOpenParams) (s : State) : Host.Outcome State Fault Refusal :=
  finish s (command (.ingestOpen p a) (opLate 0x0401) p (acceptIngestOpen a) (fun c s => sweepProfiles (runIngestOpen p a c s)) s)

/-! ## INGEST_PULL -/

/-- The keys of a pull's buffers (R191): RKEY is that of the first REMOTE_BUFFER descriptor. [DEDUCED, log 131] -/
def pullKeysOk (p : Packet) (a : IngestParams) : Bool :=
  ((descsOf kindRemoteBuffer p).head?.map fun d => d.rkey == a.rkey).getD false

/-- A pull or a grant is settled against its ingest at its acceptance: a commit accepted later does not turn it away (R194). -/
def acceptOnIngest (a : IngestParams) (c : Cmd) (s : State) : State :=
  match (jobOf s c).bind fun j => (resolveIngest s j a.ingestHandle).toOption with
  | none => s
  | some _ => setCmd c.slot (fun c => { c with phase := 1 }) s

/-- The ingest that a pull or a grant acts on: the one it was accepted on, while that stands. -/
def ingestFor (s : State) (j : Job) (c : Cmd) (h : U32) : Except Status Ingest :=
  if c.phase == 1 then
    match findIngest s (bitsOf h.toNat 0 12) with
    | some g => if ingestHandle g == h && g.job == j.index then .ok g else .error .badParam
    | none => .error .badParam
  else resolveIngest s j h

/-- Queues the reads of a pull's buffers. [DEDUCED, log 63] -/
def startPull (c : Cmd) (p : Packet) (s : State) : State :=
  let ds := descsOf kindRemoteBuffer p
  let s1 := setCmd c.slot (fun c => { c with wait := .reads, left := ds.length, count := 0, dups := 0, rejects := 0 }) s
  if p.path == .rdma then
    match findQp s c.lane with
    | none => s1
    | some q => ds.foldl (fun s d =>
        startUnit (.rdma (q.lport / 4)) (newUnit c.cls (.send c.lane (.readPull c.slot d.rkey d.address.toNat) (descLen d)) 0 0) s) (needContext c.lane s1)
  else
    match (jobOf s c).bind (primaryLane s) with
    | none => replyPull { c with count := 0, dups := 0, rejects := 0 } .cancelled s1
    | some l => ds.foldl (fun s d =>
        startUnit (.host (laneRing l).1) (newUnit c.cls (.hostRead l c.slot d.address.toNat (descLen d)) 0
          (max 1 (ceilDiv (min (descLen d) 65536) 4096))) s) s1

/-- INGEST_PULL's run (R190, R191). [DEDUCED, log 131] -/
def runIngestPull (p : Packet) (a : IngestParams) (c : Cmd) (s : State) : State :=
  match jobOf s c with
  | none => fail c .noJob s
  | some j =>
    if paramLen p != 16 || a.reserved0C != 0 then fail c .badParam s
    else match ingestFor s j c a.ingestHandle with
      | .error st => fail c st s
      | .ok g => match ingestProfile s g with
        | none => fail c .badParam s
        | some pr =>
          if !descsOk s j p [kindRemoteBuffer] || !pullKeysOk p a then fail c .badParam s
          else if pr.lost then fail c .modelLost s
          else if ingestSpent s j.tenant then onQuota c s
          else startPull c p s

/-- INGEST_PULL (0x0402). -/
def execIngestPull (p : Packet) (a : IngestParams) (s : State) : Host.Outcome State Fault Refusal :=
  finish s (command (.ingestPull p a) (opLate 0x0402) p (acceptOnIngest a) (runIngestPull p a) s)

/-- The records that a read of a pull brings are handed to its ingest, COUNT of them at most.
[DESIGN CHOICE, log 13; DEDUCED, log 37, 63] -/
def pullRecords (slot : Nat) (rs : List IngestRecord) (s : State) : State :=
  rs.foldl (fun s r => match findCmd s slot with
    | none => s
    | some c => match c.instr with
      | .ingestPull _ a =>
        let under := (s.tiers.incoming.filter fun x => x.pull == some slot).length
        if a.count.toNat ≤ c.count + c.dups + c.rejects + under then s
        else arrive (bitsOf a.ingestHandle.toNat 0 12) (some slot) none r s
      | _ => s) s

/-- A buffer of a pull has been read whole; the reply follows the last (R191). [DEDUCED, log 37] -/
def pullBufferDone (slot : Nat) (s : State) : State :=
  finishPull slot (setCmd slot (fun c => { c with left := c.left - 1 }) s)

/-! ## INGEST_PUSH_SLOTS -/

/-- Landing slots that a class may take (R326). -/
def landingFree (s : State) : Cls → Nat
  | .lc => s.tiers.landingPool.lcFree + s.tiers.landingPool.sharedFree
  | .be => s.tiers.landingPool.sharedFree

/-- The `n` lowest-numbered landing slots that are free. -/
def lowestSlots (s : State) (n : Nat) : List Nat :=
  let used := s.tiers.landing.map (·.num)
  ((List.range (n + used.length)).filter fun i => !used.contains i).take n

/-- Takes landing slots for a holder: an LC command empties its reserve first. -/
def takeLanding (c : Cls) (nums : List Nat) (job : Nat) (h : SlotHolder) (s : State) : State :=
  match s.tiers.landingPool.take c nums.length with
  | none => s
  | some (t, pool) =>
    let xs := nums.zipIdx.map fun (n, i) => { num := n, job := job, holder := h, fromLc := decide (i < t.lc), consumed := false : LandingSlot }
    { s with tiers := { s.tiers with landing := s.tiers.landing ++ xs, landingPool := pool } }

/-- INGEST_PUSH_SLOTS's run (R192, R296, R374). [DEDUCED, log 131] -/
def runIngestPushSlots (p : Packet) (a : IngestParams) (c : Cmd) (s : State) : State :=
  match jobOf s c with
  | none => fail c .noJob s
  | some j =>
    let fits := ((c.payloadCap.getD 0) - 32) / 8
    if p.path == .pcie || paramLen p != 16 || a.reserved0C != 0 || a.rkey != 0 || !descsOk s j p [kindReplyPayload]
        || fits == 0 || a.count == 0 || 4096 < a.count.toNat then fail c .badParam s
    else match ingestFor s j c a.ingestHandle with
      | .error st => fail c st s
      | .ok g => match ingestProfile s g with
        | none => fail c .badParam s
        | some pr =>
          if pr.lost then fail c .modelLost s
          else if ingestSpent s j.tenant then onQuota c s
          else
            let n := min (min a.count.toNat fits) (min (Config.jobLandingSlots - jobSlots s j.index) (landingFree s c.cls))
            if n == 0 then busy c 4 s
            else
              let nums := lowestSlots s n
              completeWith c (8 * n) 0 8 (.addresses (nums.map landingAddr)) noFlags (BitVec.ofNat 32 n)
                (BitVec.ofNat 64 j.landingKey.toNat) (takeLanding c.cls nums j.index (.ingest g.index) s)

/-- INGEST_PUSH_SLOTS (0x0403). -/
def execIngestPushSlots (p : Packet) (a : IngestParams) (s : State) : Host.Outcome State Fault Refusal :=
  finish s (command (.ingestPushSlots p a) (opLate 0x0403) p (acceptOnIngest a) (runIngestPushSlots p a) s)

/-! ## INGEST_COMMIT -/

/-- The form of INGEST_COMMIT's and INGEST_ABORT's parameters. -/
def endForm (p : Packet) (a : IngestParams) : Bool := formOk p 16 [] (a.count == 0 && a.rkey == 0 && a.reserved0C == 0)

/-- INGEST_COMMIT closes the ingest from its acceptance (R194). -/
def commitAccept (p : Packet) (a : IngestParams) (c : Cmd) (s : State) : State :=
  match jobOf s c with
  | none => s
  | some j =>
    if !endForm p a then s
    else match resolveIngest s j a.ingestHandle with
      | .error _ => s
      | .ok g => setCmd c.slot (fun c => { c with phase := 1 }) (setIngest g.index (fun g => { g with phase := .committing }) s)

/-- Whether a purge of a tenant and scope, accepted before an event, is still in flight (R186). -/
def purgeBefore (s : State) (tenant : Nat) (scope : U16) (slate : Nat) : Bool :=
  s.jobs.cmds.any fun c => c.tenant == tenant && decide (c.acceptSlate < slate) && (match c.instr with
    | .purgeTenant _ _ => true
    | .purgeScope _ a => a.scopeId == scope
    | _ => false)

/-- The new blocks that a commit asks the cores for: those found usable at INGEST_OPEN, then the complete ones up to the first
that is not (R83, R194). -/
def committable (d : ProfileDesc) (g : Ingest) : Nat :=
  g.skip + ((List.range (g.newBlocks - g.skip)).takeWhile fun i => blockComplete d g (g.base + g.skip + i + 1)).length

/-- What the core answered for a new block, and the node pointers of the first `n` new blocks, in block order. -/
def answerOf (g : Ingest) (block : Nat) : Option (Option Nat) := (g.inserts.find? fun x => x.1 == block).map (·.2)
def visiblePtrs (g : Ingest) (n : Nat) : List Nat := (List.range n).filterMap fun i => (answerOf g (i + 1)).bind id

/-- The new blocks that a commit makes visible: those before the first that failed (R85, R194). -/
def visibleBlocks (d : ProfileDesc) (g : Ingest) : Nat :=
  match g.failedAt with
  | some f => f - 1
  | none => committable d g

/-- PIN_ON_COMMIT (R194): the visible blocks, which their cores have pinned, join the base record in place, or form a new root
record; RESULT1. A base record released or extended since INGEST_OPEN takes no block, and the pins fall again. [DEDUCED, log 38] -/
def pinCommit (j : Job) (g : Ingest) (ptrs : List Nat) (s : State) : U64 × State :=
  let last := g.keys.getD (ptrs.length - 1) 0
  let tier := (ptrs.filterMap (findNode s)).foldl (fun m n => max m (lowestTier (tierHintOf n))) 0
  let refused := (0, ptrs.foldl (fun s p => dropPin p s) s)
  match g.baseRecord with
  | none =>
    if ptrs.isEmpty then (0, s)
    else match newRecord j g.scope ptrs.length last none 0 ptrs tier s with
      | none => refused
      | some (r, s1) => (pinHandle r, s1)
  | some ri => match findRecord s ri with
    | none => refused
    | some r =>
      if r.released || r.job != j.index || r.blocks != g.base then refused
      else if ptrs.isEmpty then (pinHandle r, s)
      else
        let all := reach s ri
        (pinHandle r, askScores (all ++ ptrs.dropLast) (growRecord ri ptrs last tier s))

/-- The scored use of a commit's duplicates reaches the blocks before them: the base record's and the earlier new ones (R86). -/
def scoreDuplicates (g : Ingest) (s : State) : State :=
  let dups := (List.range g.newBlocks).filter fun i => ((answerOf g (i + 1)).bind id).any g.dupPtrs.contains
  match dups.getLast? with
  | none => s
  | some i =>
    let before := match g.baseRecord with
      | some r => (reach s r).take g.base
      | none => []
    askScores (before ++ visiblePtrs g i) s

/-- The stop reason of a commit (R194). A block found usable at INGEST_OPEN and no longer usable counts as an incomplete one.
[DESIGN CHOICE, log 161] -/
def stopReason (g : Ingest) (visible : Nat) : Nat :=
  match g.failedAt with
  | some f => if f ≤ g.skip then 1 else 3
  | none => if visible == g.newBlocks then 0 else if blockRejected g (g.base + visible + 1) then 2 else 1

/-- The commit's reply: the scored uses of its duplicates, its pins, and the counts of lookups that have not replied (R21, R85, R86,
R194). [DEDUCED, log 38] -/
def replyCommit (i : Nat) (s : State) : State :=
  match findIngest s i with
  | none => s
  | some g => match findJob s g.job, ingestProfile s g, s.jobs.cmds.find? (commitOf g) with
    | some j, some pr, some c =>
      let visible := visibleBlocks pr.desc g
      let s1 := scoreDuplicates g s
      let (r1, s2) := if g.pinOnCommit then pinCommit j g (visiblePtrs g visible) s1 else (0, s1)
      let reason := stopReason g visible
      let s3 := complete c (if reason == 0 then .ok else .partialDone) noFlags (BitVec.ofNat 32 (g.base + visible + reason * 2 ^ 24)) r1
        (reviveRuns (g.keys.take visible) s2)
      endIngest g s3
    | _, _, _ => s

/-- Every core has answered (R85, R194): the pins of later blocks fall, the cores of later blocks remove the nodes that they
inserted for a commit that failed, and the reply follows the last removal. [DEDUCED, log 38] -/
def finishCommit (i : Nat) (s : State) : State :=
  match findIngest s i with
  | none => s
  | some g => match ingestProfile s g, s.jobs.cmds.find? (commitOf g) with
    | some pr, some c =>
      let visible := visibleBlocks pr.desc g
      let late := g.inserts.filterMap fun x => if visible < x.1 then x.2 else none
      let undone := late.filter fun p => !g.dupPtrs.contains p
      let s1 := if g.pinOnCommit then late.foldl (fun s p => dropPin p s) s else s
      if undone.isEmpty then replyCommit i s1
      else undone.foldl (fun s p => askOwner p c.cls (.purge p (some c.slot)) s)
        (setIngest i (fun g => { g with phase := .undoing }) (setCmd c.slot (fun c => { c with left := undone.length }) s1))
    | _, _ => s

/-- Sends one insert request per block to the blocks' cores, in block order (R83); an ingest with none to send is finished at
once. -/
def sendInserts (c : Cmd) (g : Ingest) (d : ProfileDesc) (s : State) : State :=
  let run := committable d g
  let s1 := setIngest g.index (fun g => { g with phase := .inserting }) (setCmd c.slot (fun c => { c with wait := .slivers, left := run }) s)
  if run == 0 then finishCommit g.index s1
  else (List.range run).foldl (fun s k =>
    let r := if k < g.skip then SliverReq.skip c.slot (k + 1) else .insert c.slot (k + 1)
    askSliver (sliverOf (g.keys.getD k 0)) c.cls r s) s1

/-- Whether a commit's base record is being extended, so that the commit may not grow it yet. [DEDUCED, log 46] -/
def baseBusy (s : State) (g : Ingest) : Bool := g.pinOnCommit && (g.baseRecord.map (extending s)).getD false

/-- INGEST_COMMIT's run: it waits for the ingest's earlier pulls and for earlier purges (R186, R194). [DEDUCED, log 37] -/
def runIngestCommit (p : Packet) (a : IngestParams) (c : Cmd) (s : State) : State :=
  match jobOf s c with
  | none => fail c .noJob s
  | some j =>
    if !endForm p a then fail c .badParam s
    else if c.phase != 1 then (match resolveIngest s j a.ingestHandle with
      | .error st => fail c st s
      | .ok _ => fail c .badParam s)
    else match findIngest s (bitsOf a.ingestHandle.toNat 0 12) with
      | none => fail c .badParam s
      | some g => match ingestProfile s g with
        | none => fail c .badParam s
        | some pr =>
          if pr.lost then endIngest g (fail c .modelLost s)
          else if (s.jobs.cmds.any fun x => pullOf g x && decide (x.acceptSlate < c.acceptSlate)) || ingestBusy s g then park c.slot .pulls s
          else if purgeBefore s j.tenant g.scope c.acceptSlate then park c.slot .purgeOrder s
          else if baseBusy s g then park c.slot .pulls s
          else sendInserts c g pr.desc s

/-- INGEST_COMMIT (0x0404). -/
def execIngestCommit (p : Packet) (a : IngestParams) (s : State) : Host.Outcome State Fault Refusal :=
  finish s (command (.ingestCommit p a) (opLate 0x0404) p (commitAccept p a) (runIngestCommit p a) s)

/-! ## INGEST_ABORT -/

/-- INGEST_ABORT acts from its acceptance (R194, R195). -/
def abortAccept (p : Packet) (a : IngestParams) (c : Cmd) (s : State) : State :=
  match jobOf s c with
  | none => s
  | some j =>
    if !endForm p a then s
    else match resolveIngest s j a.ingestHandle with
      | .error _ => s
      | .ok g => abortIngest g (setCmd c.slot (fun c => { c with phase := 1 }) s)

/-- INGEST_ABORT's run. [DEDUCED, log 140] -/
def runIngestAbort (p : Packet) (a : IngestParams) (c : Cmd) (s : State) : State :=
  match jobOf s c with
  | none => fail c .noJob s
  | some j =>
    if !endForm p a then fail c .badParam s
    else if c.phase == 1 then done c 0 0 s
    else match resolveIngest s j a.ingestHandle with
      | .error st => fail c st s
      | .ok _ => fail c .badParam s

/-- INGEST_ABORT (0x0405). -/
def execIngestAbort (p : Packet) (a : IngestParams) (s : State) : Host.Outcome State Fault Refusal :=
  finish s (command (.ingestAbort p a) (opLate 0x0405) p (abortAccept p a) (runIngestAbort p a) s)

/-! ## SLIVER_INSERT -/

/-- Whether a sliver's core has room for one more node, must wait for a slot that is being given back, or finds none (R65). -/
inductive Room where
  | ready | later | full
deriving DecidableEq, Repr

/-- Whether some slot of a sliver is on its way back: a node of it waits for its INVALIDATED, or a slot that no node holds is still
named somewhere. [DEDUCED, log 58] -/
def slotComing (s : State) (n : Nat) : Bool :=
  (sliverNodes s n).any (·.dying)
    || (sliverChunks s n).any fun c => (List.range 256).any fun i =>
      !(s.index.nodes.any fun x => x.ptr == 256 * c + i) && !slotQuiet s (256 * c + i)

/-- Whether a sliver is full (R65): its nodes, keyed or not, reach their limit, or it can get no slot. [DEDUCED, log 58] -/
def sliverFull (s : State) (n : Nat) : Bool :=
  decide (s.index.capacity / 6144 ≤ (sliverNodes s n).length) || (allocSlot s n).isNone

/-- The node that a full sliver gives up: the lowest-valued that is unpinned and unheld (R65, R88). [DEDUCED, log 58] -/
def victimOf (s : State) (n : Nat) : Option Node :=
  (sortBy (offeredBefore s) (s.index.nodes.filter fun m => sliverOf m.key == n && pinCountOf s m == 0 && !m.dying && !m.evicting
    && nodeUnheld s m)).head?

/-- Makes room in a full sliver before its core inserts (R65). A victim's slot is free once its entry is gone (R64), and the
insert waits for it. [DEDUCED, log 58] -/
def roomFor (n : Nat) (s : State) : Room × State :=
  if !sliverFull s n then (.ready, s)
  else if slotComing s n then (.later, s)
  else match victimOf s n with
    | none => (.full, s)
    | some m =>
      let s1 := evictNode m.ptr (abandonMovesOf m.ptr s)
      (if sliverFull s1 n then .later else .ready, s1)

/-- The pages of an ingested block as its node holds them: each is sealed under the node's epoch. [DEDUCED, log 62] -/
def nodePages (j : Job) (d : ProfileDesc) (g : Ingest) (key : BlockKey) (block epoch : Nat) (s : State) : List Page × State :=
  let ps := sortBy (fun a b => decide (a.layer < b.layer)) (g.pages.filter fun p => p.block == block)
  ps.foldl (fun (out, s) p =>
    if p.epoch != epoch then
      let no := s.tiers.writeNo + 1
      (out ++ [sealedPage s j.tenant (regGenOf s j.tenant) key block g.variant (pageTiles d) p.layer epoch no p.body],
        { s with tiers := { s.tiers with writeNo := no } })
    else (out ++ [{ layer := p.layer, body := p.body, writeNo := p.writeNo.getD 0, sealEpoch := epoch, pageSeal := p.pageSeal,
                    tileChecks := p.tileChecks }], s)) ([], s)

/-- The groups of a new node, where INGEST_OPEN placed them: every extent dirty in T1 (Table 6.5). -/
def freshGroups (g : Ingest) (block : Nat) : List GroupSt :=
  (g.places.filter fun p => p.1 == block).map fun p =>
    { t1 := some p.2.2.1, t2 := none, t3 := none, dirty := .t1, moving := false, entryOk := true }

/-- Inserts the node of a block (R83, Table 6.5), and asks for its entry. [DEDUCED, log 62] -/
def insertNode (j : Job) (g : Ingest) (pr : Profile) (i ptr seq : Nat) (s : State) : State :=
  let d := pr.desc
  let block := g.base + i
  let key := g.keys.getD (i - 1) 0
  let parent := if i == 1 then g.baseKey else g.keys.getD (i - 2) 0
  let epoch := (epochsOf s j.tenant).newest % 4
  let (pages, s1) := nodePages j d g key block epoch s
  let v := findSliver s1 (sliverOf key)
  let n : Node :=
    { ptr := ptr, key := key, parentLo := keyLo parent, epoch := epoch, variant := g.variant, tenant := j.tenant,
      scope := g.scope, valid := true, committed := true, evicting := false, purged := false, persistHint := g.persist, lost := false,
      blockNo := block, pinCount := 0, score := 0, lastWindow := (window16 s1 + 65535) % 65536, lastReq := seq,
      groups := freshGroups g block,
      entryPresent := false, matchPriority := pr.preference * 4 + g.variant, insertSeq := v.insertSeq, pinGen := 0, checkOk := true,
      keyed := true, regGen := regGenOf s1 j.tenant, modelId := j.modelId, layers := d.layers.toNat, desc := d, tiles := pageTiles d,
      pages := pages, changed := true, dying := false }
  let size := blockGranules d
  let s2 := putSliver { v with insertSeq := v.insertSeq + 1, freeChunks := v.freeChunks.filter (· != nodeChunk ptr) }
    { s1 with index := { s1.index with nodes := s1.index.nodes ++ [n] },
              tiers := { s1.tiers with t1Reserved := s1.tiers.t1Reserved - size, dirtyT1 := s1.tiers.dirtyT1 + d.layers.toNat } }
  askInsert n (updateMark (journalIndex (.insert n) (setIngest g.index (fun g =>
    { g with reserved := g.reserved - size, places := g.places.filter fun p => p.1 != block }) s2)))

/-- A core's answer to one request of a commit, if none has come for that block (R94). -/
def noteInsert (i block : Nat) (ans : Option Nat) (dup : Bool) (s : State) : State :=
  setIngest i (fun g =>
    if (answerOf g block).isSome then g
    else { g with
      inserts := g.inserts ++ [(block, ans)],
      failedAt := if ans.isSome then g.failedAt else some (min block (g.failedAt.getD block)),
      dupPtrs := match ans with
        | some p => if dup then g.dupPtrs ++ [p] else g.dupPtrs
        | none => g.dupPtrs }) s

/-- The pin that PIN_ON_COMMIT takes with a core's answer (R71, R194). -/
def pinAnswer (g : Ingest) (ptr seq : Nat) (s : State) : State := if g.pinOnCommit then takePin ptr seq s else s

/-- The usable keyed node of a new block's key (R84). -/
def usableNode (s : State) (j : Job) (g : Ingest) (key : BlockKey) : Option Node := searchIndex s key j.tenant (2 ^ g.variant)

/-- Whether a node has the key, tenant and variant of a new block (R60). -/
def sameBlock (j : Job) (g : Ingest) (key : BlockKey) (n : Node) : Bool :=
  n.key == key && n.tenant == j.tenant && n.variant == g.variant

/-- The core keeps the node it has: a duplicate insert, which scores it (R84, R86). -/
def keepNode (g : Ingest) (n : Node) (block seq : Nat) (s : State) : State :=
  noteInsert g.index block (some n.ptr) true
    (pinAnswer g n.ptr seq (setNode n.ptr (fun m => { scoreUse (window16 s) m with lastReq := seq }) s))

/-- What the core does with the request for a block found usable at INGEST_OPEN (R83, R84, R194). -/
def applySkip (g : Ingest) (j : Job) (block seq : Nat) (s0 : State) : State :=
  let key := g.keys.getD (block - 1) 0
  let s := loseUnchecked (sameBlock j g key) s0
  match usableNode s j g key with
  | some n => keepNode g n block seq s
  | none => noteInsert g.index block none false s

/-- What the core does with one insert request (R84, R85): `false` when it must wait for a slot. A keyed node of the block that
is neither usable nor being evicted is purged. [DESIGN CHOICE, log 162] -/
def applyInsert (g : Ingest) (j : Job) (pr : Profile) (block seq : Nat) (s0 : State) : Bool × State :=
  let key := g.keys.getD (block - 1) 0
  let s := loseUnchecked (sameBlock j g key) s0
  match usableNode s j g key with
  | some n => (true, keepNode g n block seq s)
  | none =>
    let old := s.index.nodes.filter fun n => sameBlock j g key n && n.keyed
    let s1 := old.foldl (fun s n => if n.evicting then evictNode n.ptr s else purgeNode n.ptr s) s
    let (room, s2) := roomFor (sliverOf key) s1
    match room, allocSlot s2 (sliverOf key) with
    | .later, _ => (false, s2)
    | .ready, some ptr => (true, noteInsert g.index block (some ptr) false (pinAnswer g ptr seq (insertNode j g pr block ptr seq s2)))
    | _, _ => (true, noteInsert g.index block none false s2)

/-- The ingest that a command slot's commit is inserting. -/
def insertingOf (s : State) (slot : Nat) : Option Ingest :=
  s.tiers.ingests.find? fun g => g.phase == .inserting && ((findCmd s slot).map (commitOf g)).getD false

/-- The commit goes on once every core has answered. -/
def answersIn (i slot : Nat) (s : State) : State :=
  match findIngest s i, findCmd s slot with
  | some g, some c => if g.phase == .inserting && g.inserts.length == c.left then finishCommit i s else s
  | _, _ => s

/-- Whether a commit still waits for the answer about a block (R94). -/
def unanswered (s : State) (slot block : Nat) : Option (Ingest × Job × Profile) :=
  (insertingOf s slot).bind fun g =>
    if (answerOf g block).isSome then none
    else (findJob s g.job).bind fun j => (ingestProfile s g).map fun pr => (g, j, pr)

/-- A commit's insert request; `false` when the core must wait for a slot. -/
def serveInsert (slot block seq : Nat) (s : State) : Bool × State :=
  match unanswered s slot block with
  | none => (true, s)
  | some (g, j, pr) =>
    let (taken, s1) := applyInsert g j pr block seq s
    (taken, if taken then answersIn g.index slot s1 else s1)

/-- A commit's request for a block found usable at INGEST_OPEN. -/
def serveSkip (slot block seq : Nat) (s : State) : State :=
  match unanswered s slot block with
  | none => s
  | some (g, j, _) => answersIn g.index slot (applySkip g j block seq s)

/-- A core whose insert must wait for a slot leaves its request at the head of its queue. -/
def untake (n : Nat) (e : SliverEntry) (before after : State) : State :=
  let b := findSliver before n
  let v := { findSliver after n with k := b.k, log := b.log, nextSeq := b.nextSeq }
  let x := { e with seq := 0 }
  putSliver (match e.cls with
    | .lc => { v with lcq := x :: v.lcq }
    | .be => { v with beq := x :: v.beq }) after

/-- SLIVER_INSERT: one insert request; the commit's reply follows the last answer. -/
def doSliverInsert (n : Nat) (s : State) : State :=
  sliverStep n (fun e => match e.req with
    | .insert slot block => some fun s1 =>
        let (taken, s2) := serveInsert slot block e.seq s1
        if taken then s2 else untake n e s s2
    | .skip slot block => some (serveSkip slot block e.seq)
    | _ => none) s

/-- SLIVER_INSERT. -/
def execSliverInsert (sliver : Nat) (s : State) : Host.Outcome State Fault Refusal := finish s (doSliverInsert sliver s)

end Sys2Proof.Machine
end

