-- ==== Sys2Proof/Machine/Units.lean ====
section
/-! DEFINITION. The ends of engine units: ATTENTION, PROJECTION, MERGE, CODEC, CRYPTO, MOVER, RDMA, HOST_PORT and SPLICE
units, and a unit that runs past its limit (R142, R156, R172, R239, R244, R350, R369, R429, R440). -/
namespace Sys2Proof.Machine

/-! ## Compute units -/

/-- Which work each row of the table ends. -/
def isSpan : UnitWork → Bool
  | .span .. => true
  | .discard => true
  | _ => false
def isProject : UnitWork → Bool
  | .project .. => true
  | .projectSpan .. => true
  | .discard => true
  | _ => false
def isMerge : UnitWork → Bool
  | .merge .. => true
  | _ => false

/-- An attention unit's partials are kept, and its batch goes on. -/
def spanEnd (inst : Nat) (u : EUnit) (s : State) : State :=
  match u.work with
  | .span b h x g => spanUnitEnd inst b h x g s
  | .discard => giveSlots u.held s
  | _ => s

/-- ATTENTION_UNIT_END (R244): `inst` is the tile. -/
def execAttentionUnitEnd (inst : Nat) (chk : UnitCheck) (s : State) : Host.Outcome State Fault Refusal :=
  finish s (unitEnded .tile inst chk isSpan (spanEnd inst) s)

/-- A projection unit's rebuilt tokens serve a storyboard's tile or an attention span. -/
def projectEnd (u : EUnit) (s : State) : State :=
  match u.work with
  | .project sb l tile part => sbTileUnitEnd sb l tile part u s
  | .projectSpan b h x part => stagedUnitEnd b h x part u s
  | .discard => giveSlots u.held s
  | _ => s

/-- PROJECTION_UNIT_END (R142). -/
def execProjectionUnitEnd (inst : Nat) (chk : UnitCheck) (s : State) : Host.Outcome State Fault Refusal :=
  finish s (unitEnded .tile inst chk isProject projectEnd s)

/-- One pair of a row group's tree is merged. -/
def mergeEnd (u : EUnit) (s : State) : State :=
  match u.work with
  | .merge b h g step => mergeUnitStep b h g step s
  | _ => s

/-- MERGE_UNIT_END (R239). -/
def execMergeUnitEnd (inst : Nat) (chk : UnitCheck) (s : State) : Host.Outcome State Fault Refusal :=
  finish s (unitEnded .tile inst chk isMerge mergeEnd s)

/-- Any work of the kind's queue. -/
def anyWork (_ : UnitWork) : Bool := true

/-! ## Transfers between tiers -/

/-- A unit of a transfer has ended: with the last of its step the next begins, and after the last step the owning core is asked for
the commit (R172). -/
def stepUnitEnd (id : Nat) (s : State) : State :=
  match findMove s id with
  | none => s
  | some m =>
    let s1 := setMove id (fun m => { m with left := m.left - 1 }) s
    if 1 < m.left then s1
    else match (findNode s m.ptr).bind fun n => nextStep n m with
      | none => askCommit m s1
      | some st => programReady (startStep id st s1)

/-- A crypto unit has verified the seals of part of a transfer and encrypted or decrypted it (R168, R173). -/
def moveCrypted (id part : Nat) (u : EUnit) (s : State) : State :=
  match findMove s id with
  | none => giveSlots u.held s
  | some m =>
    let s1 := match m.dst, (runSlots m.loc m.granules)[part]? with
      | .t3, some x => fillSlot x.1 u.held s
      | _, _ => giveSlots u.held s
    stepUnitEnd id s1

/-- A unit of a mover has carried part of a transfer. Bad data abandons the transfer, and the fault of the copy is handled
(R442, R443). -/
def moveUnitEnd (id : Nat) (o : ReadOutcome) (s : State) : State :=
  match findMove s id with
  | none => s
  | some m =>
    let s1 := countRead m.src o s
    if readBad o then dataError m.ptr m.group m.src (failMove id s1) else stepUnitEnd id s1

/-- The T3 entry of a profile's weights lists its records once every one has its copy there (R148, R150). [DEDUCED, log 114] -/
def noteWeightsT3 (slot : Nat) (s : State) : State :=
  match findProfile s slot with
  | none => s
  | some p =>
    if p.weights.all (·.t3) then
      let ws := updWhere (fun w => w.tenant == p.tenant && w.desc == p.desc) (fun w => { w with records := p.weights.map (·.record) })
        s.persist.weights
      { s with persist := { s.persist with weights := ws } }
    else s

/-- A record of codec weights has been copied (R148, R155). [DEDUCED, log 64] -/
def weightsMoved (slot layer : Nat) (dst : Tier) (s : State) : State :=
  let s1 := setWeights slot layer (withWeights dst true) s
  let s2 := match dst with
    | .t3 => imagePages (((findProfile s1 slot).map fun p => recordSize p.desc / 16384).getD 0) (noteWeightsT3 slot s1)
    | _ => s1
  match (findProfile s2 slot).bind fun p => p.weights[layer]? with
  | none => s2
  | some w =>
    if w.t1 && !w.t2 then copyWeights slot layer .t1 .t2 s2 else if w.t2 && !w.t3 then copyWeights slot layer .t2 .t3 s2 else s2

/-- A mover unit has carried part of a weights record (R172). [DEDUCED, log 64] -/
def weightsCarried (slot layer : Nat) (src dst : Tier) (left : Nat) (o : ReadOutcome) (s : State) : State :=
  let s1 := countRead src o s
  if readBad o then weightsBad slot layer src s1
  else if 1 < left then queueUnit .mover (newUnit .be (.weightsMove slot layer src dst (left - 1)) 0 0) s1
  else match findProfile s1 slot with
    | none => s1
    | some p => queueUnit .crypto (newUnit .be (.weightsCrypt slot layer src dst (recordSize p.desc / 32768)) 0 0) s1

/-- A crypto unit has checked and encrypted or decrypted part of a weights record. -/
def weightsCrypted (slot layer : Nat) (src dst : Tier) (left : Nat) (s : State) : State :=
  if 1 < left then queueUnit .crypto (newUnit .be (.weightsCrypt slot layer src dst (left - 1)) 0 0) s
  else weightsMoved slot layer dst s

/-! ## Codec and crypto units -/

/-- A codec unit's decoded part serves a storyboard's tile or an attention span. -/
def codecEnd (u : EUnit) (s : State) : State :=
  match u.work with
  | .decode sb l tile part => sbTileUnitEnd sb l tile part u s
  | .decodeSpan b h x part => stagedUnitEnd b h x part u s
  | .encode id part => recordEncoded id part u s
  | .moveCode id => stepUnitEnd id s
  | .discard => giveSlots u.held s
  | _ => s

/-- CODEC_UNIT_END (R156). -/
def execCodecUnitEnd (inst : Nat) (chk : UnitCheck) (s : State) : Host.Outcome State Fault Refusal :=
  finish s (unitEnded .codec inst chk anyWork codecEnd s)

/-- A crypto unit has sealed part of a storyboard's tile or of a result, or served a copy on its way between tiers. -/
def cryptoEnd (u : EUnit) (s : State) : State :=
  match u.work with
  | .crypt sb l tile part => sbCryptUnitEnd sb l tile part u s
  | .sealResult slot part => sealResultEnd slot part u s
  | .openRecord id => recordOpened id u s
  | .moveCrypt id part => moveCrypted id part u s
  | .weightsCrypt slot layer src dst left => advanceAttention (advanceAll (weightsCrypted slot layer src dst left s))
  | .sealIngest i block layer part => pageSealed i block layer part s
  | .discard => giveSlots u.held s
  | _ => s

/-- CRYPTO_UNIT_END (R173). -/
def execCryptoUnitEnd (inst : Nat) (chk : UnitCheck) (s : State) : Host.Outcome State Fault Refusal :=
  finish s (unitEnded .crypto inst chk anyWork cryptoEnd s)

/-! ## Movers -/

/-- What a finished mover unit did. -/
def moverEnd (o : ReadOutcome) (u : EUnit) (s : State) : State :=
  match u.work with
  | .move id => advanceAttention (advanceAll (moveUnitEnd id o s))
  | .stageTile sb l tile part =>
    let s1 := countRead .t1 o s
    if readBad o then inputBad.badTile sb l tile (giveSlots u.held s1) else sbTileUnitEnd sb l tile part u s1
  | .storeIngest i block layer part => if readBad o then dropIngestPage i block layer s else pageStored i block layer part s
  | .discard => giveSlots u.held s
  | .weightsMove slot layer src dst left => advanceAttention (advanceAll (weightsCarried slot layer src dst left o s))
  | _ => s

/-- MOVER_UNIT_END (R172). -/
def execMoverUnitEnd (inst : Nat) (chk : UnitCheck) (outcome : ReadOutcome) (s : State) : Host.Outcome State Fault Refusal :=
  finish s (unitEnded .mover inst chk anyWork (moverEnd outcome) s)

/-! ## Port engines -/

/-- The bytes of a whole message, of which `left` were still to send. -/
def messageBytes (s : State) (what : SentWhat) (left : Nat) : Nat :=
  match what with
  | .sbMsg sb l k bytes => ((findSb s sb).map fun b => sbMsgBytes s b l k bytes).getD left
  | .result slot => match findAttend s slot with
    | none => left
    | some (_, x) => match (findMember s x.membership).bind fun m => (memberDesc s m).map fun d => (m, d) with
      | none => left
      | some (m, d) => resultLen d (aoFlag m.prm 2) x.entries
  | .formed _ _ o => formedBytes o
  | _ => left

/-- Whether the command that a message belongs to still wants it sent (Table 7.6). -/
def messageWanted (s : State) : SentWhat → Bool
  | .sbMsg sb _ _ _ => ((findSb s sb).map fun b => b.abort.isNone).getD false
  | .result slot => (findAttend s slot).isSome
  | _ => true

/-- The storyboard of a message may settle now. -/
def settleOf (what : SentWhat) (s : State) : State :=
  match what with
  | .sbMsg sb _ _ _ => settleSb sb s
  | _ => s

/-- A whole message has been transmitted. -/
def messageSent (qpn : Nat) (what : SentWhat) (s : State) : State :=
  match what with
  | .sbMsg sb l k bytes => sbMsgSent sb l k bytes s
  | .result slot => resultSent slot s
  | .formed _ _ o => if ((findQp s qpn).map (·.leaveDue)).getD false then disconnectQp qpn (emit o s) else emit o s
  | _ => s

/-- An RDMA READ request leaves; the response takes the PSNs after it (R350, R351). -/
def readRequest (qpn : Nat) (what : SentWhat) (len : Nat) (s : State) : State :=
  let s1 := noteSent qpn len what s
  match what with
  | .readDesc _ rkey addr => emit (.rdmaReadRequest qpn rkey addr len) s1
  | .readPull _ rkey addr => emit (.rdmaReadRequest qpn rkey addr len) s1
  | _ => s1

/-- The frames of one RDMA unit on a port that is down go as FRAME messages to the relay device (R435). -/
def relayUnit (qpn bytes : Nat) (cls : Cls) (s : State) : State :=
  match (findQp s qpn).bind fun q => if relayed s q.lport then (routeEntry s 63).map fun r => (q, r) else none with
  | none => s
  | some (q, r) => (List.range (packetsOf q bytes)).foldl (fun s _ =>
      let (k, s1) := useFree s
      (sendSplice s.cfg.deviceNumber r.dest 0 0 0 cls (.frame q.lport true (Config.frameBytes k)) s1).2) s

/-- A message that its command no longer wants ends after `n` of its bytes (R213). -/
def stopMessage (qpn : Nat) (what : SentWhat) (n : Nat) (s : State) : State :=
  match what with
  | .sbMsg .. => settleOf what (cutMessage what n s)
  | _ => noteSent qpn n what s

/-- A message goes out again: the device rebuilds it from the T1 copy and seals it under the same nonce, which gives the same bytes
(R207), or issues its READ again (R351). -/
def emitAgain (qpn : Nat) (e : Sent) (s : State) : State :=
  match e.what with
  | .sbMsg sb l k _ => match findSb s sb with
    | none => s
    | some b =>
      let again := fun (raw : Bool) (i : Nat) =>
        let counter := (((layerWork b l).msgs.find? fun m => m.kind == k).map (·.counter)).getD 0
        match sealedMsg s b l raw i counter with
        | none => s
        | some (m, addr, len) => emitWrite b (if raw then b.prm.rawRkey else b.prm.dataRkey) addr e.bytes none
            (if e.bytes < len then .part m else .sealed m) s
      match k with
      | .data i => again false i
      | .raw i => again true i
      | .records =>
        let w := layerWork b l
        emitWrite b b.prm.sealRkey (b.prm.sealAddr.toNat + (l - b.firstLayer) * b.prm.sealLayerStride.toNat)
          (sbMsgBytes s b l k 0) (some (noticeWord b.prm l false false false w.raw w.late)) (.records (layerRecords w)) s
  | .readDesc _ rkey addr => emit (.rdmaReadRequest qpn rkey addr e.bytes) s
  | .readPull _ rkey addr => emit (.rdmaReadRequest qpn rkey addr e.bytes) s
  | .formed _ _ o => emit o s
  | _ => s

/-- Up to 64 KiB of a message on a queue pair have been transmitted. -/
def rdmaEnd (port : Nat) (u : EUnit) (s0 : State) : State :=
  match u.work with
  | .send qpn what left =>
    let s := relayUnit qpn (min left 65536) u.cls s0
    let free := setQp qpn fun q => { q with sending := none }
    if !qpCarries s qpn then free s
    else if isRead what then readRequest qpn what left (free s)
    else if 65536 < left then
      if messageWanted s what then
        queueUnit (.rdma port) (newUnit u.cls (.send qpn what (left - 65536)) 0 (unitCredits (left - 65536))) s
      else stopMessage qpn what (messageBytes s what left - (left - 65536)) (free s)
    else messageSent qpn what (noteSent qpn (messageBytes s what left) what (free s))
  | .resend qpn psn what left =>
    let s := relayUnit qpn (min left 65536) u.cls s0
    if 65536 < left then
      putFirst (.rdma port) (newUnit u.cls (.resend qpn psn what (left - 65536)) 0 (unitCredits (left - 65536))) s
    else match (findQp s qpn).bind fun q => q.sent.find? fun m => m.firstPsn == psn with
      | none => s
      | some e => emitAgain qpn e s
  | _ => s0

/-- RDMA_UNIT_END (R350): `inst` is the physical Ethernet port. -/
def execRdmaUnitEnd (inst : Nat) (chk : UnitCheck) (s : State) : Host.Outcome State Fault Refusal :=
  finish s (unitEnded (.rdma inst) 0 chk anyWork (rdmaEnd inst) s)

/-- The read of a descriptor or of a pull's buffer goes on or is complete. -/
def hostReadEnd (port : Nat) (u : EUnit) (lane slot offset left : Nat) (recs : List IngestRecord) (s : State) : State :=
  let s1 := emit (.hostRead (laneRing lane).1 (laneRing lane).2 offset (min left 65536)) s
  match findCmd s1 slot with
  | none => s1
  | some c =>
    let pull := match c.instr with
      | .ingestPull .. => true
      | _ => false
    let s2 := if pull then pullRecords slot recs s1 else s1
    if 65536 < left then
      queueUnit (.host port) (newUnit u.cls (.hostRead lane slot (offset + 65536) (left - 65536)) 0 (unitCredits (left - 65536))) s2
    else if pull then pullBufferDone slot s2
    else readArrived slot s2

/-- Where a whole message to a host goes: offset and length. -/
def hostTarget (s : State) (what : SentWhat) (left : Nat) : Option (Nat × Nat) :=
  match what with
  | .sbMsg sb l k _ => (findSb s sb).bind fun b => match k with
    | .data i => (sealedMsg s b l false i 0).map fun x => (x.2.1, x.2.2)
    | .raw i => (sealedMsg s b l true i 0).map fun x => (x.2.1, x.2.2)
    | .records => some (b.prm.sealAddr.toNat + (l - b.firstLayer) * b.prm.sealLayerStride.toNat, messageBytes s what left)
  | .result slot => (findAttend s slot).map fun x => (x.2.prm.resultAddr.toNat, messageBytes s what left)
  | _ => none

/-- Whether a message would leave the bounce region (R368). -/
def leavesRegion (s : State) (lane : Nat) (what : SentWhat) (left : Nat) : Bool :=
  match findRing s (laneRing lane).1 (laneRing lane).2, hostTarget s what left with
  | some r, some (off, len) => decide (regionSize r < off + len)
  | _, _ => false

/-- Up to 64 KiB of bounce-buffer DMA are done; a failed DMA puts the ring pair in fault (R368). -/
def hostEnd (port : Nat) (dmaOk : Bool) (recs : List IngestRecord) (u : EUnit) (s : State) : State :=
  match u.work with
  | .hostSend lane what left =>
    if !dmaOk then settleOf what (faultRing (laneRing lane).1 (laneRing lane).2 3 s)
    else if leavesRegion s lane what left then faultRing (laneRing lane).1 (laneRing lane).2 4 s
    else if 65536 < left then
      if messageWanted s what then
        queueUnit (.host port) (newUnit u.cls (.hostSend lane what (left - 65536)) 0 (unitCredits (left - 65536))) s
      else settleOf what (cutMessage what (messageBytes s what left - (left - 65536)) s)
    else messageSent 0 what s
  | .hostRead lane slot offset left =>
    if dmaOk then hostReadEnd port u lane slot offset left recs s
    else faultRing (laneRing lane).1 (laneRing lane).2 3 s
  | _ => s

/-- HOST_PORT_UNIT_END (R369): `inst` is the host port; `recs` the ingest records that a pull's DMA read. -/
def execHostPortUnitEnd (inst : Nat) (dmaOk : Bool) (recs : List IngestRecord) (s : State) : Host.Outcome State Fault Refusal :=
  finish s (unitEnded (.host inst) 0 .passed anyWork (hostEnd inst dmaOk recs) s)

/-- Up to 64 KiB of a splice message are transmitted; the whole message leaves sealed under the link's next counter. -/
def spliceEnd (port : Nat) (u : EUnit) (s : State) : State :=
  match u.work with
  | .spliceMsg src dst relays probes regGen b left =>
    if 65536 < left then
      queueUnit (.splice port) (newUnit u.cls (.spliceMsg src dst relays probes regGen b (left - 65536)) 0 (unitCredits (left - 65536))) s
    else if spliceUp s port then
      let hi := match findSplice s port with
        | some p => higherIdentity p.peerDevice
        | none => false
      let n := ((findSplice s port).map (·.txCounter)).getD 0 + 1
      emit (.splice port src dst relays probes regGen (u.cls == .be) hi n b)
        (setSplice port (fun p => { p with txCounter := n, frameRetries := 0 }) s)
    else s
  | _ => s

/-- SPLICE_UNIT_END (R429). -/
def execSpliceUnitEnd (inst : Nat) (s : State) : Host.Outcome State Fault Refusal :=
  finish s (unitEnded (.splice inst) 0 .passed anyWork (spliceEnd inst) s)

/-! ## Overruns -/

/-- The engine kind and instance that an ENGINE_UNIT_OVERRUN names: kinds as the failed units' record numbers them.
[DEDUCED, log 60] -/
def overrunUnit (kind inst : Nat) : Option (EngineKind × Nat) :=
  match kind with
  | 1 => some (.tile, inst)
  | 3 => some (.codec, inst)
  | 11 => some (.crypto, inst)
  | 12 => some (.mover, inst)
  | 13 => some (.hasher (inst / 8), inst % 8)
  | 14 => some (.rdma inst, 0)
  | 15 => some (.host inst, 0)
  | 16 => some (.splice inst, 0)
  | _ => none

/-- ENGINE_UNIT_OVERRUN: an engine's watchdog ends a unit as a failed check does. [DEDUCED, log 60] -/
def execEngineUnitOverrun (kind : Nat) (inst : Nat) (s : State) : Host.Outcome State Fault Refusal :=
  finish s (match overrunUnit kind inst with
    | none => s
    | some (k, i) => match runningUnit s k i with
      | none => s
      | some _ => unitEnded k i .failed anyWork (fun _ s => s) (countFault 9 1 s))

end Sys2Proof.Machine
end

