-- ==== Sys2Proof/Machine/Tiers.lean ====
section
/-! DEFINITION. Tier moves and their commits, eviction, scrubs, re-sealing, and the cache control commands EVICT, PROMOTE,
HINT, PURGE_SCOPE and PURGE_TENANT (chapter "Tiers, write-back and admission"), with KEY_ROTATE (R402 to R406). -/
namespace Sys2Proof.Machine

/-! ## SLIVER_STATE_COMMIT (Table 6.5, Table 14.6) -/

/-- Whether a transfer of an extent could start now towards a tier. [DEDUCED, log 128] -/
def couldStart (s : State) (dst : Tier) (x : Nat × Nat) : Bool :=
  match (findNode s x.1).bind fun n => (groupAt n x.2).map fun g => (n, g) with
  | none => false
  | some (n, g) => !g.moving && decide (extentGranules n x.2 dst ≤ spaceOf s dst) && (placeIn s dst (extentGranules n x.2 dst)).isSome

/-- The queued promotions start in order, up to the first extent for which there is no room (R183). -/
def startQueued : List (Nat × Nat × Tier) → State → State
  | [], s => s
  | x :: xs, s => match (findNode s x.1).bind fun n => groupAt n x.2.1 with
    | none => startQueued xs s
    | some g => match bestTier g with
      | none => startQueued xs s
      | some t =>
        if g.moving || (copyIn g x.2.2).isSome then startQueued xs s
        else if couldStart s x.2.2 (x.1, x.2.1) then startQueued xs (startMove x.1 x.2.1 t x.2.2 .promote none .be s)
        else s

/-- Everything that waits for a copy or for space goes on: storyboards, batches, and the promotions that no command waits
for (R183). [DEDUCED, log 73] -/
def startPromotions (s : State) : State :=
  let s1 := startQueued s.tiers.promoteQueue s
  let waits := s1.tiers.promoteQueue.filter fun x => match (findNode s1 x.1).bind fun n => groupAt n x.2.1 with
    | none => false
    | some g => !g.moving && groupPresent g && g.t1.isNone && (x.2.2 == .t1 || g.t2.isNone)
  { s1 with tiers := { s1.tiers with promoteQueue := waits } }

/-- The extents with granules in retired rows move to others, as far as there is room (R161). -/
def moveRetired (s : State) : State :=
  if s.tiers.retiredRows.isEmpty then s
  else s.index.nodes.foldl (fun s n => (List.range n.groups.length).foldl (fun s g => match (groupAt n g).bind (·.t2) with
    | none => s
    | some a => if 0 < retiredPart s a (extentGranules n g .t2) then relocate n.ptr g s else s) s) s

def goOn (s : State) : State := advanceAttention (advanceAll (startPromotions (moveRetired (startRecords s))))

/-- An extent of an EVICT has moved: it counts once (R182). -/
def noteMoved (slot ptr g : Nat) (s : State) : State :=
  setCmd slot (fun c => if c.moved.contains (ptr, g) then c else { c with moved := (ptr, g) :: c.moved }) s

/-- The command that a move serves counts the extent. -/
def countMoved (m : Move) (s : State) : State :=
  match m.slot with
  | none => s
  | some slot => match findCmd s slot with
    | none => s
    | some c => match c.instr with
      | .evict .. => noteMoved slot m.ptr m.group s
      | _ => s

/-- The new copy of an extent is entered, and MOVING cleared. -/
def enterCopy (m : Move) (s : State) : State :=
  setGroup m.ptr m.group (fun g => { withCopy m.dst (some m.loc) g with moving := false }) (dropMove m.id s)

/-- Table 6.5: the state commit of a transfer of an extent whose state was `x`. -/
def commitCopy (m : Move) (x : GroupSt) (s : State) : State :=
  let s1 := enterCopy m s
  match m.src, m.dst with
  | .t1, .t2 => admitAtWriteBack m.ptr (setDirty m.ptr m.group (if x.dirty == .t1 then .t2 else x.dirty) (dropCopy m.ptr m.group .t1 s1))
  | .t2, .t2 => match x.t2 with
    | some a => freePlace .t2 a m.granules s1
    | none => s1
  | .t2, .t1 => if x.dirty == .t2 then setDirty m.ptr m.group .t1 (dropCopy m.ptr m.group .t2 s1) else s1
  | _, .t3 =>
    let s2 := journalIndex (.presence m.ptr m.group (some m.loc) []) (setDirty m.ptr m.group .clean s1)
    match m.why with
    | .evict => dropCopy m.ptr m.group .t2 s2
    | _ => s2
  | _, _ => s1

/-- A group with the places of its re-sealed copies. [DEDUCED, log 76] -/
def resealedGroup (ms : List Move) (i : Nat) (g : GroupSt) : GroupSt :=
  let mine := ms.filter fun m => m.group == i
  (mine.foldl (fun g m => withCopy m.dst (some m.loc) g) g) |> fun y => { y with moving := g.moving && mine.isEmpty }

/-- The granules of the copies that a re-seal leaves behind in T1 and T2 return. [DEDUCED, log 76] -/
def freeResealed (n : Node) (ms : List Move) (s : State) : State :=
  ms.foldl (fun s m => match m.dst, (groupAt n m.group).bind fun x => copyIn x m.dst with
    | .t3, _ => s
    | t, some a => freePlace t a m.granules s
    | _, none => s) s

/-- Step 3 of Table 14.6: one node write enters the new epoch and the new places of every copy; the change is
journalled, and the old flash granules fall free with its flush (R90). [DEDUCED, log 76] -/
def commitReseal (ptr : Nat) (s : State) : State :=
  match findNode s ptr with
  | none => s
  | some n =>
    let e := (epochsOf s n.tenant).newest % 4
    let mine := s.tiers.moves.filter fun m => m.ptr == ptr && m.why == .reseal
    let old := (List.range n.groups.length).flatMap (flashRun n)
    let groups := n.groups.zipIdx.map fun (g, i) => resealedGroup mine i g
    let s1 := freeResealed n mine (setNode ptr (fun m => { m with epoch := e, groups := groups, pages := resealPages s n e s.tiers.writeNo }) s)
    journalIndex (.epochChange ptr e s.tiers.writeNo groups old)
      { s1 with tiers := { s1.tiers with writeNo := s1.tiers.writeNo + n.pages.length,
                                         moves := s1.tiers.moves.filter fun m => !(m.ptr == ptr && m.why == .reseal) } }

/-- A finished transfer is committed, unless its node or its source has gone meanwhile. A re-seal commits with the last
of its node's programs. -/
def commitMove (id seq : Nat) (s : State) : State :=
  match findMove s id with
  | none => s
  | some m => match (findNode s m.ptr).bind fun n => (groupAt n m.group).map fun x => (n, x) with
    | none => abandonMove m s
    | some (n, x) =>
      if n.dying || n.lost || (copyIn x m.src).isNone then failMove id s
      else match m.why with
        | .reseal =>
          if s.tiers.moves.any fun y => y.ptr == m.ptr && y.why == .reseal && 0 < y.left then s
          else noteReq m.ptr seq (commitReseal m.ptr s)
        | _ => noteReq m.ptr seq (updateMark (countMoved m (commitCopy m x s)))

/-- What HINT writes to a node (R184). -/
def hintNode (arg : Nat) (n : Node) : Node :=
  { n with persistHint := if bitOf arg 0 then true else if bitOf arg 1 then false else n.persistHint,
           score := if bitOf arg 2 then 0 else n.score }

/-- A core's answer to one request of a HINT, of an EVICT with DEPTH 3, of a purge or of a commit that removes nodes again;
`marked` says that it has marked a node PURGED. The command goes on with the last (R85, R182, R184). -/
def answered (slot : Option Nat) (marked : Bool) (s : State) : State :=
  match slot.bind (findCmd s) with
  | none => s
  | some c =>
    let s1 := setCmd c.slot (fun c => { c with left := c.left - 1, count := c.count + (if marked then 1 else 0) }) s
    if c.left != 1 then s1
    else match c.instr with
      | .ingestCommit .. => (match s1.tiers.ingests.find? fun g => g.phase == .undoing && commitOf g c with
        | some g => replyCommit g.index s1
        | none => s1)
      | .hint .. => done c 0 0 s1
      | .evict .. => done c (BitVec.ofNat 32 (c.count + if marked then 1 else 0)) 0 s1
      | _ => s1

/-- A HINT request (R184). -/
def applyHint (ptr slot arg seq : Nat) (s : State) : State :=
  answered (some slot) false (setNode ptr (fun n => { hintNode arg n with lastReq := seq }) (readNode ptr s))

/-- A purge request (R85, R111, R182, R185): a node that is not PURGED yet is marked. -/
def applyPurge (ptr : Nat) (slot : Option Nat) (seq : Nat) (s0 : State) : State :=
  let s := readNode ptr s0
  let fresh := ((findNode s ptr).map fun n => !n.purged && !n.dying).getD false
  answered slot fresh (if fresh then purgeNode ptr (noteReq ptr seq s) else s)

/-- A drop request of the tier manager (R165): the copy goes, and the EVICT that asked counts it. -/
def applyDropCopy (ptr g : Nat) (tier : Tier) (slot : Option Nat) (seq : Nat) (s0 : State) : State :=
  let s := readNode ptr s0
  let has := fun (s : State) => (((findNode s ptr).bind fun n => groupAt n g).bind fun x => copyIn x tier).isSome
  let s1 := applyDrop ptr g tier s
  if has s && !has s1 then
    let s2 := noteReq ptr seq s1
    match slot with
    | some i => noteMoved i ptr g s2
    | none => s2
  else s1

/-- A drop request for a whole node (R88, R176): a node that is pinned, held or on its way by then stays. -/
def applyDropNode (ptr seq : Nat) (s0 : State) : State :=
  let s := readNode ptr s0
  match findNode s ptr with
  | none => s
  | some n =>
    if pinCountOf s n == 0 && nodeUnheld s n && !n.dying && !n.evicting && !(n.groups.any (·.moving)) then evictNode ptr (noteReq ptr seq s) else s

/-- A state commit: the core reads its node first. -/
def applyCommit (id seq : Nat) (s : State) : State :=
  commitMove id seq (((findMove s id).map fun m => readNode m.ptr s).getD s)

/-- SLIVER_STATE_COMMIT: the core of a sliver commits a finished transfer, or changes a node's state as the tier manager, a HINT
or a purge asks. -/
def doSliverStateCommit (n : Nat) (s : State) : State :=
  sliverStep n (fun e => match e.req with
    | .stateCommit id => some fun s => goOn (applyCommit id e.seq s)
    | .hint p slot arg => some (applyHint p slot arg e.seq)
    | .purge p slot => some fun s => goOn (applyPurge p slot e.seq s)
    | .dropCopy p g t slot => some fun s => goOn (applyDropCopy p g t slot e.seq s)
    | .dropNode p => some fun s => goOn (applyDropNode p e.seq s)
    | _ => none) s

/-- SLIVER_STATE_COMMIT (R165, R171, R172). -/
def execSliverStateCommit (sliver : Nat) (s : State) : Host.Outcome State Fault Refusal := finish s (doSliverStateCommit sliver s)

/-! ## TIER_EVICTION (R174 to R177) -/

/-- Granules of a tier that transfers will free when they commit, and that cores have been asked to give up. -/
def comingFree (s : State) (t : Tier) : Nat :=
  sumOf (fun m => match findNode s m.ptr with
    | some n => extentGranules n m.group t
    | none => 0) (s.tiers.moves.filter fun m => m.src == t && m.why == .evict)
    + sumOf (fun n => sumOf (fun g => if ((groupAt n g).bind fun x => copyIn x t).isSome && (nodeDropAsked s n.ptr || dropAsked s n.ptr g t)
      then extentGranules n g t else 0) (List.range n.groups.length)) s.index.nodes

/-- Whether T1 eviction has reached its high mark, what is being written back counted as free. -/
def t1Satisfied (s : State) : Bool := !belowHigh s.tiers.t1Total (s.tiers.t1Free + comingFree s .t1)

/-- The groups of a node in T1 that may leave it (R175). -/
def t1Victims (s : State) (n : Node) : List Nat :=
  (List.range n.groups.length).filter fun g =>
    ((groupAt n g).map fun x => x.t1.isSome && !x.moving).getD false && !extentHeld s n.ptr g && !dropAsked s n.ptr g .t1

/-- Takes the extents of nodes out of T1, in their order, until the high mark. -/
def evictFromT1 (ns : List Node) (s : State) : State :=
  ns.foldl (fun s n => (t1Victims s n).foldl (fun s g => if t1Satisfied s then s else evictT1 n.ptr g none .be s) s) s

/-- Whether a BE PROMOTE brings extents into T1, and whether anything else needs room there. -/
def bePromotes (s : State) : Bool :=
  (s.tiers.promoteQueue.any fun x => x.2.2 == .t1)
    || (s.tiers.moves.any fun m => m.dst == .t1 && m.why == .promote && m.cls == .be)
    || s.jobs.cmds.any fun c => c.cls == .be && c.wait == .moves && match c.instr with
      | .promote _ a => a.opArg == 1
      | _ => false
def othersNeedT1 (s : State) : Bool :=
  (s.tiers.moves.any fun m => m.dst == .t1 && !(m.why == .promote && m.cls == .be))
    || (s.jobs.cmds.any fun c => c.wait == .t1Space || (c.wait == .moves && c.cls == .lc))
    || !s.eng.storyboards.isEmpty || !s.eng.batches.isEmpty

/-- Whether pinned nodes may leave T1: not for the sake of a BE PROMOTE alone (R183). [DESIGN CHOICE, log 163] -/
def mayEvictPinned (s : State) : Bool := !bePromotes s || othersNeedT1 s

/-- The eviction of a tier goes on until its high mark (R174). -/
def setEvicting (t : Tier) (on : Bool) (s : State) : State :=
  let rest := s.tiers.evicting.filter (· != t)
  { s with tiers := { s.tiers with evicting := if on then t :: rest else rest } }

/-- T1 eviction: every unpinned candidate before any pinned one (R175). -/
def evictionT1 (s : State) : State :=
  if belowLow s.tiers.t1Total s.tiers.t1Free || s.tiers.evicting.contains .t1 then
    let inTier := fun (n : Node) => !n.dying && n.groups.any fun g => g.t1.isSome
    let s1 := evictFromT1 (offered s fun n => inTier n && pinCountOf s n == 0) s
    let s2 := if mayEvictPinned s1 then evictFromT1 (offered s1 fun n => inTier n && pinCountOf s1 n != 0) s1 else s1
    setEvicting .t1 (belowHigh s2.tiers.t1Total s2.tiers.t1Free) s2
  else s

/-- Whether T2 eviction may stop: the high mark of free granules, and while the dirty mark is reached the dirty extents
below 70 % (R174, R177). `dirtyFirst` says that the dirty mark started it. -/
def t2Satisfied (s : State) (dirtyFirst : Bool) : Bool :=
  let coming := comingFree s .t2
  if dirtyFirst then decide ((dirtyGranules s - coming) * 100 < s.tiers.t2Total * 70)
  else !belowHigh s.tiers.t2Total (s.tiers.t2Free + coming)

/-- One T2 victim (R176): its clean copies are dropped; with dirty ones it is programmed when admitted or pinned, and
offered for drop otherwise. -/
def evictVictim (ptr : Nat) (s : State) : State :=
  match findNode s ptr with
  | none => s
  | some n =>
    let groups := (List.range n.groups.length).filter fun g => !extentHeld s ptr g
    let isDirty := n.groups.any fun g => g.dirty == .t2
    if isDirty && !(admitted s n || pinCountOf s n != 0) then (if nodeUnheld s n then askDropNode ptr s else s)
    else
      let s1 := groups.foldl (fun s g => match groupAt n g with
        | some x => if x.t2.isSome && x.dirty != .t2 && !x.moving then askDrop ptr g .t2 none .be s else s
        | none => s) s
      if isDirty then programDirty ptr .evict s1 else s1

/-- T2 eviction in value order. -/
def evictionT2 (s : State) : State :=
  let dirtyFirst := s.tiers.aboveMark
  if dirtyFirst || belowLow s.tiers.t2Total s.tiers.t2Free || s.tiers.evicting.contains .t2 then
    let ns := offered s fun n => !n.dying && !nodeDropAsked s n.ptr
      && (if dirtyFirst then n.groups.any fun g => g.dirty == .t2 else n.groups.any fun g => g.t2.isSome)
    let s1 := updateMark (ns.foldl (fun s n => if t2Satisfied s dirtyFirst then s else evictVictim n.ptr s) s)
    setEvicting .t2 (belowHigh s1.tiers.t2Total s1.tiers.t2Free) s1
  else s

/-- TIER_EVICTION: T1, T2, or the reclaim of the flash pool (R174, R276). -/
def execTierEviction (tier : Tier) (s : State) : Host.Outcome State Fault Refusal :=
  finish s (goOn (match tier with
    | .t1 => evictionT1 s
    | .t2 => evictionT2 s
    | .t3 => flashReclaim s))

/-! ## Scrubs (R161) -/

/-- A row of T2 is retired: its free granules leave the page pool at once, the others as their extents move (R161). -/
def retireRow (row : Nat) (s : State) : State :=
  if s.tiers.retiredRows.contains row || poolOf s .t2 < (row + 1) * Config.rowGranules then s
  else
    let used := sumOf (fun r => min (r.1 + r.2) ((row + 1) * Config.rowGranules) - max r.1 (row * Config.rowGranules)) (takenRuns s .t2)
    { s with tiers := { s.tiers with retiredRows := s.tiers.retiredRows ++ [row], t2Total := s.tiers.t2Total - Config.rowGranules,
                                     t2Free := s.tiers.t2Free - (Config.rowGranules - used) } }

/-- A correctable error in a T2 row: the second within 24 h retires the row, and its extents move. [UNVERIFIED, log 66] -/
def scrubRow (row : Nat) (s : State) : State :=
  let recent := s.tiers.badRows.filter fun x => s.clk.window < x.2 + Config.windowsPerDay
  if recent.any fun x => x.1 == row then
    countFault 6 1 (retireRow row { s with tiers := { s.tiers with badRows := recent.filter fun x => x.1 != row } })
  else { s with tiers := { s.tiers with badRows := (row, s.clk.window) :: recent } }

/-- A patrol that reads a record of codec weights names it at or above 2^29, where no node lies: 256 × profile slot + layer.
[DESIGN CHOICE, log 167] -/
def weightsName : Nat := 536870912

/-- What an error that cannot be corrected does: past the groups of a node, `grp` names the node itself in T1 and then the
entries of its extents, whose CHECK fails at the core's next read (R62, Table 6.3). -/
def scrubBad (node grp : Nat) (t : Tier) (s : State) : State :=
  let gs := ((findNode s node).map (·.groups.length)).getD 0
  if weightsName ≤ node then weightsBad ((node - weightsName) / 256) ((node - weightsName) % 256) t s
  else if grp < gs then dataError node grp t s
  else if t != .t1 then s
  else if grp == gs then setNode node (fun n => { n with checkOk := false }) s
  else setGroup node (grp - gs - 1) (fun x => { x with entryOk := false }) s

/-- PATROL_SCRUB (R161, R438): one read of the daily scrub of T1 or T2, at an extent's granules or at the index.
[DEDUCED, log 155] -/
def execPatrolScrub (tier : Tier) (node : Nat) (grp : Nat) (row : Nat) (outcome : ReadOutcome) (s : State) :
    Host.Outcome State Fault Refusal :=
  let s1 := countRead tier outcome s
  finish s (match outcome, tier with
    | .good, _ => s
    | .corrected, .t2 => goOn (scrubRow row s1)
    | .corrected, _ => s1
    | _, t => goOn (scrubBad node grp t s1))

/-! ## Background removal and re-sealing -/

/-- Whether a node was keyed under an earlier registration generation of its tenant (R27). -/
def oldGeneration (s : State) (n : Node) : Bool := n.regGen != regGenOf s n.tenant

/-- OLD_GENERATION_REMOVAL (R27): an unpinned node of an earlier generation goes with its pages. -/
def execOldGenerationRemoval (node : Nat) (s : State) : Host.Outcome State Fault Refusal :=
  finish s (match findNode s node with
    | none => s
    | some n =>
      if oldGeneration s n && pinCountOf s n == 0 && nodeUnheld s n && !n.dying then retireNode node (dropAll node (abandonMovesOf node s))
      else s)

/-- The oldest live epoch of a tenant that is not the newest. -/
def oldEpoch (s : State) (t : Nat) : Option Nat :=
  let e := epochsOf s t
  if e.oldest < e.newest then some (e.oldest % 4) else none

/-- Step 1 of Table 14.6: a node of the oldest non-newest epoch, none of whose extents is on its way, and with T3 copies
only while the governor admits programs (R405). [DEDUCED, log 76] -/
def resealable (s : State) (n : Node) : Bool :=
  oldEpoch s n.tenant == some n.epoch && !oldGeneration s n && !n.dying && !n.lost && !(n.groups.any (·.moving))
    && (!s.tiers.suspended || !(n.groups.any fun g => g.t3.isSome))

/-- RESEAL_NODE: every copy of the node in every tier is read, sealed anew and written to fresh granules or slots, and the node is
committed after the last of them. Without room for all of them it does not start. [DEDUCED, log 76] -/
def doResealNode (ptr : Nat) (s : State) : State :=
  match findNode s ptr with
  | none => s
  | some n =>
    if !resealable s n then s
    else
      let copies := (List.range n.groups.length).flatMap fun g =>
        ([Tier.t1, .t2, .t3].filter fun t => ((groupAt n g).bind fun x => copyIn x t).isSome).map fun t => (g, t)
      let start := fun (x : Nat × Tier) (s : State) => match x.2 with
        | .t3 => placeExtent n x.1 .t3 .reseal .be s
        | t => moveWithin ptr x.1 t .reseal s
      if copies.isEmpty then commitReseal ptr s
      else (copies.foldl (fun (o : Option State) x => o.bind (start x)) (some s)).getD s

/-- RESEAL_NODE (R405). -/
def execResealNode (node : Nat) (s : State) : Host.Outcome State Fault Refusal := finish s (doResealNode node s)

/-- Pages of a tenant in an epoch. -/
def epochPages (s : State) (t e : Nat) : Nat :=
  sumOf (fun n => n.pages.length) (s.index.nodes.filter fun n => n.tenant == t && n.epoch == e && !oldGeneration s n && n.groups.any groupPresent)

/-- Whether a record of a re-seal has not yet reached T3 in a completed flush. -/
def resealUnflushed (s : State) : Bool :=
  let isReseal := fun (r : IndexRec) => match r with
    | .epochChange .. => true
    | _ => false
  s.index.journalBuf.any isReseal || (s.flash.pendingRecs ++ s.flash.flushing.getD []).any fun r => match r with
    | .index i => isReseal i
    | _ => false

/-- Stores a tenant's epochs. -/
def putEpochs (e : Epochs) (s : State) : State :=
  { s with persist := { s.persist with epochs := e :: s.persist.epochs.filter fun x => x.tenant != e.tenant } }

/-- EPOCH_RETIRE (R406): the oldest epoch, once no page and no weights copy is sealed under it, after step 4 of
Table 3.5; its key slots are erased. -/
def execEpochRetire (tenant : BitVec 12) (epoch : U32) (s : State) : Host.Outcome State Fault Refusal :=
  let t := tenant.toNat
  let e := epochsOf s t
  let weights := (s.eng.profiles.any fun p => p.tenant == t && hasWeights p.desc && p.sealEpoch == e.oldest)
    || s.persist.weights.any fun w => w.tenant == t && w.sealEpoch == e.oldest
  finish s (
    if epoch.toNat == e.oldest && decide (e.oldest < e.newest) && epochPages s t (e.oldest % 4) == 0 && !weights && !resealUnflushed s
        && !s.index.recovering && 9 ≤ s.power.step then
      let s1 := putEpochs { e with oldest := e.oldest + 1 } s
      { s1 with sec := { s1.sec with memKeys := s1.sec.memKeys.filter fun k => k != (t, e.oldest) } }
    else s)

/-! ## KEY_ROTATE (R404) -/

/-- RESULT0 and RESULT1 of KEY_ROTATE. -/
def rotateResults (s : State) (t : Nat) : U32 × U64 :=
  let e := epochsOf s t
  let live := (List.range (e.newest + 1 - e.oldest)).map fun i => (e.oldest + i) % 4
  let old := sumOf (fun x => if x == e.newest % 4 then 0 else epochPages s t x) live
  (BitVec.ofNat 32 e.newest, BitVec.ofNat 64 (sumOf (fun x => 2 ^ x) live + min old 0xFFFFFFFF * 2 ^ 32))

/-- KEY_ROTATE with KR_OP 0. -/
def runKeyRotateOpen (p : Packet) (a : KeyRotateParams) (c : Cmd) (s : State) : State :=
  if !formOk p 8 [] (a.reserved01 == 0) then fail c .badParam s
  else
    let e := epochsOf s c.tenant
    if 4 ≤ e.newest + 1 - e.oldest || e.newest == 0xFFFFFFFF then fail c .epochFull s
    else
      let s1 := tick (putEpochs { e with newest := e.newest + 1 } s)
      let s2 := { s1 with sec := { s1.sec with memKeys := s1.sec.memKeys ++ [(c.tenant, e.newest + 1)] } }
      let (r0, r1) := rotateResults s2 c.tenant
      done c r0 r1 s2

/-- KEY_ROTATE (0x0802), open. -/
def execKeyRotateOpen (p : Packet) (a : KeyRotateParams) (s : State) : Host.Outcome State Fault Refusal :=
  finish s (command (.keyRotateOpen p a) (opEarly 0x0802) p atOnce (runKeyRotateOpen p a) s)

/-- KEY_ROTATE with KR_OP 1. -/
def runKeyRotateQuery (p : Packet) (a : KeyRotateParams) (c : Cmd) (s : State) : State :=
  if !formOk p 8 [] (a.reserved01 == 0) then fail c .badParam s
  else
    let (r0, r1) := rotateResults s c.tenant
    done c r0 r1 s

/-- KEY_ROTATE (0x0802), query. -/
def execKeyRotateQuery (p : Packet) (a : KeyRotateParams) (s : State) : Host.Outcome State Fault Refusal :=
  finish s (command (.keyRotateQuery p a) (opEarly 0x0802) p atOnce (runKeyRotateQuery p a) s)

/-! ## EVICT, PROMOTE and HINT (R182 to R184) -/

/-- The nodes of the block range that a command names, or why it is refused. -/
def namedRange (s : State) (j : Job) (a : RangeParams) : Except Status (List Nat) :=
  match resolvePin s j a.pinHandle with
  | .error st => .error st
  | .ok r =>
    let f := a.firstBlock.toNat
    let l := a.lastBlock.toNat
    if 1 ≤ f && f ≤ l && l ≤ r.blocks then .ok (rangePtrs s r.record f (l + 1 - f)).eraseDups else .error .badParam

/-- The groups of a node. -/
def nodeGroups (s : State) (ptr : Nat) : List Nat := List.range (((findNode s ptr).map fun n => n.groups.length).getD 0)

/-- The extents of nodes that EVICT takes out of T1: those in T1 that nothing holds; and those that DEPTH 2 takes out of T2:
those in T2 with a T3 copy (R182). -/
def evictTodo (s : State) (ptrs : List Nat) : List (Nat × Nat) :=
  ptrs.flatMap fun p => ((nodeGroups s p).filter fun g => inT1 s p g && !extentHeld s p g).map fun g => (p, g)
def evictTodo2 (s : State) (depth : Nat) (ptrs : List Nat) : List (Nat × Nat) :=
  if depth != 2 then [] else ptrs.flatMap fun p => ((nodeGroups s p).filter fun g =>
    (((findNode s p).bind fun n => groupAt n g).map fun x => x.t2.isSome && x.t3.isSome).getD false && !extentHeld s p g).map fun g => (p, g)

/-- Whether an extent can leave T1 now: a clean copy is dropped, a dirty one needs room in T2; and whether a copy can leave T2. -/
def couldLeave (s : State) (x : Nat × Nat) : Bool :=
  match (findNode s x.1).bind fun n => groupAt n x.2 with
  | none => false
  | some g => !g.moving && !dropAsked s x.1 x.2 .t1 && (g.dirty != .t1 || couldStart s .t2 x)
def couldLeave2 (s : State) (x : Nat × Nat) : Bool :=
  match (findNode s x.1).bind fun n => groupAt n x.2 with
  | none => false
  | some g => !g.moving && !dropAsked s x.1 x.2 .t2

/-- One extent of an EVICT leaves T1, and one leaves T2. -/
def evictOne (slot : Nat) (cls : Cls) (x : Nat × Nat) (s : State) : State :=
  if couldLeave s x then evictT1 x.1 x.2 (some slot) cls s else s
def evictOne2 (slot : Nat) (cls : Cls) (x : Nat × Nat) (s : State) : State :=
  if couldLeave2 s x then askDrop x.1 x.2 .t2 (some slot) cls s else s

/-- Sends one request to each node's owner for a command that waits for all the answers; a command with none to wait for ends at
once. -/
def askEach (c : Cmd) (ptrs : List Nat) (r : Nat → SliverReq) (s : State) : State :=
  let ns := ptrs.filter fun p => (findNode s p).isSome
  if ns.isEmpty then done c 0 0 s
  else ns.foldl (fun s p => askOwner p c.cls (r p) s) (setCmd c.slot (fun c => { c with wait := .slivers, left := ns.length, count := 0 }) s)

/-- EVICT's run: the extents that can leave do, and the reply follows the last commit; for DEPTH 3 the owning cores mark the
nodes. -/
def runEvict (p : Packet) (a : RangeParams) (c : Cmd) (s : State) : State :=
  match jobOf s c with
  | none => fail c .noJob s
  | some j =>
    let depth := a.opArg.toNat
    if !formOk p 0x18 [] (a.reserved16 == 0 && a.firstLayer == 0 && a.layerCount == 0 && a.opFlags == 0) || depth < 1 || 3 < depth then
      fail c .badParam s
    else match namedRange s j a with
      | .error st => fail c st s
      | .ok ptrs =>
        if depth == 3 then askEach c ptrs (fun x => .purge x (some c.slot)) s
        else
          let s1 := (evictTodo s ptrs).foldl (fun s x => evictOne c.slot c.cls x s) s
          let s2 := (evictTodo2 s1 depth ptrs).foldl (fun s x => evictOne2 c.slot c.cls x s) s1
          if (evictTodo s2 ptrs).isEmpty && (evictTodo2 s2 depth ptrs).isEmpty then
            done c (BitVec.ofNat 32 (((findCmd s2 c.slot).map (·.moved.length)).getD 0)) 0 s2
          else setCmd c.slot (fun c => { c with wait := .moves }) s2

/-- EVICT (0x0701). -/
def execEvict (p : Packet) (a : RangeParams) (s : State) : Host.Outcome State Fault Refusal :=
  finish s (command (.evict p a) (opLate 0x0701) p atOnce (runEvict p a) s)

/-- The layers that a PROMOTE names; `none` when they lie outside the profile. -/
def promoteLayers (a : RangeParams) (layers : Nat) : Option (Nat × Nat) :=
  let f := a.firstLayer.toNat
  let n := if a.layerCount == 0 then layers - f else a.layerCount.toNat
  if f < layers && f + n ≤ layers then some (f, n) else none

/-- The extents that hold a named layer and are in neither the target nor a tier above it: by group, then by block
(R183). [DEDUCED, log 73] -/
def promoteTodo (s : State) (target : Tier) (f n : Nat) (ptrs : List Nat) : List (Nat × Nat) :=
  (List.range 8).flatMap fun g => (ptrs.filter fun p => match findNode s p with
    | none => false
    | some x => ((List.range n).any fun i => groupOfLayer x.layers (f + i) == g) && (match groupAt x g with
      | some y => groupPresent y && y.t1.isNone && (target == .t1 || y.t2.isNone)
      | none => false)).map fun p => (p, g)

/-- Starts the transfer of one extent of a PROMOTE. [DEDUCED, log 73] -/
def promoteOne (target : Tier) (slot : Option Nat) (cls : Cls) (x : Nat × Nat) (s : State) : State :=
  match ((findNode s x.1).bind fun n => groupAt n x.2).bind bestTier with
  | some t => startMove x.1 x.2 t target .promote slot cls s
  | none => s

/-- The transfers of a PROMOTE start in order, up to the first extent for which there is no room (R183). -/
def promoteAll (target : Tier) (slot : Option Nat) (cls : Cls) : List (Nat × Nat) → State → State
  | [], s => s
  | x :: xs, s =>
    let moving := (((findNode s x.1).bind fun n => groupAt n x.2).map (·.moving)).getD true
    if moving then promoteAll target slot cls xs s
    else if couldStart s target x then promoteAll target slot cls xs (promoteOne target slot cls x s)
    else s

/-- PROMOTE's run. [DEDUCED, log 73] -/
def runPromote (p : Packet) (a : RangeParams) (c : Cmd) (s : State) : State :=
  match jobOf s c with
  | none => fail c .noJob s
  | some j =>
    let t := a.opArg.toNat
    if !formOk p 0x18 [] (a.reserved16 == 0 && bitsOf a.opFlags.toNat 1 7 == 0) || (t != 1 && t != 2) then fail c .badParam s
    else match namedRange s j a with
      | .error st => fail c st s
      | .ok ptrs =>
        let layers := (((ptrs.head?).bind (findNode s)).map (·.layers)).getD 0
        match promoteLayers a layers with
        | none => fail c .badParam s
        | some (f, n) =>
          let target : Tier := if t == 1 then .t1 else .t2
          let todo := promoteTodo s target f n ptrs
          if bitOf a.opFlags.toNat 0 then
            startPromotions (done c 0 0 { s with tiers := { s.tiers with
              promoteQueue := s.tiers.promoteQueue ++ todo.map fun x => (x.1, x.2, target) } })
          else if todo.isEmpty then done c 0 0 s
          else park c.slot .moves (promoteAll target (some c.slot) c.cls todo s)

/-- PROMOTE (0x0702). -/
def execPromote (p : Packet) (a : RangeParams) (s : State) : Host.Outcome State Fault Refusal :=
  finish s (command (.promote p a) (opLate 0x0702) p atOnce (runPromote p a) s)

/-- Whether an EVICT or a PROMOTE that waits for transfers can go on: none of its own runs, and one of its extents can
move, or none is left. -/
def movesDue (s : State) (c : Cmd) : Bool :=
  !(s.tiers.moves.any fun m => m.slot == some c.slot) && (match jobOf s c, c.instr with
    | some j, .evict _ a => (match namedRange s j a with
      | .error _ => true
      | .ok ptrs =>
        let todo := evictTodo s ptrs
        let deep := evictTodo2 s a.opArg.toNat ptrs
        (todo.isEmpty && deep.isEmpty) || todo.any (couldLeave s) || deep.any (couldLeave2 s))
    | some j, .promote _ a => (match namedRange s j a with
      | .error _ => true
      | .ok ptrs =>
        let target : Tier := if a.opArg.toNat == 1 then .t1 else .t2
        match promoteLayers a ((((ptrs.head?).bind (findNode s)).map (·.layers)).getD 0) with
        | none => true
        | some (f, n) => let todo := promoteTodo s target f n ptrs
          todo.isEmpty || ((todo.find? fun x => !(((findNode s x.1).bind fun n => groupAt n x.2).map (·.moving)).getD true).map
            (couldStart s target)).getD false)
    | _, _ => true)

/-- HINT's run. -/
def runHint (p : Packet) (a : RangeParams) (c : Cmd) (s : State) : State :=
  match jobOf s c with
  | none => fail c .noJob s
  | some j =>
    let arg := a.opArg.toNat
    if !formOk p 0x18 [] (a.reserved16 == 0 && a.firstLayer == 0 && a.layerCount == 0 && a.opFlags == 0) || 8 ≤ arg
        || (bitOf arg 0 && bitOf arg 1) then fail c .badParam s
    else match namedRange s j a with
      | .error st => fail c st s
      | .ok ptrs => if arg == 0 then done c 0 0 s else askEach c ptrs (fun x => .hint x c.slot arg) s

/-- HINT (0x0703). -/
def execHint (p : Packet) (a : RangeParams) (s : State) : Host.Outcome State Fault Refusal :=
  finish s (command (.hint p a) (opLate 0x0703) p atOnce (runHint p a) s)

/-! ## PURGE_SCOPE and PURGE_TENANT (R185, R186) -/

/-- Whether a purge of a tenant, or of one scope of it, names a node: one of an earlier registration generation, which no lookup
finds any more, is left to its own removal. [DESIGN CHOICE, log 164] -/
def purgeNames (s : State) (tenant : Nat) (scope : Option U16) (n : Node) : Bool :=
  n.tenant == tenant && (scope.map fun x => n.scope == x).getD true && !oldGeneration s n

/-- Whether an INGEST_COMMIT of the tenant and scope, accepted before a purge, has not replied (R186). -/
def commitBefore (s : State) (tenant : Nat) (scope : Option U16) (slate : Nat) : Bool :=
  s.tiers.ingests.any fun g => (scope.map fun x => g.scope == x).getD true
    && ((s.jobs.cmds.find? (commitOf g)).map fun c => c.tenant == tenant && decide (c.acceptSlate < slate)).getD false

/-- Whether every removal that a purge asked for has been reported. -/
def purgeSettled (s : State) (tenant : Nat) (scope : Option U16) : Bool :=
  !(s.index.nodes.any fun n => purgeNames s tenant scope n && (n.purged || n.dying) && (entryDue s n || n.dying || removeDue s n.ptr))
    && !(scope.isNone && s.marr.sections.any fun x => x.requests.contains (.sweep tenant))

/-- A purge's TENANT_SWEEP, and a request to the owning core of each node that it names. [DEDUCED, log 36] -/
def purgeAll (c : Cmd) (scope : Option U16) (s : State) : State :=
  let ns := s.index.nodes.filter fun n => purgeNames s c.tenant scope n && n.keyed && !n.purged && !n.dying
  let s1 := if scope.isNone then (List.range 4).foldl (fun s i => askDolly i (.sweep c.tenant) s) s else s
  ns.foldl (fun s n => askOwner n.ptr c.cls (.purge n.ptr (some c.slot)) s)
    (setCmd c.slot (fun c => { c with wait := .slivers, left := ns.length, count := 0, phase := 1 }) s1)

/-- A purge: it waits for earlier commits, its nodes are marked, and it replies once their removals are reported. -/
def purge (c : Cmd) (scope : Option U16) (s : State) : State :=
  if c.phase == 0 then
    if commitBefore s c.tenant scope c.acceptSlate then park c.slot .purgeOrder s
    else
      let s1 := purgeAll c scope s
      if (((findCmd s1 c.slot).map (·.left)).getD 0) == 0 && purgeSettled s1 c.tenant scope then done c 0 0 s1 else s1
  else if c.left == 0 && purgeSettled s c.tenant scope then done c (BitVec.ofNat 32 c.count) 0 s
  else park c.slot .slivers s

/-- PURGE_SCOPE's run. -/
def runPurgeScope (p : Packet) (a : PurgeScopeParams) (c : Cmd) (s : State) : State :=
  match jobOf s c with
  | none => fail c .noJob s
  | some j =>
    if !formOk p 8 [] (a.reserved02 == 0) then fail c .badParam s
    else if !scopeAllowed j a.scopeId then fail c .denied s
    else purge c (some a.scopeId) s

/-- PURGE_SCOPE (0x0704). -/
def execPurgeScope (p : Packet) (a : PurgeScopeParams) (s : State) : Host.Outcome State Fault Refusal :=
  finish s (command (.purgeScope p a) (opLate 0x0704) p atOnce (runPurgeScope p a) s)

/-- PURGE_TENANT's run. -/
def runPurgeTenant (p : Packet) (reserved : U64) (c : Cmd) (s : State) : State :=
  if !formOk p 8 [] (reserved == 0) then fail c .badParam s else purge c none s

/-- PURGE_TENANT (0x0705). -/
def execPurgeTenant (p : Packet) (reserved : U64) (s : State) : Host.Outcome State Fault Refusal :=
  finish s (command (.purgeTenant p reserved) (opLate 0x0705) p atOnce (runPurgeTenant p reserved) s)

end Sys2Proof.Machine
end

