-- ==== Sys2Proof/Machine/Delivery.lean ====
section
/-! DEFINITION. DELIVER, DELIVER_CANCEL, DELIVER_STATUS and RAW_FALLBACK_TIMEOUT (chapter "Layer-paced delivery"). -/
namespace Sys2Proof.Machine

/-! ## The checks of DELIVER (R199, Tables 7.1 and 10.10) -/

/-- DLV_FLAGS. -/
def dlvFlag (a : DeliverParams) (i : Nat) : Bool := bitOf a.dlvFlags.toNat i
def freeRunning (a : DeliverParams) : Bool := dlvFlag a 0
def toHost (a : DeliverParams) : Bool := dlvFlag a 1

/-- The fields' own ranges, and those that TO_HOST makes zero. -/
def deliverForm (p : Packet) (a : DeliverParams) : Bool :=
  paramLen p == 0x60 && bitsOf a.dlvFlags.toNat 2 6 == 0 && a.reserved17 == 0 && decide (a.outForm.toNat ≤ 2)
    && decide (a.lead.toNat ≤ 8) && decide (1 ≤ a.blockCount.toNat) && decide (a.blockCount.toNat ≤ 4096)
    && bitsOf a.qpn.toNat 24 8 == 0 && (!toHost a || (a.qpn == 0 && a.dataRkey == 0 && a.sealRkey == 0 && a.rawRkey == 0))
    && descBytes kindBlockTable p == objectBytes p.path a.blockCount.toNat

/-- The layers of a DELIVER: the first and the last, `none` when they leave the profile. -/
def deliverLayers (d : ProfileDesc) (a : DeliverParams) : Option (Nat × Nat) :=
  let f := a.firstLayer.toNat
  let n := if a.layerCount == 0 then d.layers.toNat - f else a.layerCount.toNat
  if f < d.layers.toNat && f + n ≤ d.layers.toNat then some (f, f + n - 1) else none

/-- Whether raw fallback applies (R198). -/
def rawApplies (j : Job) (d : ProfileDesc) (a : DeliverParams) : Bool := j.rawFallback && isLatent d && a.outForm != 2

/-- The rules of "Target layout" (R202 to R204). -/
def layoutOk (j : Job) (d : ProfileDesc) (a : DeliverParams) : Bool :=
  let m := layerMsgs d a false
  (a.outForm != 2 || (a.tokenStride == 0 && (!isLatent d || (a.vOffset == 0 && a.headStride == 0))))
    && decide (m ≤ 1048576) && decide (32 * m ≤ a.sealLayerStride.toNat)
    && (if rawApplies j d a then decide (a.blockCount.toNat * pageLen d ≤ a.rawLayerStride.toNat)
        else a.rawRkey == 0 && a.rawAddr == 0 && a.rawLayerStride == 0)

/-- The profile of each block, in the variant under which the record pins it (R198); `none` when one is not loaded.
[DEDUCED, log 43] -/
def blockProfiles (s : State) (j : Job) (holds : List Nat) (ptrs : List Nat) : Option (List Profile) :=
  ptrs.mapM fun p => rangeProfile s j holds [p]

/-- Whether a queue pair is one of a job's: bound to it and able to carry traffic. -/
def qpOfJob (s : State) (j : Job) (qpn : Nat) : Bool :=
  isRdmaLane qpn && qpCarries s qpn && ((findLane s qpn).map fun l => l.job == j.index).getD false

/-- The target of a DELIVER: a queue pair, or the job's primary ring pair. -/
def deliverTarget (s : State) (j : Job) (a : DeliverParams) : Option Nat :=
  if toHost a then primaryLane s j
  else if qpOfJob s j (bitsOf a.qpn.toNat 0 24) then some (bitsOf a.qpn.toNat 0 24) else none

/-- The TO_HOST offsets lie in the data area (R370). -/
def hostOffsetsOk (s : State) (j : Job) (raw : Bool) (a : DeliverParams) (bt : List U64) : Bool :=
  !toHost a || (bt.all (fun x => inJobRegion s j x.toNat 1) && inJobRegion s j a.sealAddr.toNat 1
    && (!raw || inJobRegion s j a.rawAddr.toNat 1))

/-- Live storyboards of a job. -/
def jobSbs (s : State) (j : Nat) : Nat := (s.eng.storyboards.filter fun b => b.job == j).length

/-- Whether a storyboard entry may be taken (R199, R327). -/
def sbRoom (s : State) (j : Nat) (c : Cls) : Bool :=
  let free := Config.maxStoryboards - s.eng.storyboards.length
  decide (jobSbs s j < Config.jobStoryboards) && (match c with
    | .lc => decide (0 < free)
    | .be => decide (Config.storyboardHeadroom < free))

/-- Bytes of LC messages ready on a physical port. [DEDUCED, log 39] -/
def lcBacklog (s : State) (port : Nat) : Nat :=
  sumOf (fun u => match u.work with
    | .send _ what left => if isRead what then 0 else left
    | .resend _ _ what left => if isRead what then 0 else left
    | _ => 0) (getEngine s (.rdma port)).lcq

/-- R200: the LC messages ready on the target's port exceed 100 µs of 1.6 Tb/s. [DEDUCED, log 39, 72] -/
def egressFull (s : State) (qpn : Nat) : Bool :=
  match findQp s qpn with
  | none => false
  | some q => decide (20000000 < lcBacklog s (q.lport / 4))

/-- ST_BUSY of R199 and R200: RESULT0 is 1, RESULT1 the cause. [DEDUCED, log 72] -/
def busyOne (c : Cmd) (cause : Nat) (s : State) : State := complete c .busy noFlags 1 (BitVec.ofNat 64 cause) s

/-! ## DELIVER -/

/-- A DELIVER takes its reference at its acceptance (R56). -/
def refAccept (h : U64) (c : Cmd) (s : State) : State :=
  match jobOf s c with
  | none => s
  | some j => match resolvePin s j h with
    | .error _ => s
    | .ok r => takeRef r.record (setCmd c.slot (fun c => { c with ref := some r.record }) s)

/-- The record that a command holds, or that its handle names. -/
def heldRecord (s : State) (j : Job) (c : Cmd) (h : U64) : Except Status PinRecord :=
  match c.ref.bind (findRecord s) with
  | some r => .ok r
  | none => resolvePin s j h

/-- Builds the storyboard and its cue table entry (R197, R210, R353); the command's reference passes to it. -/
def buildSb (c : Cmd) (j : Job) (a : DeliverParams) (r : PinRecord) (target : Nat) (layers : Nat × Nat) (ps : List Profile)
    (ptrs : List Nat) (s : State) : State :=
  let (f, l) := layers
  let n := if toHost a then l + 1 - f + 1 else 0
  let b : Storyboard :=
    { id := s.eng.nextSb, slot := c.slot, job := j.index, cls := c.cls, prm := a, record := r.record, target := target,
      toHost := toHost a, opened := false, begun := false, blockTable := [], ptrs := ptrs, slots := ps.map (·.slot), firstLayer := f, lastLayer := l,
      state := .built, enable := if freeRunning a then l else min l (f + a.lead.toNat), current := f, abort := none, layers := [],
      ackedBytes := 0, lateSeen := false, rawSeen := false, notices := 0, lastNotice := none, cancels := [], reserved := n }
  let s1 := { s with eng := { s.eng with storyboards := s.eng.storyboards ++ [b], nextSb := s.eng.nextSb + 1 } }
  let s2 := b.slots.eraseDups.foldl (fun s p => useProfile p s) s1
  let s3 :=
    if b.toHost then setRing (laneRing target).1 (laneRing target).2 (fun r => { r with reserved := r.reserved + n }) s2
    else setQp target (fun q => { q with cues := q.cues ++ [(a.deliveryId.toNat, b.id)] }) s2
  -- R99: reads of lower tiers start from the record, before the nodes are read
  setCmd c.slot (fun c => { c with ref := none }) (if 2 ≤ r.lowTier then prefetchSb b s3 else s3)

/-- What a DELIVER that passes R199's tests is built from. -/
structure DeliverPlan where
  job : Job
  record : PinRecord
  target : Nat
  layers : Nat × Nat
  profiles : List Profile
  ptrs : List Nat
deriving DecidableEq, Repr

/-- The completion entries that a DELIVER to the host reserves, beyond which it waits (R373). -/
def planEntries (d : DeliverPlan) : Nat := d.layers.2 + 1 - d.layers.1 + 1
def entriesShort (s : State) (a : DeliverParams) (d : DeliverPlan) : Bool :=
  toHost a && ((findRing s (laneRing d.target).1 (laneRing d.target).2).map fun r => decide (cqFree r < planEntries d)).getD true

/-- R199's tests but for the block table's and the limits'. [DEDUCED, log 70] -/
def planDeliver (p : Packet) (a : DeliverParams) (c : Cmd) (s : State) : Except Status DeliverPlan :=
  match jobOf s c with
  | none => .error .noJob
  | some j =>
    if j.closing then .error .cancelled
    else match heldRecord s j c a.pinHandle with
    | .error st => .error st
    | .ok r =>
      let f := a.firstBlock.toNat
      if !deliverForm p a || !descsOk s j p [kindBlockTable] || f < 1 || r.blocks < f + a.blockCount.toNat - 1 then .error .badParam
      else
        let ptrs := rangePtrs s r.record f a.blockCount.toNat
        match blockProfiles s j [] ptrs with
        | none => .error .badParam
        | some ps => match (ps.head?).map (·.desc) with
          | none => .error .badParam
          | some d => match deliverLayers d a with
            | none => .error .badParam
            | some layers =>
              if !(ps.all fun x => layoutOk j x.desc a) then .error .badParam
              else match deliverTarget s j a with
                | none => .error (if toHost a then .badParam else .denied)
                | some target =>
                  if (sbNamed s j.index target (toHost a) a.deliveryId).isSome then .error .badParam
                  else if ps.any (·.lost) then .error .modelLost
                  else .ok { job := j, record := r, target := target, layers := layers, profiles := ps, ptrs := ptrs }

/-- R200's test, made at the acceptance of a BE DELIVER for a network target. [DEDUCED, log 39, 72] -/
def egressRefuses (a : DeliverParams) (c : Cmd) (s : State) : Bool :=
  c.cls == .be && !toHost a && (((jobOf s c).bind fun j => deliverTarget s j a).map (egressFull s)).getD false

/-- DELIVER's acceptance: its reference (R56), R200's test, whose outcome `count` keeps as the cause of Table 10.9, and its
storyboard where the tests pass and the limits leave room, so that cues find it from then on (R197, R200, R353).
[DEDUCED, log 70] -/
def acceptDeliver (p : Packet) (a : DeliverParams) (c : Cmd) (s : State) : State :=
  let s0 := refAccept a.pinHandle c s
  let s1 := if egressRefuses a c s0 then setCmd c.slot (fun c => { c with count := 3 }) s0 else s0
  match (findCmd s1 c.slot).map fun c => (c, planDeliver p a c s1) with
  | some (c1, .ok d) =>
    if !sbRoom s1 d.job.index c1.cls || c1.count == 3 || entriesShort s1 a d then s1
    else buildSb c1 d.job a d.record d.target d.layers d.profiles d.ptrs s1
  | _ => s1

/-- Once the block table is read, the storyboard moves (R211); one whose block is lost (R444), or that was aborted meanwhile,
ends (R212). [DEDUCED, log 70, 132] -/
def openSb (c : Cmd) (b : Storyboard) (bt : List U64) (s : State) : State :=
  let s1 := setCmd c.slot (fun c => { c with wait := .storyboard, phase := 1 })
    (setSb b.id (fun b => { b with opened := true, blockTable := bt }) s)
  if b.state != .draining then (if lostAmong s b.ptrs then abortSb b.id .dataLost s1 else advanceSb b.id s1)
  else if !b.toHost && !qpCarries s b.target then failSb b.id s1
  else settleSb b.id s1

/-- The tests on the block table (R199, R370), then the storyboard's work. -/
def withTable (c : Cmd) (a : DeliverParams) (b : Storyboard) (bt : List U64) (s : State) : State :=
  match findJob s b.job with
  | none => failDeliver c .noJob s
  | some j =>
    if bt.length != a.blockCount.toNat || !hostOffsetsOk s j (((sbDesc s b).map fun d => rawApplies j d a).getD false) a bt then
      failDeliver c .badParam s
    else openSb c b bt s

/-- The block table of a DELIVER whose storyboard stands. -/
def readTable (p : Packet) (a : DeliverParams) (c : Cmd) (b : Storyboard) (s : State) : State :=
  reading c p kindBlockTable (descBytes kindBlockTable p)
    (fun s => match a.blockTable with
      | .stopped => failDeliver c .cancelled s
      | .badTag => failDeliver c .integrity s
      | .opened bt => withTable c a b bt s) s

/-- The limits of a DELIVER that could not take its storyboard at its acceptance: the storyboards, the egress backlog, and
the completion entries (R199, R200, R373). [DEDUCED, log 70, 72] -/
def admitDeliver (p : Packet) (a : DeliverParams) (c : Cmd) (d : DeliverPlan) (s : State) : State :=
  if !sbRoom s d.job.index c.cls then (match c.cls with
    | .lc => park c.slot .storyboard s
    | .be => (c.ref.map fun r => dropRef r (busyOne c 2 s)).getD (busyOne c 2 s))
  else if c.count == 3 then (c.ref.map fun r => dropRef r (busyOne c 3 s)).getD (busyOne c 3 s)
  else if entriesShort s a d then setCmd c.slot (fun c => { c with wait := .deliverEntries, left := planEntries d }) s
  else
    let s1 := buildSb c d.job a d.record d.target d.layers d.profiles d.ptrs s
    match findCmd s1 c.slot, ownSb s1 c with
    | some c1, some b => readTable p a c1 b s1
    | _, _ => s1

/-- DELIVER's run (R199). The reference that its acceptance took passes to the storyboard, or ends with the command. -/
def runDeliver (p : Packet) (a : DeliverParams) (c : Cmd) (s : State) : State :=
  match ownSb s c with
  | some b => if b.opened then s else readTable p a c b s
  | none => match planDeliver p a c s with
    | .error st => failRef c st s
    | .ok d => admitDeliver p a c d s

/-- DELIVER (0x0501). -/
def execDeliver (p : Packet) (a : DeliverParams) (s : State) : Host.Outcome State Fault Refusal :=
  finish s (command (.deliver p a) (opLate 0x0501) p (acceptDeliver p a) (runDeliver p a) s)

/-- Whether a parked DELIVER can go on: room for its storyboard, or its completion entries. -/
def deliverDue (s : State) (c : Cmd) : Bool :=
  match c.instr, jobOf s c with
  | .deliver .., some j => j.closing || (match c.wait with
    | .storyboard => c.phase == 0 && sbRoom s j.index c.cls
    | .deliverEntries => ((primaryLane s j).bind fun l => findRing s (laneRing l).1 (laneRing l).2).any fun r =>
        decide (c.left ≤ cqFree r)
    | _ => false)
  | .deliver .., none => true
  | _, _ => false

/-! ## DELIVER_CANCEL and DELIVER_STATUS -/

/-- The form of Table 7.8. -/
def deliveryForm (p : Packet) (a : DeliveryNameParams) : Bool :=
  formOk p 8 [] (a.reserved07 == 0 && bitsOf a.targetFlags.toNat 1 7 == 0 && bitsOf a.qpn.toNat 24 8 == 0
    && (!bitOf a.targetFlags.toNat 0 || a.qpn == 0))

/-- The live storyboard that Table 7.8 names. -/
def namedSb (s : State) (j : Job) (a : DeliveryNameParams) : Option Storyboard :=
  sbNamed s j.index (bitsOf a.qpn.toNat 0 24) (bitOf a.targetFlags.toNat 0) a.deliveryId

/-- DELIVER_CANCEL's run (R220): the abort mark is set, and the reply follows the DELIVER's. [DEDUCED, log 71] -/
def runDeliverCancel (p : Packet) (a : DeliveryNameParams) (c : Cmd) (s : State) : State :=
  match jobOf s c with
  | none => fail c .noJob s
  | some j =>
    if !deliveryForm p a then fail c .badParam s
    else match namedSb s j a with
      | none => fail c .badParam s
      | some b =>
        abortSb b.id .cancelled (setSb b.id (fun b => { b with cancels := b.cancels ++ [c.slot] }) (park c.slot .storyboardEnd s))

/-- DELIVER_CANCEL (0x0502). -/
def execDeliverCancel (p : Packet) (a : DeliveryNameParams) (s : State) : Host.Outcome State Fault Refusal :=
  finish s (command (.deliverCancel p a) (opLate 0x0502) p atOnce (runDeliverCancel p a) s)

/-- STATE of R221. -/
def sbStateCode : SbState → Nat
  | .built => 0
  | .priming => 1
  | .running => 2
  | .draining => 3

/-- RESULT0 of DELIVER_STATUS. -/
def sbStatus (b : Storyboard) : Nat :=
  sbStateCode b.state + flagBit b.abort.isSome 4 + flagBit b.lateSeen 5 + flagBit b.rawSeen 6 + flagBit b.lastNotice.isSome 7
    + (b.lastNotice.getD 0) * 2 ^ 8 + b.enable * 2 ^ 16

/-- DELIVER_STATUS's run (R221). -/
def runDeliverStatus (p : Packet) (a : DeliveryNameParams) (c : Cmd) (s : State) : State :=
  match jobOf s c with
  | none => fail c .noJob s
  | some j =>
    if !deliveryForm p a then fail c .badParam s
    else match namedSb s j a with
      | none => fail c .badParam s
      | some b => done c (BitVec.ofNat 32 (sbStatus b)) (BitVec.ofNat 64 (b.ackedBytes % 2 ^ 48)) s

/-- DELIVER_STATUS (0x0503). -/
def execDeliverStatus (p : Packet) (a : DeliveryNameParams) (s : State) : Host.Outcome State Fault Refusal :=
  finish s (command (.deliverStatus p a) (opLate 0x0503) p atOnce (runDeliverStatus p a) s)

/-! ## RAW_FALLBACK_TIMEOUT (R219) -/

/-- Whether a layer may turn raw: raw fallback applies, the layer is transmittable, and some data message of it is not yet
transmitted. -/
def mayTurnRaw (s : State) (b : Storyboard) (l : Nat) : Bool :=
  match findJob s b.job, sbDesc s b with
  | some j, some d =>
    rawApplies j d b.prm && b.abort.isNone && b.state != .draining && l == b.current && decide (l ≤ b.enable) && !(layerWork b l).raw
  | _, _ => false

/-- The layer is sent in raw form: its decoded work is dropped, and its latent pages go to the crypto engines. -/
def turnRaw (id l : Nat) (s : State) : State :=
  match findSb s id with
  | none => s
  | some b =>
    if !mayTurnRaw s b l then s
    else
      let s1 := dropLayerUnits id l s
      let s2 := (layerWork b l).held.foldl (fun s h => giveSlots h.2 s) s1
      let sending := fun (m : SbMsg) => m.sent || (allWork s1).any fun w => sendsFor id w && (match w with
        | .send _ (.sbMsg _ y k _) _ => y == l && k == m.kind
        | .hostSend _ (.sbMsg _ y k _) _ => y == l && k == m.kind
        | _ => false)
      let s3 := setLayer id l (fun w => { w with raw := true, started := [], decoded := [], held := [], msgs := w.msgs.filter sending }) s2
      advanceSb id (setSb id (fun b => { b with rawSeen := true }) s3)

/-- RAW_FALLBACK_TIMEOUT. -/
def execRawFallbackTimeout (storyboard : Nat) (layer : Nat) (s : State) : Host.Outcome State Fault Refusal :=
  finish s (turnRaw storyboard layer s)

end Sys2Proof.Machine
end

