-- ==== Sys2Proof/Machine/Models.lean ====
section
/-! DEFINITION. MODEL_LOAD, MODEL_UNLOAD and MODEL_QUERY (R33, R34, R45, R143 to R152). -/
namespace Sys2Proof.Machine

/-! ## FP32 classes -/

/-- Positive normal, positive finite, and finite FP32 bits. -/
def posNormal (x : U32) : Bool := decide (0x00800000 ≤ x.toNat) && decide (x.toNat ≤ 0x7F7FFFFF)
def posFinite (x : U32) : Bool := decide (1 ≤ x.toNat) && decide (x.toNat ≤ 0x7F7FFFFF)
def finiteF (x : U32) : Bool := decide (x.toNat % 2 ^ 31 ≤ 0x7F7FFFFF)

/-! ## The descriptor (Table 2.3, R34) -/

/-- ROPE_TABLE. -/
def ropeTable (d : ProfileDesc) : Bool := bitOf d.profileFlags.toNat 0

/-- Every field of the descriptor lies in its range (R33). -/
def descFields (d : ProfileDesc) : Bool :=
  decide (1 ≤ d.layers.toNat) && decide (d.layers.toNat ≤ 256) && decide (1 ≤ d.kvHeads.toNat) && decide (d.kvHeads.toNat ≤ 64)
    && decide (1 ≤ d.qheadsPerKv.toNat) && decide (d.qheadsPerKv.toNat ≤ 64) && [64, 128, 192, 256].contains d.headDim.toNat
    && [0, 16, 32, 64, 128].contains d.blockSize.toNat && decide (d.inputFormat.toNat ≤ 3) && decide (d.kCodec.toNat ≤ 6)
    && decide (d.vCodec.toNat ≤ 6) && decide (d.ropeStyle.toNat ≤ 2) && bitsOf d.profileFlags.toNat 1 7 == 0
    && d.ropeDims.toNat % 2 == 0 && decide (d.ropeDims.toNat ≤ d.headDim.toNat) && (d.ropeDims != 0 || d.ropeStyle == 0)
    && (if d.kCodec == 6 then decide (128 ≤ d.latentRank.toNat) && decide (d.latentRank.toNat ≤ 1024) && d.latentRank.toNat % 32 == 0
        else d.latentRank == 0)
    && (if d.kCodec == 6 && d.ropeStyle != 0 && !ropeTable d then posNormal d.ropeTheta else finiteF d.ropeTheta)
    && posFinite d.ropePosScale && d.maxTokens.toNat % blockSize d == 0 && decide (1 ≤ d.maxTokens.toNat)
    && decide (d.maxTokens.toNat ≤ 2097152) && d.reserved20 == 0

/-- R34. -/
def descCombination (d : ProfileDesc) : Bool :=
  ((d.kCodec == 6) == (d.vCodec == 6))
    && (d.kCodec != 6 || (decide (32 ≤ d.ropeDims.toNat) && decide (d.ropeDims.toNat ≤ 128) && d.ropeDims.toNat % 32 == 0
        && decide (d.ropeDims.toNat < d.headDim.toNat) && d.ropeStyle != 0))
    && decide (d.kvHeads.toNat * d.qheadsPerKv.toNat ≤ 256)
    && ((d.weightsDigest != 0) == (d.kCodec.toNat ≥ 5 || d.vCodec.toNat ≥ 5 || ropeTable d))

/-- The agreement of variants (R45). -/
def variantsAgree (a b : ProfileDesc) : Bool :=
  a.layers == b.layers && a.kvHeads == b.kvHeads && a.qheadsPerKv == b.qheadsPerKv && a.headDim == b.headDim
    && blockSize a == blockSize b && a.ropeStyle == b.ropeStyle && a.profileFlags == b.profileFlags && a.ropeDims == b.ropeDims
    && a.ropeTheta == b.ropeTheta && a.ropePosScale == b.ropePosScale && isLatent a == isLatent b

/-- Whether two descriptors name one variant: their codecs and digest (R146). -/
def sameVariant (a b : ProfileDesc) : Bool :=
  a.kCodec == b.kCodec && a.vCodec == b.vCodec && a.weightsDigest == b.weightsDigest

/-! ## The variant table (R146) -/

/-- The entries of a tenant's model. -/
def variantEntries (s : State) (tenant : Nat) (model : U32) : List VariantEntry :=
  s.persist.variants.filter fun e => e.tenant == tenant && e.desc.modelId == model

/-- The nodes that the index holds: until the journal has been replayed, those that it will hold again count too (Table 3.5). -/
def storedNodes (s : State) : List Node :=
  if 9 ≤ s.power.step then s.index.nodes
  else s.index.nodes ++ loadedNodes s ++ (liveRecords (indexRecords s)).filterMap fun r => match r with
    | .insert n => some n
    | _ => none

/-- Whether an entry is still wanted: a profile of it is loaded or held, or the index holds a node of its variant. -/
def entryInUse (s : State) (e : VariantEntry) : Bool :=
  (s.eng.profiles.any fun p => p.tenant == e.tenant && p.desc.modelId == e.desc.modelId && p.variant == e.variant)
    || (storedNodes s).any fun n => n.tenant == e.tenant && n.modelId == e.desc.modelId && n.variant == e.variant

/-- Frees the entries that nothing uses. -/
def freeEntries (s : State) : State :=
  { s with persist := { s.persist with variants := s.persist.variants.filter (entryInUse s) } }

/-! ## Codec weights records (R143) -/

/-- One opened record obeys Table 5.4. -/
def recordOk (d : ProfileDesc) (layer : Nat) (r : WeightsRecord) : Bool :=
  let latent := isLatent d
  let flags := flagBit (d.kCodec == 5) 0 + flagBit latent 1 + flagBit (ropeTable d) 2
  let scaleOk := fun (x : U32) => if latent then posNormal x else x == 0
  let byteOk := fun (b : Byte) => b.toNat % 128 != 127
  let half := d.ropeDims.toNat / 2
  r.layer.toNat == layer && r.recordFlags.toNat == flags && r.reserved3 == 0 && r.reservedZero && scaleOk r.latentScale
    && scaleOk r.ropeScale && r.smoothOffset.toNat == smoothOffset d && r.ukOffset.toNat == ukOffset d
    && r.uvOffset.toNat == uvOffset d && r.ropeFreq.length == 64 && (r.ropeFreq.drop half).all (· == 0)
    && ((r.ropeFreq.take half).all fun x => posFinite x || (!ropeTable d && x == 0))
    && r.smooth.length * 4 == smoothLen d && r.smooth.all posNormal
    && r.uk.length + r.ukScales.length == ukLen d && r.uv.length + r.uvScales.length == uvLen d
    && r.uk.length == 32 * r.ukScales.length && r.uv.length == 32 * r.uvScales.length
    && r.uk.all byteOk && r.uv.all byteOk && r.ukScales.all (· != 0xFF) && r.uvScales.all (· != 0xFF)

/-! ## MODEL_LOAD (R145 to R150) -/

/-- RESULT0 of MODEL_LOAD and of MODEL_QUERY's first fields (R148). -/
def loadResult (slot variant preference : Nat) : Nat := slot + variant * 256 + preference * 1024

/-- The second row of Table 5.6. -/
def loadFormOk (s : State) (j : Job) (p : Packet) (a : ModelLoadParams) : Bool :=
  let d := a.profile
  let entries := variantEntries s j.tenant d.modelId
  descFields d && descCombination d && a.reserved082 == 0 && bitsOf a.mlFlags.toNat 1 7 == 0 && decide (a.preference.toNat ≤ 63)
    && ((modelProfiles s j.tenant d.modelId).all fun x => variantsAgree x.desc d) && (entries.all fun e => variantsAgree e.desc d)
    && (entries.all fun e => !sameVariant e.desc d || e.preference == a.preference.toNat)
    && (if d.weightsDigest == 0 then p.descs.isEmpty && a.wrappedZero
        else a.blobLen == d.layers.toNat * (recordSize d + 16) && descBytes kindWeights p == a.blobLen)

/-- The rows of Table 5.6 on the wrapped key (R412): the status of the first that fails. -/
def keyFailure (s : State) (j : Job) (a : ModelLoadParams) : Option Status :=
  if a.profile.weightsDigest == 0 then none
  else match a.secret with
    | none => some .integrity
    | some k =>
      if k.length == 112 && k.resetGen.toNat != s.sec.resetGen then some .keyStale
      else if k.length != 112 || k.reserved26 != 0 || k.reserved2C != 0 || k.tenant.toNat != j.tenant
          || k.modelId != a.profile.modelId || k.weightsDigest != a.profile.weightsDigest then some .integrity
      else none

/-- The profile of the same variant that is loaded. -/
def loadedVariant (s : State) (j : Job) (d : ProfileDesc) : Option Profile :=
  (modelProfiles s j.tenant d.modelId).find? fun p => sameVariant p.desc d

/-- The variant number a load takes: its entry's, or the lowest free one. -/
def loadVariant (s : State) (j : Job) (d : ProfileDesc) : Option Nat :=
  let entries := variantEntries s j.tenant d.modelId
  match entries.find? fun e => sameVariant e.desc d with
  | some e => some e.variant
  | none => (List.range 4).find? fun v => !(entries.any fun e => e.variant == v)

/-- The T3 copy that REUSE_PERSISTED takes: complete, under an equal digest (R150). [DEDUCED, log 51] -/
def persistedCopy (s : State) (j : Job) (a : ModelLoadParams) : Option WeightsT3 :=
  if bitOf a.mlFlags.toNat 0 then
    s.persist.weights.find? fun w => w.tenant == j.tenant && w.desc.weightsDigest == a.profile.weightsDigest
      && w.records.length == a.profile.layers.toNat
  else none

/-- Queues the background writes of a profile's records to T3 (R148). -/
def writeWeights (slot layers : Nat) (s : State) : State :=
  pump .mover ((List.range layers).foldl (fun s l => copyWeights slot l .t2 .t3 s) s)

/-- A load that takes a slot, or restores the records of a lost profile in the slot that it holds (R155). [DEDUCED, log 51] -/
def takeProfile (c : Cmd) (j : Job) (a : ModelLoadParams) (variant : Nat) (records : List WeightsRecord) (inT3 : Bool)
    (s : State) : State :=
  let d := a.profile
  let copies := records.map fun r => { record := r, t1 := true, t2 := true, t3 := inT3 : WeightsCopy }
  match loadedVariant s j d with
  | some p =>
    let s1 := setProfile p.slot (fun p => { p with weights := copies, lost := false, key := a.secret.map (·.key) }) s
    done c (BitVec.ofNat 32 (loadResult p.slot p.variant p.preference)) 0 (if inT3 then s1 else writeWeights p.slot records.length s1)
  | none =>
    let slot := lowestFree (s.eng.profiles.map (·.slot))
    let e := (epochsOf s j.tenant).newest
    let prof : Profile := { slot := slot, tenant := j.tenant, desc := d, variant := variant, preference := a.preference.toNat,
                            weights := copies, users := 0, lost := false, unloading := false, sealEpoch := e, loadSeq := s.eng.loadSeq, key := a.secret.map (·.key) }
    let known := (variantEntries s j.tenant d.modelId).any fun x => x.variant == variant
    let vs := if known then s.persist.variants
      else s.persist.variants ++ [{ tenant := j.tenant, variant := variant, preference := a.preference.toNat, desc := d }]
    let old := s.persist.weights.filter fun w => !(w.tenant == j.tenant && w.desc.modelId == d.modelId && sameVariant w.desc d)
    let was := s.persist.weights.find? fun w => w.tenant == j.tenant && w.desc.modelId == d.modelId && sameVariant w.desc d
    let ws := if inT3 then old ++ [{ tenant := j.tenant, desc := d, variant := variant, records := records,
                                     sealEpoch := (was.map (·.sealEpoch)).getD e, unloadedAt := none }]
      else if records.isEmpty then s.persist.weights
      else old ++ [{ tenant := j.tenant, desc := d, variant := variant, records := [], sealEpoch := e, unloadedAt := none }]
    let s1 := { s with
      eng := { s.eng with profiles := s.eng.profiles ++ [prof], loadSeq := s.eng.loadSeq + 1 },
      persist := { s.persist with variants := vs, weights := ws },
      tiers := { s.tiers with weightsT1 := s.tiers.weightsT1 + records.length * recordSize d / 512 } }
    done c (BitVec.ofNat 32 (loadResult slot variant a.preference.toNat)) 0 (if inT3 then s1 else writeWeights slot records.length s1)

/-- The rows of Table 5.6 from NO_SPACE on. [DEDUCED, log 51] -/
def loadRecords (c : Cmd) (j : Job) (p : Packet) (a : ModelLoadParams) (s : State) : State :=
  let d := a.profile
  let need := if d.weightsDigest == 0 then 0 else d.layers.toNat * recordSize d / 512
  let fresh := (loadedVariant s j d).isNone
  match loadVariant s j d with
  | none => fail c .noSpace s
  | some v =>
    if fresh && (decide (Config.maxProfiles ≤ s.eng.profiles.length) || decide (2 ^ 25 < s.tiers.weightsT1 + need)) then fail c .noSpace s
    else if d.weightsDigest == 0 then takeProfile c j a v [] false s
    else match persistedCopy s j a with
      | some w => reading c p kindWeights (recordSize d + 16) (fun s =>
          match a.blob with
          | .stopped => fail c .cancelled s
          | .badTag => fail c .integrity s
          | .opened rs => match rs.head?, w.records.head? with
            | some r, some r0 =>
              if !r.tagOk then fail c .integrity s
              else if r.plain == r0 then
                if (List.range w.records.length).all fun l => ((w.records[l]?).map (recordOk d l)).getD false then takeProfile c j a v w.records true s
                else fail c .badParam s
              else allRecords c j a v s
            | _, _ => fail c .integrity s) s
      | none => reading c p kindWeights (descBytes kindWeights p) (allRecords c j a v) s
where
  /-- Every sealed record of the caller is opened and checked. -/
  allRecords (c : Cmd) (j : Job) (a : ModelLoadParams) (v : Nat) (s : State) : State :=
    match a.blob with
    | .stopped => fail c .cancelled s
    | .badTag => fail c .integrity s
    | .opened rs =>
      let n := a.profile.layers.toNat
      if rs.length != n || !(rs.all (·.tagOk)) || !a.digestOk then fail c .integrity s
      else if (List.range n).all fun l => ((rs[l]?).map fun r => recordOk a.profile l r.plain).getD false then
        takeProfile c j a v (rs.map (·.plain)) false s
      else fail c .badParam s

/-- MODEL_LOAD's run: Table 5.6 in order. -/
def runModelLoad (p : Packet) (a : ModelLoadParams) (c : Cmd) (s0 : State) : State :=
  let s := freeEntries s0
  match jobOf s c with
  | none => fail c .noJob s
  | some j =>
    let d := a.profile
    if paramLen p != 0x290 then fail c .badParam s
    else if d.modelId != j.modelId then fail c .denied s
    else if !descsOk s j p [kindWeights] || !loadFormOk s j p a then fail c .badParam s
    else match keyFailure s j a with
      | some st => fail c st s
      | none => match loadedVariant s j d with
        | some x =>
          if x.lost then loadRecords c j p a s
          else
            let ok := done c (BitVec.ofNat 32 (loadResult x.slot x.variant x.preference)) 0
            if d.weightsDigest == 0 then ok s
            else reading c p kindWeights (recordSize d + 16) (fun s => match a.blob with
              | .stopped => fail c .cancelled s
              | .badTag => fail c .integrity s
              | .opened rs => if ((rs.head?).map (·.tagOk)).getD false then ok s else fail c .integrity s) s
        | none => loadRecords c j p a s

/-- MODEL_LOAD (0x0201). -/
def execModelLoad (p : Packet) (a : ModelLoadParams) (s : State) : Host.Outcome State Fault Refusal :=
  finish s (command (.modelLoad p a) (opEarly 0x0201) p atOnce (runModelLoad p a) s)

/-! ## MODEL_UNLOAD (R151) -/

/-- PURGE removes the variant's nodes and their pages in the background, through their cores; pinned pages stay (R57, R59). -/
def purgeVariant (tenant : Nat) (model : U32) (variant : Nat) (s : State) : State :=
  (s.index.nodes.filter fun n => n.tenant == tenant && n.modelId == model && n.variant == variant && n.keyed && !n.purged).foldl
    (fun s n => askOwner n.ptr .be (.purge n.ptr none) s) s

/-- MODEL_UNLOAD's run. -/
def runModelUnload (p : Packet) (a : ModelNameParams) (c : Cmd) (s : State) : State :=
  match jobOf s c with
  | none => fail c .noJob s
  | some j =>
    let v := a.variant.toNat
    if !formOk p 8 [] true then fail c .badParam s
    else if a.modelId != j.modelId then fail c .denied s
    else if a.reserved != 0 || bitsOf a.ulFlags.toNat 1 7 != 0 || 4 ≤ v then fail c .badParam s
    else match variantProfile s j.tenant a.modelId v with
      | none => fail c .badParam s
      | some x =>
        let s1 := setProfile x.slot (fun x => { x with unloading := true }) s
        let purge := bitOf a.ulFlags.toNat 0
        let ws := s1.persist.weights.filter fun w => !(w.tenant == j.tenant && w.desc.modelId == a.modelId && w.variant == v)
        let s2 := if purge then { s1 with persist := { s1.persist with weights := ws } } else s1
        let s3 := dropProfileIfDone x.slot (done c 0 0 s2)
        freeEntries (if purge then purgeVariant j.tenant a.modelId v s3 else s3)

/-- MODEL_UNLOAD (0x0202). -/
def execModelUnload (p : Packet) (a : ModelNameParams) (s : State) : Host.Outcome State Fault Refusal :=
  finish s (command (.modelUnload p a) (opEarly 0x0202) p atOnce (runModelUnload p a) s)

/-! ## MODEL_QUERY (R152) -/

/-- RESULT0 and RESULT1 of MODEL_QUERY. -/
def modelResults (s : State) (j : Job) (e : VariantEntry) : U32 × U64 :=
  let held := s.eng.profiles.filter fun p => p.tenant == j.tenant && p.desc.modelId == e.desc.modelId && p.variant == e.variant
  let loaded := held.find? fun p => !p.unloading
  let unloading := held.find? fun p => p.unloading
  let shown := match loaded with
    | some p => some p
    | none => unloading
  let slot := (shown.map (·.slot)).getD 0
  let lost := (loaded.map (·.lost)).getD false
  let n := fun (f : WeightsCopy → Bool) => (shown.map fun p => (p.weights.filter f).length).getD 0
  let kept := ((s.persist.weights.find? fun w => w.tenant == j.tenant && w.desc.modelId == e.desc.modelId && w.variant == e.variant).map
    (·.records.length)).getD 0
  (BitVec.ofNat 32 (loadResult slot e.variant e.preference + flagBit loaded.isSome 16 + flagBit lost 17 + flagBit unloading.isSome 18),
   BitVec.ofNat 64 (n (·.t1) + n (·.t2) * 2 ^ 16 + (if shown.isSome then n (·.t3) else kept) * 2 ^ 32))

/-- MODEL_QUERY's run: its byte at 0x05 and the two after it are reserved. -/
def runModelQuery (p : Packet) (a : ModelNameParams) (c : Cmd) (s0 : State) : State :=
  let s := freeEntries s0
  match jobOf s c with
  | none => fail c .noJob s
  | some j =>
    if !formOk p 8 [] true then fail c .badParam s
    else if a.modelId != j.modelId then fail c .denied s
    else if a.reserved != 0 || a.ulFlags != 0 then fail c .badParam s
    else match (variantEntries s j.tenant a.modelId).find? fun e => e.variant == a.variant.toNat with
      | none => fail c .badParam s
      | some e =>
        let (r0, r1) := modelResults s j e
        done c r0 r1 s

/-- MODEL_QUERY (0x0203). -/
def execModelQuery (p : Packet) (a : ModelNameParams) (s : State) : Host.Outcome State Fault Refusal :=
  finish s (command (.modelQuery p a) (opEarly 0x0203) p atOnce (runModelQuery p a) s)

end Sys2Proof.Machine
end

