-- ==== Sys2Proof/Machine/Attention.lean ====
section
/-! DEFINITION. ATTEND_OPEN, ATTEND, ATTEND_CLOSE and GATHER_WINDOW_EXPIRY (chapter "Shared-prefix attention"). -/
namespace Sys2Proof.Machine

/-! ## ATTEND_OPEN (R225 to R228) -/

/-- The fields' own ranges (Table 8.1). -/
def attendOpenForm (p : Packet) (a : AttendOpenParams) : Bool :=
  paramLen p == 0x30 && bitsOf a.aoFlags.toNat 6 10 == 0 && a.reserved22 == 0 && bitsOf a.qpn.toNat 24 8 == 0
    && decide (1 ≤ a.blockCount.toNat) && decide (a.blockCount.toNat ≤ 4096) && decide (1 ≤ a.maxEntries.toNat)
    && decide (a.maxEntries.toNat ≤ 64) && decide (1 ≤ a.querySlots.toNat) && decide (a.querySlots.toNat ≤ 8)
    && posNormal a.scale && (a.softcap == 0 || posNormal a.softcap) && decide (a.windowBlocks.toNat ≤ 131072)
    && decide (a.gatherCycles.toNat ≤ 34000) && (coalesces a || a.gatherCycles == 0)
    && (!attendHost a || (a.qpn == 0 && a.resultRkey == 0))

/-- The layers of a session: the first and the last, `none` when they leave the profile. -/
def attendLayers (d : ProfileDesc) (a : AttendOpenParams) : Option (Nat × Nat) :=
  let f := a.firstLayer.toNat
  let n := if a.layerCount == 0 then d.layers.toNat - f else a.layerCount.toNat
  if f < d.layers.toNat && f + n ≤ d.layers.toNat then some (f, f + n - 1) else none

/-- The lowest run of `k` adjacent free landing slots at or after `i`. -/
def freeSlotRun (used : List Nat) (k : Nat) : Nat → Nat → Option Nat
  | 0, _ => none
  | fuel + 1, i =>
    if Config.landingSlots < i + k then none
    else if (List.range k).all fun x => !used.contains (i + x) then some i
    else freeSlotRun used k fuel (i + 1)

/-- Takes `n` query slots of `k` adjacent landing slots each for a membership; `none` when the class's pools or the
landing area cannot supply them. -/
def takeQuerySlots (c : Cls) (job index k : Nat) : Nat → Nat → State → Option (List Nat × State)
  | 0, _, s => some ([], s)
  | n + 1, q, s =>
    if landingFree s c < k then none
    else
      let used := s.tiers.landing.map (·.num)
      match freeSlotRun used k ((used.length + 1) * (k + 1)) 0 with
      | none => none
      | some i =>
        (takeQuerySlots c job index k n (q + 1) (takeLanding c ((List.range k).map (i + ·)) job (.query index q) s)).map
          fun (l, s1) => (i :: l, s1)

/-- Whether two sessions may be batched together (R228). -/
def sameGroup (s : State) (tenant : Nat) (a : AttendOpenParams) (ptrs slots : List Nat) (m : Membership) : Bool :=
  let variantOf := fun (l : List Nat) => ((l.head?).bind (findProfile s)).map (·.variant)
  coalesces m.prm && m.tenant == tenant && variantOf m.slots == variantOf slots && m.ptrs.head? == ptrs.head?
    && m.ptrs.getLast? == ptrs.getLast? && m.prm.scale == a.scale && m.prm.softcap == a.softcap
    && m.prm.windowBlocks == a.windowBlocks && aoFlag m.prm 0 == aoFlag a 0 && aoFlag m.prm 1 == aoFlag a 1
    && m.prm.gatherCycles == a.gatherCycles

/-- The coalescing group that a membership joins, or a new one. -/
def groupFor (s : State) (tenant : Nat) (a : AttendOpenParams) (ptrs slots : List Nat) : Nat :=
  match if coalesces a then s.eng.memberships.find? (sameGroup s tenant a ptrs slots) else none with
  | some m => m.group
  | none => lowestFree (s.eng.memberships.map (·.group) ++ s.eng.batches.map (·.group))

/-- Opens the membership and replies (R227). -/
def openMember (c : Cmd) (j : Job) (a : AttendOpenParams) (r : PinRecord) (layers : Nat × Nat) (d : ProfileDesc) (slots ptrs : List Nat)
    (s : State) : State :=
  let k := querySlotUnits d a.maxEntries.toNat
  match s.eng.memberPool.take with
  | none => failRef c .noSpace s
  | some (i, gen, pool) =>
    match (if attendHost a then some ([], s) else takeQuerySlots c.cls j.index i k a.querySlots.toNat 0 s) with
    | none => failRef c .noSpace s
    | some (firsts, s1) =>
      let m : Membership :=
        { index := i, gen := gen, job := j.index, cls := c.cls, prm := a, record := r.record, tenant := j.tenant, ptrs := ptrs,
          slots := slots, group := groupFor s j.tenant a ptrs slots, firstLayer := layers.1, lastLayer := layers.2,
          lastAttend := none, broken := false, closeSlot := none }
      let s2 := { s1 with eng := { s1.eng with memberships := s1.eng.memberships ++ [m], memberPool := pool } }
      let s3 := slots.eraseDups.foldl (fun s p => useProfile p s) s2
      let r1 : U64 := BitVec.ofNat 64 (j.landingKey.toNat + k * 2 ^ 32)
      let s4 := if attendHost a then done c (sessionHandle m) r1 s3
        else completeWith c (8 * firsts.length) 0 8 (.addresses (firsts.map landingAddr)) noFlags (sessionHandle m) r1 s3
      prefetchMember i s4

/-- R296: a network session's reply payload must hold the address of every query slot. -/
def addressesFit (c : Cmd) (a : AttendOpenParams) : Bool :=
  match c.payloadCap with
  | none => false
  | some cap => decide (32 + 8 * a.querySlots.toNat ≤ cap)

/-- ATTEND_OPEN's run (R226). The reference taken at its acceptance passes to the membership, or ends with the command. -/
def runAttendOpen (p : Packet) (a : AttendOpenParams) (c : Cmd) (s : State) : State :=
  match jobOf s c with
  | none => failRef c .noJob s
  | some j =>
    if j.closing then failRef c .cancelled s
    else match heldRecord s j c a.pinHandle with
    | .error st => failRef c st s
    | .ok r =>
      let f := a.firstBlock.toNat
      if !attendOpenForm p a || !descsOk s j p [kindReplyPayload] || f < 1 || r.blocks < f + a.blockCount.toNat - 1 then failRef c .badParam s
      else
        let ptrs := rangePtrs s r.record f a.blockCount.toNat
        match blockProfiles s j c.holds ptrs with
        | none => failRef c .badParam s
        | some ps => match (ps.head?).map (·.desc) with
          | none => failRef c .badParam s
          | some d => match attendLayers d a with
            | none => failRef c .badParam s
            | some layers =>
              let need := if attendHost a then 0 else a.querySlots.toNat * querySlotUnits d a.maxEntries.toNat
              if 2097152 < a.maxEntries.toNat * queryHeads d * d.headDim.toNat * 2 then failRef c .badParam s
              else if attendHost a && (primaryLane s j).isNone then failRef c .badParam s
              else if !attendHost a && !addressesFit c a then failRef c .badParam s
              else if !attendHost a && !qpOfJob s j (bitsOf a.qpn.toNat 0 24) then failRef c .denied s
              else if ps.any (·.lost) then failRef c .modelLost s
              else if Config.jobMemberships ≤ (s.eng.memberships.filter fun m => m.job == j.index).length
                  || Config.jobLandingSlots < jobSlots s j.index + need then failRef c .quota s
              else if c.cls == .be && s.eng.memberPool.free ≤ Config.membershipHeadroom then failRef c .noSpace s
              else openMember c j a r layers d (ps.map (·.slot)) ptrs s

/-- ATTEND_OPEN's acceptance: its reference (R56) and the profiles of its blocks (R151). [DEDUCED, log 130] -/
def acceptAttendOpen (a : AttendOpenParams) (c : Cmd) (s : State) : State :=
  let s1 := refAccept a.pinHandle c s
  match jobOf s1 c, (findCmd s1 c.slot).bind (·.ref) with
  | some j, some r => holdProfiles c.slot ((blockProfiles s1 j [] (rangePtrs s1 r a.firstBlock.toNat a.blockCount.toNat)).getD []) s1
  | _, _ => s1

/-- ATTEND_OPEN (0x0601). -/
def execAttendOpen (p : Packet) (a : AttendOpenParams) (s : State) : Host.Outcome State Fault Refusal :=
  finish s (command (.attendOpen p a) (opLate 0x0601) p (acceptAttendOpen a) (fun c s => sweepProfiles (runAttendOpen p a c s)) s)

/-! ## ATTEND (R231, R232, R246) -/

/-- The query slots of a membership that an ATTEND without a reply holds. -/
def slotBusy (s : State) (m : Membership) (slot : Nat) (mine : Nat) : Bool :=
  s.jobs.cmds.any fun c => c.slot != mine && (match c.instr with
    | .attend _ a => c.job == some m.job && a.session == sessionHandle m && a.querySlot.toNat == slot && c.phase == 1
    | _ => false)

/-- ATTENDs of a membership in flight beside one. -/
def attendsInFlight (s : State) (m : Membership) (mine : Nat) : Nat :=
  (s.jobs.cmds.filter fun c => c.slot != mine && (match c.instr with
    | .attend _ a => c.job == some m.job && a.session == sessionHandle m && c.phase == 1
    | _ => false)).length

/-- Bytes of a query block (Table 8.3). -/
def queryLen (d : ProfileDesc) (entries : Nat) : Nat := 0x120 + 2 * entries * queryHeads d * d.headDim.toNat

/-- The range checks of R232. -/
def attendForm (s : State) (j : Job) (p : Packet) (a : AttendParams) (m : Membership) (d : ProfileDesc) (mine : Nat) : Bool :=
  let n := a.entryCount.toNat
  let host := attendHost m.prm
  formOk p 0x18 [] true && decide (m.firstLayer ≤ a.layer.toNat) && decide (a.layer.toNat ≤ m.lastLayer) && decide (1 ≤ n)
    && decide (n ≤ m.prm.maxEntries.toNat) && a.query.entryCount.toNat == n && a.query.layer == a.layer
    && (if host then p.path == .pcie && a.querySlot == 0 && decide (attendsInFlight s m mine < m.prm.querySlots.toNat)
          && inJobRegion s j a.queryOffset.toNat (queryLen d n) && inJobRegion s j a.resultAddr.toNat 1
        else p.path == .rdma && p.lane == bitsOf m.prm.qpn.toNat 0 24 && a.queryOffset == 0
          && decide (a.querySlot.toNat < m.prm.querySlots.toNat) && !slotBusy s m a.querySlot.toNat mine)

/-- A BF16 value is NaN or infinite. -/
def bf16Special (x : U16) : Bool := bitsOf x.toNat 7 8 == 255

/-- The checks on the opened block: every position at or past the range (R224), zeros beyond the entries, finite queries. -/
def queryOk (m : Membership) (d : ProfileDesc) (a : AttendParams) : Bool :=
  let n := a.entryCount.toNat
  let low := (m.prm.firstBlock.toNat + m.prm.blockCount.toNat - 1) * blockSize d
  a.query.qpos.length == 64 && (a.query.qpos.take n).all (fun q => decide (low ≤ q.toNat)) && (a.query.qpos.drop n).all (· == 0)
    && a.query.queries.length == n * queryHeads d * d.headDim.toNat && !(a.query.queries.any bf16Special)

/-- Whether a tenant's attention units of this window are spent. -/
def attendSpent (s : State) (t : Nat) : Bool :=
  let q := (quotasOf s t).attendUnits
  q != BitVec.allOnes 32 && decide (q.toNat * 1024 ≤ (useOf s t).attendUnits)

/-- The batch that an ATTEND joins (R246): the group's open batch of its layer that still has room for its entries. -/
def openBatchFor (s : State) (m : Membership) (layer entries : Nat) : Option Batch :=
  if coalesces m.prm then
    (s.eng.batches.filter fun b => b.isOpen && b.group == m.group && b.layer == layer && decide (batchEntries b + entries ≤ 64)).getLast?
  else none

/-- An ATTEND that passed its checks joins its batch. -/
def joinBatch (c : Cmd) (m : Membership) (a : AttendParams) (s : State) : State :=
  let x : AttendCtx := { slot := c.slot, membership := m.index, prm := a, entries := a.entryCount.toNat, late := false,
                         acked := false, gone := false, held := { lc := 0, shared := 0 } }
  let s0 := setCmd c.slot (fun c => { c with wait := .gather, phase := 1 })
    (setMember m.index (fun m => { m with lastAttend := some a.layer.toNat }) s)
  let (id, s1) := match openBatchFor s0 m a.layer.toNat x.entries with
    | some b => (b.id, setBatch b.id (fun b => { b with members := b.members ++ [x] }) s0)
    | none =>
      let b : Batch := { id := s0.eng.nextBatch, group := m.group, layer := a.layer.toNat, members := [x], isOpen := true, started := [],
                         staged := [], spansDone := [], rowsDone := [], partials := [] }
      (b.id, { s0 with eng := { s0.eng with batches := s0.eng.batches ++ [b], nextBatch := s0.eng.nextBatch + 1 } })
  let s2 := if ((findBatch s1 id).map (batchFull s1)).getD false then closeBatch id s1 else s1
  prefetchMember m.index s2

/-- The read of a host session's query block. -/
def readQuery (c : Cmd) (j : Job) (a : AttendParams) (d : ProfileDesc) (s : State) : State :=
  let len := queryLen d a.entryCount.toNat
  match primaryLane s j with
  | none => fail c .cancelled s
  | some l => startUnit (.host (laneRing l).1) (newUnit c.cls (.hostRead l c.slot a.queryOffset.toNat len) 0 (unitCredits len))
      (setCmd c.slot (fun c => { c with wait := .descRead, left := 1, count := 0, phase := 1 }) s)

/-- ATTEND's run (R232): its refusals in their order. -/
def runAttend (p : Packet) (a : AttendParams) (c : Cmd) (s : State) : State :=
  match jobOf s c with
  | none => fail c .noJob s
  | some j => match resolveSession s j a.session with
    | .error st => fail c st s
    | .ok m => match memberDesc s m with
      | none => fail c .badParam s
      | some d =>
        if ((closeSlate s m).map fun x => decide (x < c.acceptSlate)).getD false || !attendForm s j p a m d c.slot then fail c .badParam s
        else if attendHost m.prm && !c.fetched then readQuery c j a d s
        else if !a.query.tagOk || bitOf a.query.nonce.toNat 95 then fail c .integrity s
        else if !queryOk m d a then fail c .badParam s
        else if m.broken || lostAmong s m.ptrs then fail c .dataLost (setMember m.index (fun m => { m with broken := true }) s)
        else if m.slots.any fun x => ((findProfile s x).map (·.lost)).getD false then fail c .modelLost s
        else if attendSpent s j.tenant then onQuota c (setCmd c.slot (fun c => { c with phase := 1 }) s)
        else joinBatch c m a s

/-- ATTEND (0x0602). -/
def execAttend (p : Packet) (a : AttendParams) (s : State) : Host.Outcome State Fault Refusal :=
  finish s (command (.attend p a) (opLate 0x0602) p atOnce (runAttend p a) s)

/-! ## ATTEND_CLOSE (R229) -/

/-- ATTEND_CLOSE's run: the reply follows those of the membership's ATTENDs. -/
def runAttendClose (p : Packet) (a : AttendCloseParams) (c : Cmd) (s : State) : State :=
  match jobOf s c with
  | none => fail c .noJob s
  | some j =>
    if !formOk p 8 [] (a.reserved04 == 0) then fail c .badParam s
    else match resolveSession s j a.session with
      | .error st => fail c st s
      | .ok m =>
        if m.closeSlot.isSome then fail c .badParam s
        else finishClose m.index (setMember m.index (fun m => { m with closeSlot := some c.slot }) (park c.slot .attendDrain s))

/-- ATTEND_CLOSE (0x0603). -/
def execAttendClose (p : Packet) (a : AttendCloseParams) (s : State) : Host.Outcome State Fault Refusal :=
  finish s (command (.attendClose p a) (opLate 0x0603) p atOnce (runAttendClose p a) s)

/-! ## GATHER_WINDOW_EXPIRY (R246) -/

/-- GATHER_WINDOW_EXPIRY: an open batch closes. -/
def execGatherWindowExpiry (batch : Nat) (s : State) : Host.Outcome State Fault Refusal :=
  finish s (if ((findBatch s batch).map (·.isOpen)).getD false then closeBatch batch s else s)

end Sys2Proof.Machine
end

