-- ==== Sys2Proof/Machine/FlashForms.lean ====
section
/-! DEFINITION. The stored forms of the flash media: the map entry (Table 9.2), the out-of-band tag with its seal (Table 9.3), journal
records and journal pages (Tables 9.4, 9.5), and the data of a programmed slot (R258). -/
namespace Sys2Proof.Machine

/-- A physical page as bits [33:0] of a map entry: die, plane, page within the plane. -/
def pageWord (p : Nat × Nat × Nat) : Nat := p.1 * 2 ^ 24 + p.2.1 * 2 ^ 22 + p.2.2

/-- A map entry (Table 9.2); bits [33:0] of an unmapped one are all ones. -/
def mapWord (m : MapEntry) : Nat := m.live * 2 ^ 34 + ((m.place.map pageWord).getD (2 ^ 34 - 1))
def mapBytes (m : MapEntry) : List Byte := leBytes 5 (mapWord m)

/-- The media keys: those of K_mem for T = 0, G = 0, e = 0 (Table 14.2). -/
def mediaKey : BitVec 256 := sealKey 0 0 0

/-- KIND and the slot of a program (Table 9.3). -/
def tagSlot : ProgKind → Nat
  | .data slot => slot
  | .gcCopy slot _ _ => slot
  | .parity => 0
def tagFlags (k : ProgKind) : Nat :=
  let kind := fun (slot : Nat) => if poolBase ≤ slot then 0 else 1
  match k with
  | .data slot => kind slot * 2 ^ 4
  | .gcCopy slot _ _ => 2 ^ 7 + kind slot * 2 ^ 4
  | .parity => 2 * 2 ^ 4
def tagSource : ProgKind → Nat
  | .gcCopy _ src _ => src
  | _ => 0

/-- Bytes 0x00 to 0x1F of a program's tag. -/
def tagBytes (p : Program) : List Byte :=
  leBytes 5 (tagSlot p.kind) ++ leBytes 1 (tagFlags p.kind) ++ leBytes 2 ((p.band.map (·.2)).getD 0) ++ leBytes 8 p.seqNo
    ++ leBytes 8 (tagSource p.kind) ++ zeroBytes 8

/-- The SEAL of a tag over its page: no plaintext, nonce WRITE_SEQ followed by four zero bytes (Table 9.3). -/
def tagSeal (p : Program) (data : List Byte) : BitVec 128 :=
  BitVec.ofNat 128 (leNat (gcmTag (keyBytes mediaKey) (BitVec.ofNat 96 p.seqNo) (tagBytes p ++ data) []))

/-- A program's data: the encrypted granules of each extent in its slot, and zeros after them (R168, R258). -/
def slotData (s : State) (slot : Nat) (parts : List (Nat × Nat)) : List Byte :=
  let bytes := parts.flatMap fun x => match findMove s x.1 with
    | none => zeroBytes (512 * x.2)
    | some m => match findNode s m.ptr with
      | none => zeroBytes (512 * x.2)
      | some n => ((storedExtent s n m.group .t3 m.loc).drop (512 * (32 * slot - m.loc))).take (512 * x.2)
  bytes ++ zeroBytes (16384 - bytes.length)

/-! ## The journal -/

/-- The codes of streams and of band states in a BAND record, in the order in which the spec lists them. [DEDUCED, log 171] -/
def streamCode : Stream → Nat
  | .host => 0
  | .gc => 1
  | .metaStream => 2
/-- [DEDUCED, log 171] -/
def bandCode : BandState → Nat
  | .openBand => 0
  | .reserved => 1
  | .closed => 2
  | .erasing => 2
  | .free => 3

/-- KIND, ARG_A and ARG_B of a record (Table 9.5). A RETIRE record packs die, plane and block as a map entry packs a page; of a
SEG record the location of the image is left to the device. [DEDUCED, log 171] -/
def recordHead : JournalRec → Nat × Nat × Nat
  | .map slot place _ => (1, slot, pageWord place)
  | .alloc a g n => (2, 32 * a + g, n)
  | .free a g n _ => (3, 32 * a + g, n)
  | .segment k => (4, k, 0)
  | .band row index st state w => (5, row * 2 ^ 35 + streamCode st * 2 ^ 32 + index * 2 ^ 16, bandCode state * 2 ^ 38 + w)
  | .retire die plane block cause => (6, pageWord (die, plane, block), cause)
  | .counters .. => (7, 0, 0)
  | .index r => (8, recPtr r / 128, 0)

/-- The positions after the first: the counters of a COUNTERS record, and the 32 bytes of an index record, whose layout R89 does not
give. [UNVERIFIED, log 178] -/
def recordTail : JournalRec → List Byte
  | .counters w n credit theta => leBytes 8 w ++ leBytes 8 n ++ leBytes 8 (BitVec.ofInt 64 credit).toNat ++ leBytes 8 theta ++ zeroBytes 16
  | .index _ => zeroBytes 32
  | _ => []

/-- A record's positions of 16 bytes each, at a WRITE_SEQ. -/
def journalRecBytes (seq : Nat) (r : JournalRec) : List Byte :=
  let (k, a, b) := recordHead r
  leBytes 1 k ++ leBytes 5 a ++ leBytes 5 b ++ zeroBytes 1 ++ leBytes 4 (seq % 2 ^ 32) ++ recordTail r

/-- A journal page (Table 9.4): its header, its records under AES-256-GCM with the media key, and the tag. -/
def journalPage (journalSeq seq : Nat) (nonce : BitVec 96) (rs : List JournalRec) : List Byte :=
  let head := leBytes 8 journalSeq ++ leBytes 4 (seq / 2 ^ 32) ++ leBytes 2 (sumOf recPositions rs) ++ zeroBytes 2
    ++ leBytes 12 nonce.toNat ++ zeroBytes 4
  let recs := rs.flatMap (journalRecBytes seq)
  let cipher := gcmSeal (keyBytes mediaKey) nonce (recs ++ zeroBytes (16336 - recs.length))
  head ++ cipher ++ gcmTag (keyBytes mediaKey) nonce head cipher

end Sys2Proof.Machine
end

