-- ==== Sys2Proof/Machine/FlashJobs.lean ====
section
/-! DEFINITION. What the NAND and the FTL do on their own: programs, reads, erases, dead dies, the journal and its flushes,
images and checkpoints, garbage collection and the patrol read (chapter "Flash media management"). -/
namespace Sys2Proof.Machine

/-- The FTL runs from the end of its recovery (Table 9.7) until a hold-up flush begins (R286). -/
def ftlRuns (s : State) : Bool := decide (7 ≤ s.power.step) && s.power.flushing.isNone

/-! ## Spares and retired blocks (R255, R277, R279). A block is named by its die, its plane and its band. -/

/-- The spares of a plane that factory-bad blocks and the anchor blocks, on plane 0 of dies 0 and 16, take (R255, R269). -/
def takenSpares (g : Population) (die plane : Nat) : Nat :=
  (g.factoryBad.filter fun b => b.1 == die && b.2 == plane).length + (if (die == 0 || die == 16) && plane == 0 then 1 else 0)

/-- Spare blocks left in a plane: those of the format less the ones that stand in for retired blocks. -/
def planeSpares (g : Population) (retired : List (Nat × Nat × Nat)) (bands : List Band) (die plane : Nat) : Nat :=
  let gone := (bands.filter fun b => b.row == die / 32 && b.absent.contains (die % 32, plane)).length
  ceilDiv g.blocksPerPlane 50 + gone - (retired.filter fun r => r.1 == die && r.2.1 == plane).length - takenSpares g die plane

/-- SPARE_BLOCKS_LEFT. -/
def spareBlocksLeft (s : State) : Nat :=
  let g := geomOf s
  g.dies * g.planes * ceilDiv g.blocksPerPlane 50 + sumOf (fun b => b.absent.length) s.flash.bands - s.flash.retired.length
    - g.factoryBad.length - 2

/-- The members that stay absent when a band is erased: those whose plane has no spare left (R277, R279). -/
def stillAbsent (g : Population) (retired : List (Nat × Nat × Nat)) (bands : List Band) (b : Band) : List (Nat × Nat) :=
  b.absent.filter fun m => planeSpares g retired bands (b.row * 32 + m.1) m.2 == 0

/-- A band as its erase leaves it. -/
def erasedBand (absent : List (Nat × Nat)) (b : Band) : Band :=
  { b with state := .free, writePtr := 0, eraseCount := b.eraseCount + 1, reads := 0, absent := absent, weak := false,
           reservedFlushed := false }

/-- Retires a block: it takes no further program, its band runs without it, and a RETIRE record says why (R277, R279).
[DEDUCED, log 77] -/
def retireBlock (die plane index cause : Nat) (s : State) : State :=
  let b := findBand s (die / 32) index
  let absent := if b.absent.contains (die % 32, plane) then b.absent else (die % 32, plane) :: b.absent
  let s1 := putBand { b with absent := absent } s
  countFlash 6 1 (journalRec (.retire die plane index cause)
    { s1 with flash := { s1.flash with
        retired := s1.flash.retired ++ [(die, plane, index)],
        retiredWindow := (die, s.clk.window) :: s1.flash.retiredWindow.filter fun x => s.clk.window < x.2 + 256 } })

/-! ## Copies of pages: garbage collection, emptied blocks and rebuilds -/

/-- The band index of a page. [DEDUCED, log 77] -/
def indexOfPage (s : State) (place : Nat × Nat × Nat) : Nat := place.2.2 / max (geomOf s).pagesPerBlock 1

/-- Whether a page lies in a band. [DEDUCED, log 77] -/
def pageInBand (s : State) (row index : Nat) (place : Nat × Nat × Nat) : Bool :=
  place.1 / 32 == row && indexOfPage s place == index

/-- The mapped slots whose page `p` names. -/
def slotsWhere (s : State) (p : Nat × Nat × Nat → Bool) : List MapEntry :=
  s.flash.map.filter fun m => (m.place.map p).getD false

/-- Starts a copy of a mapped page into a stream (Table 9.8, steps 2 and 3). -/
def startCopy (st : Stream) (slot : Nat) (s : State) : State :=
  match (findMap s slot).place with
  | none => s
  | some p => startProgram (.gcCopy slot (findMap s slot).seqNo p) st [] { lc := 0, shared := 0 } s

/-- The stream that copies of a band's pages go to: the meta stream keeps its own (R272). -/
def copyStream (b : Band) : Stream := if b.stream == .metaStream then .metaStream else .gc

/-- Copies every mapped page that `p` names to other places (R277, R282). -/
def copyAway (p : Nat × Nat × Nat → Bool) (s : State) : State :=
  (slotsWhere s p).foldl (fun s m => startCopy .gc m.slot s) s

/-- Whether a program is a copy. -/
def isCopy (p : Program) : Bool :=
  match p.kind with
  | .gcCopy .. => true
  | _ => false

/-- Whether a copy of a page of a band still runs or waits. -/
def copiesFrom (s : State) (v : Nat × Nat) : Bool :=
  (s.flash.programs ++ s.flash.waiting).any fun p => match p.kind with
    | .gcCopy _ _ src => pageInBand s v.1 v.2 src
    | _ => false

/-- The next valid slot of the victim is copied (Table 9.8, step 4 to step 2); slots that have left the band are passed
over. -/
def gcNext : Nat → State → State
  | 0, s => s
  | fuel + 1, s =>
    match s.flash.gcVictim, s.flash.gcLeft with
    | some v, slot :: rest =>
      let s1 := { s with flash := { s.flash with gcLeft := rest } }
      if ((findMap s slot).place.map (pageInBand s v.1 v.2)).getD false then
        startCopy (copyStream (findBand s v.1 v.2)) slot s1
      else gcNext fuel s1
    | _, _ => s

/-- The extents with granules in a slot. -/
def extentsInSlot (s : State) (slot : Nat) : List (Nat × Nat) :=
  s.index.nodes.flatMap fun n => (List.range n.groups.length).filterMap fun g =>
    if (flashRun n g).any fun r => (runSlots r.1 r.2).any fun x => x.1 == slot then some (n.ptr, g) else none

/-- A slot is lost (R281): every extent with granules in it loses its T3 copy, and reads of them end. [UNVERIFIED, log 67] -/
def loseSlot (slot : Nat) (s : State) : State :=
  (extentsInSlot s slot).foldl (fun s x =>
    let s1 := (s.tiers.moves.filter fun m => m.ptr == x.1 && m.group == x.2 && m.src == .t3).foldl (fun s m => failMove m.id s) s
    dataError x.1 x.2 .t3 (dropRead x.1 x.2 s1)) (countFlash 5 1 s)

/-- The mapped slots whose pages are lost with a second dead die of a row (R283): those of both dies in every stripe of which
the page of an earlier dead die has not been rebuilt. [DEDUCED, log 78] -/
def doublyLost (s : State) (die : Nat) : List Nat :=
  let others := slotsWhere s fun p => p.1 != die && p.1 / 32 == die / 32 && s.persist.deadDies.contains p.1
  let stripes := others.filterMap fun m => m.place.map (·.2)
  (others.filter fun m => (slotsWhere s fun p => p.1 == die).any fun x => x.place.map (·.2) == m.place.map (·.2)).map (·.slot)
    ++ (slotsWhere s fun p => p.1 == die && stripes.contains p.2).map (·.slot)

/-- Declares a die dead (R282): EV_SPARE_MAPPED names it, and every valid page of it is rebuilt on other dies, but for those
that a second dead die in their stripe loses (R283). [DEDUCED, log 78] -/
def deadDie (die : Nat) (s : State) : State :=
  if s.persist.deadDies.contains die then s
  else
    let lost := doublyLost s die
    let s1 := { s with persist := { s.persist with deadDies := die :: s.persist.deadDies } }
    let s2 := lost.foldl (fun s x => loseSlot x s) (countFlash 8 1 (raise 0x0008 0 6 die (Int.ofNat 0xFFFFFFFF) s1))
    (slotsWhere s2 fun p => p.1 == die).foldl (fun s m => if lost.contains m.slot then s else startCopy .gc m.slot s) s2

/-- A die of which 4 blocks have been retired within 256 windows is dead (R282). [DEDUCED, log 78] -/
def checkDie (die : Nat) (s : State) : State :=
  if 4 ≤ (s.flash.retiredWindow.filter fun x => x.1 == die && s.clk.window < x.2 + 256).length then deadDie die s else s

/-! ## Programs -/

/-- R264: the slot's map entry names the new page, with a MAP record; the tag stays known to recovery until the record
is flushed (R270). [DEDUCED, log 80] -/
def mapPage (p : Program) (slot contentSeq : Nat) (s : State) : State :=
  let s1 := journalRec (.map slot p.place contentSeq)
    (putMap { findMap s slot with place := some p.place, seqNo := contentSeq } s)
  let tag : PageTag := { slot := slot, place := p.place, contentSeq := contentSeq, writeSeq := p.seqNo }
  { s1 with flash := { s1.flash with mapRecs := s1.flash.mapRecs + 1 },
            persist := { s1.persist with unflushed := s1.persist.unflushed ++ [tag] } }

/-- One slot of a move has been programmed: the tenant is charged, except for a re-seal (R405), and the last slot
calls for the state commit. -/
def partDone (move granules : Nat) (s : State) : State :=
  match findMove s move with
  | none => s
  | some m =>
    let s1 := match m.why, findNode s m.ptr with
      | .reseal, _ => s
      | _, some n => setUse n.tenant (fun u => { u with t3Bytes := u.t3Bytes + 512 * granules }) s
      | _, none => s
    let s2 := setMove move (fun m => { m with left := m.left - 1 }) s1
    if m.left ≤ 1 then askCommit m s2 else s2

/-- The bytes of data pages programmed since the last flush (R267). -/
def dataProgrammed (s : State) : State := { s with flash := { s.flash with dataBytes := s.flash.dataBytes + 16384 } }

/-- The effect of a program's success by its kind. A page whose slot was trimmed meanwhile stays unmapped (R275), as does a
copy whose source the map no longer names. [DEDUCED, log 80] -/
def programDone (p : Program) (s : State) : State :=
  match p.kind with
  | .parity => s
  | .data slot =>
    let s1 := dataProgrammed s
    if p.trimmed then s1
    else p.parts.foldl (fun s x => partDone x.1 x.2 s) (mapPage p slot p.seqNo s1)
  | .gcCopy slot src place =>
    let s1 := countFlash 2 1 (dataProgrammed s)
    let s2 := if (findMap s1 slot).place == some place then mapPage p slot src s1 else s1
    match s2.flash.gcVictim with
    | some v => if pageInBand s2 v.1 v.2 place then gcNext s2.flash.gcLeft.length s2 else s2
    | none => s2

/-- The program with a number. -/
def findProgram (s : State) (id : Nat) : Option Program := s.flash.programs.find? fun p => p.id == id

/-- A program leaves the list of those started, and its stage slot is free. -/
def dropProgram (id : Nat) (s : State) : State :=
  let s1 := endNand (.program id) { s with flash := { s.flash with programs := s.flash.programs.filter fun p => p.id != id } }
  match findProgram s id with
  | none => s1
  | some p => giveSlots p.held s1

/-- NAND_PROGRAM_DONE (R264), with the reclaim of R276. -/
def execNandProgramDone (prog : Nat) (s : State) : Host.Outcome State Fault Refusal :=
  match findProgram s prog with
  | none => finish s s
  | some p =>
    if nandRuns s (.program prog) then finish s (retryPrograms (flashReclaim (programDone p (chargeProgram 1 (dropProgram prog s)))))
    else finish s s

/-- NAND_PROGRAM_FAIL (R277, R278): the data is programmed again elsewhere, the block is retired, and its other pages
are copied away. [DEDUCED, log 35] -/
def execNandProgramFail (prog : Nat) (s : State) : Host.Outcome State Fault Refusal :=
  match findProgram s prog with
  | none => finish s s
  | some p =>
    if !nandRuns s (.program prog) then finish s s else
    let die := p.place.1
    let index := indexOfPage s p.place
    let s1 := retireBlock die p.place.2.1 index 1 (dropProgram prog s)
    let s2 := placeProgram { p with held := { lc := 0, shared := 0 } } s1
    let s3 := copyAway (fun q => q.1 == die && q.2.1 == p.place.2.1 && indexOfPage s q == index) s2
    finish s (checkDie die s3)

/-! ## Reads -/

/-- NAND_READ_DONE (R281): the pages of an extent have been read, after so many retry steps and perhaps from their
stripes, or one of its slots is lost. [UNVERIFIED, log 67] -/
def execNandReadDone (node grp retries : Nat) (rain ok : Bool) (s : State) : Host.Outcome State Fault Refusal :=
  match s.flash.reads.find? fun r => r.1 == node && r.2.1 == grp with
  | none => finish s s
  | some r =>
    if !nandRuns s (.read node grp) then finish s s else
    let bs := s.flash.bands.map fun b => if r.2.2.contains (b.row, b.index) then { b with reads := b.reads + 1 } else b
    let s1 := countFlash 4 (flagBit rain 0) (countFlash 3 retries
      (dropRead node grp { s with flash := { s.flash with bands := bs } }))
    if ok then
      match s1.tiers.moves.find? fun m => m.ptr == node && m.group == grp && m.src == .t3 with
      | none => finish s s1
      | some m => finish s (startStep m.id .carry s1)
    else
      let (k, s2) := useFree s1
      let slots := match (findNode s2 node).map fun n => flashRun n grp with
        | some (run :: _) => runSlots run.1 run.2
        | _ => []
      match slots[Config.lostSlot k % max slots.length 1]? with
      | none => finish s s2
      | some x => finish s (goOn (loseSlot x.1 s2))

/-! ## Erases and dead dies -/

/-- NAND_ERASE_DONE (Table 9.8, step 6): the band is free, and spares have taken the places of its retired blocks. -/
def execNandEraseDone (band : Nat) (s : State) : Host.Outcome State Fault Refusal :=
  let b := findBand s (band / 65536) (band % 65536)
  if b.state != .erasing || !nandRuns s (.erase b.row b.index) then finish s s
  else
    let b1 := erasedBand (stillAbsent (geomOf s) s.flash.retired s.flash.bands b) b
    finish s (retryPrograms (journalRec (.band b.row b.index b.stream .free 0) (putBand b1 (endNand (.erase b.row b.index) s))))

/-- NAND_ERASE_FAIL (R279): the block is retired; a spare takes its place when the erase of its band ends, if its plane
has one. -/
def execNandEraseFail (die plane block : Nat) (s : State) : Host.Outcome State Fault Refusal :=
  if (findBand s (die / 32) block).state == .erasing && nandRuns s (.erase (die / 32) block) then
    finish s (checkDie die (retireBlock die plane block 2 s))
  else finish s s

/-- DIE_READY_TIMEOUT (R282). -/
def execDieReadyTimeout (die : Nat) (s : State) : Host.Outcome State Fault Refusal :=
  if ftlRuns s && decide (die < (geomOf s).dies) then finish s (deadDie die s) else finish s s

/-! ## The journal (R266 to R268) -/

/-- The triggers of a flush (Table 9.6). [DEDUCED, log 68] -/
def flushDue (s : State) : Bool :=
  decide (16384 ≤ s.flash.mapRecs) || decide (67108864 ≤ s.flash.dataBytes) || s.flash.markerDue
    || decide (4194304 ≤ 32 * s.index.journalBuf.length)
    || (!s.flash.waiting.isEmpty && s.flash.bands.any fun b => b.state == .reserved && !b.reservedFlushed)
    || ((s.flash.gcVictim.map fun v => s.flash.gcLeft.isEmpty && !s.flash.gcFlushed && !copiesFrom s v).getD false)

/-- JOURNAL_FLUSH (R267, R268, R89): every record appended so far is on its way, with the index journal, a COUNTERS record
and the reservation of the next band of every open one. One flush runs at a time. [DEDUCED, log 68] -/
def execJournalFlush (s : State) : Host.Outcome State Fault Refusal :=
  if !ftlRuns s || s.flash.flushing.isSome || !flushDue s then finish s s
  else
    let s1 := (s.flash.bands.filter fun b => b.state == .openBand).foldl (fun s b => reserveBand b.row b.stream s) s
    let recs := s1.flash.pendingRecs ++ s1.index.journalBuf.map JournalRec.index
      ++ [.counters s1.flash.writeSeq s1.tiers.writeNo s1.persist.credit s1.persist.theta]
    let drained := s1.flash.gcVictim.isSome && s1.flash.gcLeft.isEmpty
      && !((s1.flash.gcVictim.map (copiesFrom s1)).getD false)
    finish s (queueNand .flush (flushDies s1 false recs) { s1 with
      index := { s1.index with journalBuf := [] },
      flash := { s1.flash with pendingRecs := [], flushing := some recs, mapRecs := 0, gcInFlush := drained, markerDue := false } })

/-- The flash granules that an index record gives up once it has been written (R90). -/
def freesOf : JournalRec → List (Nat × Nat)
  | .index (.remove _ fs) => fs
  | .index (.presence _ _ _ fs) => fs
  | .index (.epochChange _ _ _ _ fs) => fs
  | _ => []

/-- Whether a record empties granules of a slot. -/
def freesSlot (slot : Nat) : JournalRec → Bool
  | .free a g n _ => (runSlots (32 * a + g) n).any fun x => x.1 == slot
  | _ => false

/-- Whether a record maps a slot to a page. -/
def mapsTo (slot : Nat) (place : Nat × Nat × Nat) : JournalRec → Bool
  | .map x p _ => x == slot && p == place
  | _ => false

/-- Whether a record reserves a band. -/
def reserves (b : Band) : JournalRec → Bool
  | .band row index _ .reserved _ => row == b.row && index == b.index
  | _ => false

/-- A completed flush: its records are in T3; what waited for them goes on (R90, R268, R273, R275). -/
def flushDone (recs : List JournalRec) (s : State) : State :=
  let pend := s.flash.pendingRecs
  let busySlot := fun (x : Nat) => (s.flash.programs ++ s.flash.waiting).any fun p => p.kind == .data x
  let bs := s.flash.bands.map fun b =>
    if b.state == .reserved && !pend.any (reserves b) then { b with reservedFlushed := true } else b
  let trimmed := s.flash.trimmed.filter fun x => pend.any (freesSlot x) || busySlot x
  let tags := s.persist.unflushed.filter fun t => pend.any (mapsTo t.slot t.place)
  let pages := journalPages recs
  let s1 : State := { s with
    persist := { s.persist with journal := s.persist.journal ++ recs, unflushed := tags,
                                journalSeq := s.persist.journalSeq + pages / 2, writeSeq := s.flash.writeSeq + pages,
                                writeNo := s.tiers.writeNo },
    flash := { s.flash with flushing := none, bands := bs, trimmed := trimmed, dataBytes := 0,
                            gcFlushed := s.flash.gcFlushed || s.flash.gcInFlush, gcInFlush := false,
                            writeSeq := s.flash.writeSeq + pages } }
  let s2 := (recs.flatMap freesOf).foldl (fun s r => freeRun r.1 r.2 s) (chargeProgram pages s1)
  retryPrograms s2

/-- JOURNAL_FLUSH_DONE (R266). [DEDUCED, log 68] -/
def execJournalFlushDone (s : State) : Host.Outcome State Fault Refusal :=
  match s.flash.flushing with
  | none => finish s s
  | some recs => if nandRuns s .flush then finish s (flushDone recs (endNand .flush s)) else finish s s

/-! ## Replay of the FTL's records (Table 9.7, step 4) -/

/-- A map entry of an image. -/
def imageEntry (d : DirectoryImage) (slot : Nat) : MapEntry :=
  (d.map.find? fun m => m.slot == slot).getD { slot := slot, live := 0, place := none, seqNo := 0 }

/-- An image with one map entry replaced. -/
def withEntry (m : MapEntry) (d : DirectoryImage) : DirectoryImage :=
  let rest := d.map.filter fun x => x.slot != m.slot
  { d with map := if m.live == 0 && m.place.isNone then rest else m :: rest }

/-- An image with one band changed. -/
def withBand (row index : Nat) (f : Band → Band) (d : DirectoryImage) : DirectoryImage :=
  let old := (d.bands.find? fun b => b.row == row && b.index == index).getD
    { row := row, index := index, state := .free, stream := .host, writePtr := 0, eraseCount := 0, closedAt := 0,
      reads := 0, absent := [], weak := false, reservedFlushed := false }
  { d with bands := f old :: d.bands.filter fun b => !(b.row == row && b.index == index) }

/-- One record applied: SEG names an image whose updates the records before it hold too. -/
def applyRec (g : Population) (d : DirectoryImage) : JournalRec → DirectoryImage
  | .map slot place seq => withEntry { imageEntry d slot with place := some place, seqNo := seq } d
  | .alloc a i n => (runSlots (32 * a + i) n).foldl (fun d x =>
      withEntry { imageEntry d x.1 with live := (imageEntry d x.1).live + x.2 } d) d
  | .free a i n _ => (runSlots (32 * a + i) n).foldl (fun d x =>
      let m := imageEntry d x.1
      withEntry (if m.live ≤ x.2 then { m with live := 0, place := none } else { m with live := m.live - x.2 }) d) d
  | .band row index st state w => withBand row index (fun b =>
      if state == .free then erasedBand (stillAbsent g d.retired d.bands b) b
      else { b with stream := st, state := state, writePtr := w }) d
  | .retire die plane index _ =>
      withBand (die / 32) index (fun b => { b with absent := if b.absent.contains (die % 32, plane) then b.absent else (die % 32, plane) :: b.absent })
        { d with retired := d.retired ++ [(die, plane, index)] }
  | .segment _ => d
  | .counters .. => d
  | .index _ => d

/-- The newest directory image, empty before the first. -/
def lastImage (s : State) : DirectoryImage :=
  s.persist.directory.getD { slate := 0, window := 0, writeSeq := 0, map := [], bands := [], retired := [] }

/-- What the directory image and the journal in T3 say of the map, the bands and the retired blocks. -/
def replayFtl (s : State) : DirectoryImage := s.persist.journal.foldl (applyRec (geomOf s)) (lastImage s)

/-! ## Images and the checkpoint (R269, R91) -/

/-- MAP_SEGMENT_IMAGE (R269): the image of a changed segment is in the meta stream, and a SEG record names it. [DEDUCED, log 68] -/
def execMapSegmentImage (segment : Nat) (s : State) : Host.Outcome State Fault Refusal :=
  if ftlRuns s && s.flash.dirtySegs.contains segment then
    finish s (journalRec (.segment segment) (imagePages 1
      { s with flash := { s.flash with dirtySegs := s.flash.dirtySegs.filter fun x => x != segment } }))
  else finish s s

/-- Pages of a directory image, each on two dies, and of its two anchors. -/
def directoryPages (s : State) : Nat := 2 * ceilDiv (5 * ceilDiv s.persist.usable 1024) 16384 + 2

/-- Records that an image does not take in: index records, and the counters. -/
def notInImage : JournalRec → Bool
  | .index _ => true
  | .counters .. => true
  | _ => false

/-- DIRECTORY_IMAGE (R269, R455): the image takes in the journal up to its replay start, whose FTL records are then no longer
needed; the clapper's counts are recorded with it. [DEDUCED, log 68, 133] -/
def execDirectoryImage (s : State) : Host.Outcome State Fault Refusal :=
  if ftlRuns s then
    let d := { replayFtl s with slate := s.clk.slate, window := s.clk.window, writeSeq := s.flash.writeSeq }
    finish s (imagePages (directoryPages s)
      { s with persist := { s.persist with directory := some d, journal := s.persist.journal.filter notInImage } })
  else finish s s

/-- Whether an index record about a node has not reached T3. [DEDUCED, log 79] -/
def indexPending (s : State) (ptr : Nat) : Bool :=
  let about := fun (r : JournalRec) => match r with
    | .index i => recPtr i == ptr
    | _ => false
  (s.index.journalBuf.any fun r => recPtr r == ptr) || s.flash.pendingRecs.any about || (s.flash.flushing.getD []).any about

/-- The chunk of a node: 128 nodes (R91). -/
def chunkOf (ptr : Nat) : Nat := ptr / 128

/-- INDEX_CHECKPOINT (R91): a chunk that has changed is written to T3. A node with a record not yet written keeps its
earlier state there, so that the checkpoint names no copy whose records could still be lost (R92). [DEDUCED, log 68, 79] -/
def execIndexCheckpoint (chunk : Nat) (s : State) : Host.Outcome State Fault Refusal :=
  let mine := s.index.nodes.filter fun n => chunkOf n.ptr == chunk
  let ready := mine.filter fun n => !indexPending s n.ptr && !n.dying
  let old := s.persist.checkpoint.filter fun n => chunkOf n.ptr == chunk && indexPending s n.ptr
  let gone := s.persist.checkpoint.any fun n => chunkOf n.ptr == chunk && !(mine.any fun m => m.ptr == n.ptr)
  if ftlRuns s && s.power.step == 9 && (mine.any (·.changed) || gone) then
    let kept := s.persist.checkpoint.filter fun n => chunkOf n.ptr != chunk
    let ns := s.index.nodes.map fun n =>
      if chunkOf n.ptr == chunk && !indexPending s n.ptr then { n with changed := false } else n
    finish s (imagePages 1 { s with
      persist := { s.persist with checkpoint := kept ++ old ++ ready.map ckptNode },
      index := { s.index with nodes := ns } })
  else finish s s

/-! ## Garbage collection (R272 to R274, Table 9.8) -/

/-- Valid slots of a band. -/
def validSlots (s : State) (b : Band) : List Nat := (slotsWhere s (pageInBand s b.row b.index)).map (·.slot)

/-- The best of a list under an order, the first among equals. [DEDUCED, log 142] -/
def bestOf {α : Type} (lt : α → α → Bool) (l : List α) : Option α := (sortBy lt l).head?

/-- The closed band with the fewest valid slots; among equals, the one closed earliest (R272). [DEDUCED, log 142] -/
def fullestVictim (s : State) : Option Band :=
  bestOf (fun a b =>
    let x := (validSlots s a).length
    let y := (validSlots s b).length
    x < y || (x == y && a.closedAt < b.closedAt)) (s.flash.bands.filter fun b => b.state == .closed)

/-- The lowest and highest erase counts of a die row; a band of which nothing is recorded has none. -/
def rowErases (s : State) (row : Nat) : Nat × Nat :=
  let es := (s.flash.bands.filter fun b => b.row == row).map (·.eraseCount)
  let lo := if es.length < bandsPerRow (geomOf s) then 0 else es.foldl min ((es.head?).getD 0)
  (lo, es.foldl max 0)

/-- R274: wear levelling, read disturb or retention. -/
def mustMove (s : State) (b : Band) : Bool :=
  let (lo, hi) := rowErases s b.row
  b.state == .closed
    && ((b.eraseCount == lo && decide ((geomOf s).peCycles * 5 < (hi - b.eraseCount) * 100)) || decide (200000 ≤ b.reads) || b.weak)

/-- GC_START: a victim is chosen and its valid slots are copied one after another. -/
def execGcStart (s : State) : Host.Outcome State Fault Refusal :=
  if !ftlRuns s || s.flash.gcVictim.isSome then finish s s
  else
    let due := if freeBands s * 100 < bandCount s * 2 then fullestVictim s else s.flash.bands.find? (mustMove s)
    match due with
    | none => finish s s
    | some b =>
      let slots := validSlots s b
      finish s (gcNext slots.length { s with flash := { s.flash with
        gcVictim := some (b.row, b.index), gcLeft := slots, gcInFlush := false, gcFlushed := false } })

/-- The dies of a band's member blocks. -/
def eraseDies (s : State) (b : Band) : List Nat :=
  ((List.range 32).map fun c => b.row * 32 + c).filter fun d => !s.persist.deadDies.contains d

/-- GC_ERASE (R273): every MAP record of the moved slots has been flushed and no read of the band is in flight. -/
def execGcErase (s : State) : Host.Outcome State Fault Refusal :=
  match s.flash.gcVictim with
  | none => finish s s
  | some v =>
    let b := findBand s v.1 v.2
    if ftlRuns s && s.flash.gcFlushed && s.flash.gcLeft.isEmpty && (validSlots s b).isEmpty && !copiesFrom s v
        && !(s.flash.reads.any fun r => r.2.2.contains v) then
      finish s (queueNand (.erase b.row b.index) (eraseDies s b) (putBand { b with state := .erasing }
        { s with flash := { s.flash with gcVictim := none, gcFlushed := false } }))
    else finish s s

/-- PATROL_READ (R274, R438): a closed band one of whose pages needed 4 or more retry steps is collected. -/
def execPatrolRead (band retrySteps : Nat) (s : State) : Host.Outcome State Fault Refusal :=
  let b := findBand s (band / 65536) (band % 65536)
  if ftlRuns s && b.state == .closed then
    finish s (countFlash 3 retrySteps (putBand { b with reads := b.reads + 1, weak := b.weak || decide (4 ≤ retrySteps) } s))
  else finish s s

end Sys2Proof.Machine
end

