-- ==== Sys2Proof/Machine/Network.lean ====
section
/-! DEFINITION. The Ethernet ports and the RDMA transport (chapter "Network ports and RDMA"): frames answered and dropped, flow
control and rates, connection management, responder and requester, links and addresses. CONTEXT_FETCH_DONE stands in
Resume.lean. -/
namespace Sys2Proof.Machine

/-! ## Frames (R334) -/

/-- ARP_REQUEST: an address of the port is answered. [DEDUCED, log 136] -/
def execArpRequest (lport : Nat) (target : U32) (s : State) : Host.Outcome State Fault Refusal :=
  finish s (if lportServed s lport && ((findLport s lport).map fun l => l.ipv4 == some target).getD false then
      emit (.arpReply lport target) s else s)

/-- NEIGHBOR_DISCOVERY: a solicitation of an address of the port is answered. [DEDUCED, log 136] -/
def execNeighborDiscovery (lport : Nat) (target : BitVec 128) (s : State) : Host.Outcome State Fault Refusal :=
  finish s (if lportServed s lport && holdsAddress s lport target then emit (.neighborAdvert lport target) s else s)

/-- ICMP_ECHO: an echo request to an address of the port is answered; `v6` says which of the two it is. [DEDUCED, log 136] -/
def execIcmpEcho (lport : Nat) (target : BitVec 128) (v6 : Bool) (s : State) : Host.Outcome State Fault Refusal :=
  let isV4 := ((findLport s lport).map fun l => l.ipv4.map mappedV4 == some target).getD false
  finish s (if lportServed s lport && holdsAddress s lport target && isV4 == !v6 then emit (.echoReply lport) s else s)

/-- RX_OTHER_DROP: every other frame is counted in RX_OTHER_DROPS. -/
def execRxOtherDrop (lport : Nat) (s : State) : Host.Outcome State Fault Refusal :=
  finish s (if lportServed s lport then countPort lport 0 1 s else s)

/-! ## Flow control and congestion (R336, R338) -/

/-- Changes a physical Ethernet port. [DEDUCED, log 31] -/
def setEport (n : Nat) (f : EthPort → EthPort) (s : State) : State :=
  { s with net := { s.net with eports := updWhere (fun e => e.num == n) f s.net.eports } }

/-- PFC_FRAME_RECEIVED: a pause time of 0 resumes the priority, another stops it; only enabled priorities are heeded. The
counters of a physical port's flow control are those of its first logical port. [DEDUCED, log 31] -/
def execPfcFrameReceived (port : Nat) (prio : Nat) (quanta : Nat) (s : State) : Host.Outcome State Fault Refusal :=
  let c := ethCfg s port
  finish s (if c.pfcEnable && bitOf c.priorities.toNat prio then
      if quanta == 0 then setEport port (fun e => { e with paused := e.paused.filter fun p => p != prio }) s
      else countPort (4 * port) 5 1 (setEport port (fun e => { e with paused := prio :: e.paused.filter fun p => p != prio }) s)
    else s)

/-- PFC_PAUSE_TIME_EXPIRY: a pause that was not refreshed ends. -/
def execPfcPauseTimeExpiry (port : Nat) (prio : Nat) (s : State) : Host.Outcome State Fault Refusal :=
  finish s (setEport port (fun e => { e with paused := e.paused.filter fun p => p != prio }) s)

/-- PFC_PAUSE_REFRESH: at `occupancy` bytes of the receive buffer XOFF begins above 6 MiB, is repeated while it holds, and
ends below 4 MiB. [DESIGN CHOICE, log 14; DEDUCED, log 31] -/
def execPfcPauseRefresh (port : Nat) (occupancy : Nat) (s : State) : Host.Outcome State Fault Refusal :=
  let c := ethCfg s port
  let s1 := setEport port (fun e => { e with rxBytes := min occupancy 8388608 }) s
  match s.net.eports.find? fun e => e.num == port with
  | none => finish s s
  | some e =>
    let xoff := if 6291456 < occupancy then true else if occupancy < 4194304 then false else e.xoff
    let send := fun (on : Bool) (s : State) => emit (.pfc port c.priorities on) s
    finish s (if !c.pfcEnable then s1
      else if xoff then countPort (4 * port) 4 1 (send true (setEport port (fun e => { e with xoff := true }) s1))
      else if e.xoff then send false (setEport port (fun e => { e with xoff := false }) s1)
      else s1)

/-- A logical port's rate in Gb/s × 2^16 (Table 12.1). [DEDUCED, log 29] -/
def portRate (s : State) (lport : Nat) : Nat :=
  (match (ethCfg s (lport / 4)).mode with
    | 0 => 1600
    | 1 => 800
    | _ => 400) * 65536

/-- α after one step of its decay: (1 - 1/16) × α. [DEDUCED, log 29] -/
def decayAlpha (a : Nat) : Nat := a * 15 / 16

/-- CNP_RECEIVED: the rate is cut, at most once per 50 µs (`due`); ignored without ECN_ENABLE (R337).
[DESIGN CHOICE, log 14; DEDUCED, log 29] -/
def execCnpReceived (qpn : Nat) (due : Bool) (s : State) : Host.Outcome State Fault Refusal :=
  match findQp s qpn with
  | none => finish s s
  | some q =>
    if !(ethCfg s (q.lport / 4)).ecnEnable then finish s s
    else
      let s1 := countPort q.lport 8 1 s
      finish s (if due then
          setQp qpn (fun q => { q with rt := q.rc, rc := max 65536 (q.rc * (131072 - q.alpha) / 131072),
                                       alpha := decayAlpha q.alpha + 4096, increases := 0 }) s1
        else s1)

/-- RATE_LIMITER_TICK: 55 µs without a CNP. [DESIGN CHOICE, log 14; DEDUCED, log 29] -/
def execRateLimiterTick (qpn : Nat) (s : State) : Host.Outcome State Fault Refusal :=
  match findQp s qpn with
  | none => finish s s
  | some q =>
    let top := portRate s q.lport
    let rt := if 5 ≤ q.increases then min top (q.rt + 5 * 65536) else q.rt
    finish s (setQp qpn (fun q => { q with alpha := decayAlpha q.alpha, rt := rt, rc := max 65536 (min top ((q.rc + rt) / 2)),
                                           increases := q.increases + 1 }) s)

/-! ## Connection management (R341 to R343) -/

/-- Why a REQ is rejected, if it is. [DEDUCED, log 28] -/
def reqRejected (s : State) (r : CmReq) : Option RejReason :=
  if s.power.step < 6 || inTransition s then some .noQpAvailable
  else if r.serviceId.toNat != Config.cmService then some .invalidServiceId
  else if !r.transportRc then some .invalidTransportType
  else if !([256, 512, 1024, 2048, 4096].contains r.mtu) || !holdsAddress s r.lport r.destIp then some .unacceptable
  else if s.net.qpPool.free == 0 then some .noQpAvailable
  else none

/-- The context that an accepted REQ makes (R342), not yet in the cache. [PRESUMED, log 25; DEDUCED, log 30] -/
def newQp (s : State) (r : CmReq) (context gen : Nat) (psn : BitVec 24) : Qp :=
  let rate := portRate s r.lport
  { context := context, gen := gen, lport := r.lport, state := .awaitingRtu, partnerQpn := r.partnerQpn, mtu := r.mtu,
    dscp := r.trafficClass.toNat / 4, localIp := r.destIp, expectedPsn := r.startPsn, nakSent := false, ackDue := 0,
    sendPsn := psn, sent := [], sending := none, retryMax := r.retry.toNat, retries := 0, rnrMax := r.rnrRetry.toNat,
    rnrRetries := 0, rnrWaiting := false, ackTimeout := min 14 (max 4 r.ackTimeout.toNat),
    initiatorDepth := min 16 r.initiatorDepth.toNat, responderResources := min 16 r.responderResources.toNat,
    resident := false, pinnedInCache := false, lastUse := 0, fetching := false, held := [], cues := [], rc := rate, rt := rate,
    alpha := 65536, increases := 0, readySince := 0, formed := 0, leaveDue := false }

/-- CM_REQ: REP with a starting PSN drawn at random, or REJ. A port that is down answers nothing. -/
def execCmReq (r : CmReq) (s : State) : Host.Outcome State Fault Refusal :=
  if !lportServed s r.lport then finish s s
  else match reqRejected s r with
    | some why => finish s (emit (.cmRej r.lport why) s)
    | none => match s.net.qpPool.take with
      | none => finish s (emit (.cmRej r.lport .noQpAvailable) s)
      | some (context, g, pool) =>
        let (k, s1) := useFree s
        let psn := BitVec.ofNat 24 (Config.drbg k)
        let q := newQp s r context (g + 1) psn
        finish s (emit (.cmRep (qpnOf q) psn) { s1 with net := { s1.net with qps := s1.net.qps ++ [q], qpPool := pool } })

/-- CM_RTU: the connection is established. -/
def execCmRtu (qpn : Nat) (s : State) : Host.Outcome State Fault Refusal :=
  finish s (setQp qpn (fun q => if q.state == .awaitingRtu then { q with state := .ready, readySince := s.clk.window } else q) s)

/-- CM_MRA: the partner asks for more time, which the timeouts' own events take into account; nothing else changes. -/
def execCmMra (_qpn : Nat) (s : State) : Host.Outcome State Fault Refusal := finish s s

/-- CM_REJ: the connection attempt is abandoned. -/
def execCmRej (qpn : Nat) (s : State) : Host.Outcome State Fault Refusal :=
  finish s (if ((findQp s qpn).map fun q => q.state == .awaitingRtu).getD false then
      freeLeaving (leaveQp qpn (endQp qpn (fun _ s => s) s)) else s)

/-- CM_DREQ: answered with DREP; everything that uses the queue pair ends as for an error, without the event. [DEDUCED, log 27] -/
def execCmDreq (qpn : Nat) (s : State) : Host.Outcome State Fault Refusal :=
  finish s (if (findQp s qpn).isSome then freeLeaving (leaveQp qpn (endQp qpn (fun _ s => s) (emit (.cmDrep qpn) s))) else s)

/-- Whether a queue pair waits for its DREP. -/
def awaitsDrep (s : State) (qpn : Nat) : Bool := ((findQp s qpn).map fun q => q.state == .error || q.state == .disconnecting).getD false

/-- CM_DREP: a disconnected context is freed, once nothing references it. [DEDUCED, log 27] -/
def execCmDrep (qpn : Nat) (s : State) : Host.Outcome State Fault Refusal :=
  finish s (if awaitsDrep s qpn then freeLeaving (leaveQp qpn s) else s)

/-- CM_RESPONSE_TIMEOUT: no RTU came; the context is freed. -/
def execCmResponseTimeout (qpn : Nat) (s : State) : Host.Outcome State Fault Refusal :=
  finish s (if ((findQp s qpn).map fun q => q.state == .awaitingRtu).getD false then
      freeLeaving (leaveQp qpn (endQp qpn (fun _ s => s) s)) else s)

/-- QP_UNBOUND_TIMEOUT: 256 windows after RTU without a binding. -/
def execQpUnboundTimeout (qpn : Nat) (s : State) : Host.Outcome State Fault Refusal :=
  finish s (if ((findQp s qpn).map fun q => q.state == .ready && decide (q.readySince + 256 ≤ s.clk.window)).getD false
      && (findLane s qpn).isNone then disconnectQp qpn s else s)

/-- CONTEXT_FREE_TIMEOUT: 2 × the ACK timeout without a DREP. -/
def execContextFreeTimeout (qpn : Nat) (s : State) : Host.Outcome State Fault Refusal :=
  finish s (if awaitsDrep s qpn then freeLeaving (leaveQp qpn s) else s)

/-! ## Responder (R347, R192, R354) -/

/-- The job bound to a queue pair. -/
def qpJob (s : State) (qpn : Nat) : Option Job := (findLane s qpn).bind fun l => findJob s l.job

/-- Landing slots that `len` bytes at an address touch; none when they leave the region. -/
def touchedSlots (addr len : Nat) : Option (List Nat) :=
  if addr < Config.landingBase then none
  else
    let a := (addr - Config.landingBase) / 32768
    let b := (addr + len - 1 - Config.landingBase) / 32768
    if b < Config.landingSlots then some (if len == 0 then [] else (List.range (b + 1 - a)).map (a + ·)) else none

/-- R347: the key is the landing key of the bound job, and every byte lies in slots granted to it. -/
def landingOk (s : State) (qpn : Nat) (rkey : U32) (addr len : Nat) : Bool :=
  match qpJob s qpn, touchedSlots addr len with
  | some j, some slots => j.landingKey == rkey && slots.all fun n => s.tiers.landing.any fun x => x.num == n && x.job == j.index
  | _, _ => false

/-- The NAK that R347 calls for, if any. -/
def landingNak (s : State) (qpn : Nat) (rkey : U32) (addr len : Nat) : Option Nak :=
  if landingOk s qpn rkey addr len then none else some .remoteAccess

/-- Places data in the landing region. -/
def placeData (addr : Nat) (data : List Byte) (s : State) : State :=
  { s with tiers := { s.tiers with landingMem := memWrite addr data s.tiers.landingMem } }

/-- An RC request whose context is resident, or was fetched (Table 12.4, step 4). -/
def doRdmaWrite (h : Bth) (rkey : U32) (addr : U64) (data : List Byte) (s : State) : State :=
  rcAccept h (rcPackets s h.qpn data.length) (landingNak s h.qpn rkey addr.toNat data.length) (sendAck h.qpn)
    (placeData addr.toNat data) s

/-- Receives a request: `k` runs when the transport delivers it now. -/
def receive (i : Instr) (h : Bth) (bytes : Nat) (k : State → State) (s : State) : State :=
  match rcEnter i h bytes s with
  | (s1, false) => s1
  | (s1, true) => k s1

/-- RDMA_WRITE_RECEIVED. -/
def execRdmaWriteReceived (h : Bth) (rkey : U32) (addr : U64) (data : List Byte) (s : State) : Host.Outcome State Fault Refusal :=
  finish s (receive (.rdmaWriteReceived h rkey addr data) h data.length (doRdmaWrite h rkey addr data) s)

/-- An immediate that consumes no slot is counted in SLOT_DISCARDS (R192). -/
def discardSlot (qpn : Nat) (s : State) : State :=
  match qpJob s qpn with
  | none => s
  | some j => countJob j.index (fun k => { k with slotDiscards := k.slotDiscards + 1 }) s

/-- A landing slot's record as T1 gives it back (R439): an uncorrectable read leaves nothing that the link key opens.
[DESIGN CHOICE, log 181] -/
def recordRead (o : ReadOutcome) (r : IngestRecord) : IngestRecord := if readBad o then { r with opened := none } else r

/-- R192, R354: the immediate consumes the slot in which the write's last byte lies; its record is read from T1 and goes to the
ingest. [DEDUCED, log 146; DESIGN CHOICE, log 181] -/
def consumeSlot (qpn : Nat) (imm : U32) (last : Nat) (o : ReadOutcome) (s : State) : State :=
  match qpJob s qpn, s.tiers.landing.find? (fun x => x.num == imm.toNat) with
  | some j, some x => match x.holder, x.consumed with
    | .ingest i, false =>
      if x.job != j.index || (last - Config.landingBase) / 32768 != imm.toNat then discardSlot qpn s
      else
        let ls := updWhere (fun y => y.num == x.num) (fun y => { y with consumed := true }) s.tiers.landing
        arrive i none (some x.num) (recordRead o (slotRecord s x)) (countRead .t1 o { s with tiers := { s.tiers with landing := ls } })
    | _, _ => discardSlot qpn s
  | _, _ => discardSlot qpn s

/-- A write with immediate and data. -/
def doSlotConsume (h : Bth) (rkey : U32) (addr : U64) (data : List Byte) (imm : U32) (o : ReadOutcome) (s : State) : State :=
  rcAccept h (rcPackets s h.qpn data.length) (landingNak s h.qpn rkey addr.toNat data.length) (sendAck h.qpn)
    (fun s => consumeSlot h.qpn imm (addr.toNat + data.length - 1) o (placeData addr.toNat data s)) s

/-- SLOT_CONSUME. -/
def execSlotConsume (h : Bth) (rkey : U32) (addr : U64) (data : List Byte) (imm : U32) (outcome : ReadOutcome) (s : State) :
    Host.Outcome State Fault Refusal :=
  finish s (receive (.slotConsume h rkey addr data imm outcome) h data.length (doSlotConsume h rkey addr data imm outcome) s)

/-- The storyboard that the cue table of a queue pair names. -/
def cueTarget (s : State) (qpn : Nat) (d : U16) : Option Storyboard :=
  (findQp s qpn).bind fun q => (q.cues.find? fun c => c.1 == d.toNat).bind fun c => findSb s c.2

/-- A cue, acted on when the queue pair is bound (R354). -/
def doCue (h : Bth) (imm : U32) (s : State) : State :=
  rcAccept h 1 none (sendAck h.qpn)
    (fun s => match qpJob s h.qpn with
      | none => s
      | some j => applyCue imm (cueTarget s h.qpn) (some j.index) (tick s)) s

/-- CUE (R210). -/
def execCue (h : Bth) (imm : U32) (s : State) : Host.Outcome State Fault Refusal :=
  finish s (receive (.cue h imm) h 0 (doCue h imm) s)

/-- Sends the bytes of a READ. -/
def readBytes (h : Bth) (addr len : Nat) (s : State) : State :=
  emit (.rdmaReadResponse h.qpn h.psn (memBytes s.tiers.landingMem addr len)) s

/-- A READ of landing slots; a duplicate is executed again on what the slots hold now (R348). -/
def doRdmaRead (h : Bth) (rkey : U32) (addr : U64) (len : Nat) (s : State) : State :=
  let nak := landingNak s h.qpn rkey addr.toNat len
  rcAccept h (rcPackets s h.qpn len) nak
    (fun s => match nak with
      | none => readBytes h addr.toNat len s
      | some x => sendNak h h.psn x s)
    (readBytes h addr.toNat len) s

/-- RDMA_READ_REQUEST. -/
def execRdmaReadRequest (h : Bth) (rkey : U32) (addr : U64) (len : Nat) (s : State) : Host.Outcome State Fault Refusal :=
  finish s (receive (.rdmaReadRequest h rkey addr len) h 0 (doRdmaRead h rkey addr len) s)

/-- A request that Table 12.2 or R340 does not allow. -/
def doRdmaInvalid (h : Bth) (s : State) : State := rcAccept h 1 (some .invalidRequest) (sendAck h.qpn) (fun s => s) s

/-- RDMA_INVALID_REQUEST (R339, R340). -/
def execRdmaInvalidRequest (h : Bth) (s : State) : Host.Outcome State Fault Refusal :=
  finish s (receive (.rdmaInvalidRequest h) h 0 (doRdmaInvalid h) s)

/-- ACK_SEND_TIMER (R349). -/
def execAckSendTimer (qpn : Nat) (s : State) : Host.Outcome State Fault Refusal :=
  finish s (if ((findQp s qpn).map fun q => decide (0 < q.ackDue) && qpCarries s qpn).getD false then sendAck qpn s else s)

/-! ## Requester (R350 to R352) -/

/-- What the acknowledgement of a message does. -/
def retire (what : SentWhat) (s : State) : State :=
  match what with
  | .sbMsg sb _ _ bytes => settleSb sb (setSb sb (fun b => { b with ackedBytes := b.ackedBytes + bytes }) s)
  | .result slot => replyAttend slot s
  | _ => s

/-- Whether a message's last PSN is at or before `psn`. -/
def psnCovers (psn : BitVec 24) (m : Sent) : Bool := decide ((psn - m.lastPsn).toNat < 2 ^ 23)

/-- Everything up to `psn` is acknowledged; a READ is only answered by its response. -/
def ackUpTo (qpn : Nat) (psn : BitVec 24) (s : State) : State :=
  match findQp s qpn with
  | none => s
  | some q =>
    if 2 ^ 23 ≤ (q.sendPsn - 1 - psn).toNat then s
    else
      let (gone, left) := q.sent.partition fun m => !isRead m.what && psnCovers psn m
      let s1 := setQp qpn (fun q => { q with
        sent := left, retries := if gone.isEmpty then q.retries else 0, rnrRetries := if gone.isEmpty then q.rnrRetries else 0 }) s
      gone.foldl (fun s m => retire m.what s) s1

/-- The class of the command whose message it was (R319). -/
def sentClass (s : State) : SentWhat → Cls
  | .sbMsg sb _ _ _ => ((findSb s sb).map (·.cls)).getD .lc
  | .result slot => ((findCmd s slot).map (·.cls)).getD .lc
  | .readDesc slot _ _ => ((findCmd s slot).map (·.cls)).getD .lc
  | .readPull slot _ _ => ((findCmd s slot).map (·.cls)).getD .lc
  | .formed _ c _ => c

/-- Go-back-N from the first PSN that is not acknowledged (R351): every message since then is transmitted again, with fresh link
credits, in the order of its PSNs. [DEDUCED, log 33] -/
def goBack (qpn : Nat) (s : State) : State :=
  match findQp s qpn with
  | none => s
  | some q => match q.sent.head? with
    | none => s
    | some m =>
      let kind := EngineKind.rdma (q.lport / 4)
      let s1 := dropQueued (resends qpn) (emit (.retransmit qpn m.firstPsn) s)
      let s2 := q.sent.foldr (fun e s =>
        putFirst kind (newUnit (sentClass s e.what) (.resend qpn e.firstPsn e.what e.bytes) 0 (unitCredits e.bytes)) s) s1
      countPort q.lport 12 ((q.sendPsn - m.firstPsn).toNat) s2

/-- One retry, or the error state once the retry count is spent (R352). [PRESUMED, log 25; DEDUCED, log 33] -/
def retryQp (qpn : Nat) (s : State) : State :=
  match findQp s qpn with
  | none => s
  | some q =>
    if q.sent.isEmpty || !qpCarries s qpn then s
    else if q.retryMax != 7 && q.retryMax ≤ q.retries then qpError qpn 1 s
    else goBack qpn (setQp qpn (fun q => { q with retries := q.retries + 1 }) s)

/-- What a queue pair's acknowledgement lets go on. -/
def afterAck (s : State) : State := goOn s

/-- An acknowledgement's packet goes on with `k` when its queue pair carries traffic. -/
def doAck (h : Bth) (s : State) : State := if qpCarries s h.qpn then afterAck (ackUpTo h.qpn h.psn s) else s

/-- ACK_RECEIVED (R212). -/
def execAckReceived (h : Bth) (s : State) : Host.Outcome State Fault Refusal :=
  finish s (receive (.ackReceived h) h 0 (doAck h) s)

/-- A sequence-error NAK acknowledges all before the PSN that it names. -/
def doNakSequence (h : Bth) (s : State) : State :=
  if qpCarries s h.qpn then afterAck (retryQp h.qpn (ackUpTo h.qpn (h.psn - 1) s)) else s

/-- NAK_SEQUENCE_RECEIVED (R351). -/
def execNakSequenceReceived (h : Bth) (s : State) : Host.Outcome State Fault Refusal :=
  finish s (receive (.nakSequenceReceived h) h 0 (doNakSequence h) s)

/-- An RNR NAK: the device waits the timer that it names and counts one RNR retry. [PRESUMED, log 25] -/
def doRnrNak (h : Bth) (s : State) : State :=
  if !qpCarries s h.qpn then s
  else
    let s1 := ackUpTo h.qpn (h.psn - 1) s
    match findQp s1 h.qpn with
    | none => s1
    | some q =>
      if q.rnrMax != 7 && q.rnrMax ≤ q.rnrRetries then afterAck (qpError h.qpn 2 s1)
      else afterAck (setQp h.qpn (fun q => { q with rnrWaiting := true, rnrRetries := q.rnrRetries + 1 }) s1)

/-- RNR_NAK_RECEIVED (R351). -/
def execRnrNakReceived (h : Bth) (timer : BitVec 5) (s : State) : Host.Outcome State Fault Refusal :=
  finish s (receive (.rnrNakReceived h timer) h 0 (doRnrNak h) s)

/-- NAKs that end the queue pair: 3 remote access, 4 remote operation, 5 invalid request (Table 16.9). -/
def doNakFatal (h : Bth) (kind : Nat) (s : State) : State := afterAck (qpError h.qpn kind (ackUpTo h.qpn (h.psn - 1) s))

/-- NAK_FATAL_RECEIVED (R352). -/
def execNakFatalReceived (h : Bth) (kind : Nat) (s : State) : Host.Outcome State Fault Refusal :=
  finish s (receive (.nakFatalReceived h kind) h 0 (doNakFatal h kind) s)

/-- ACK_TIMEOUT (R351, R352). [DESIGN CHOICE, log 14] -/
def execAckTimeout (qpn : Nat) (s : State) : Host.Outcome State Fault Refusal := finish s (afterAck (retryQp qpn s))

/-- RNR_TIMER_EXPIRY (R351). -/
def execRnrTimerExpiry (qpn : Nat) (s : State) : Host.Outcome State Fault Refusal :=
  finish s (if ((findQp s qpn).map (·.rnrWaiting)).getD false then goBack qpn (setQp qpn (fun q => { q with rnrWaiting := false }) s) else s)

/-- The first unanswered READ of a command on a queue pair, and the messages sent before it. -/
def readOf (q : Qp) (slot : Nat) : Option Sent :=
  q.sent.find? fun m => match m.what with
    | .readDesc n _ _ => n == slot
    | .readPull n _ _ => n == slot
    | _ => false

/-- A READ response brings its data to the command (R191, R510); the last one answers the READ, and acknowledges what was
sent before it. -/
def doReadResponse (h : Bth) (slot : Nat) (data : ReadData) (last : Bool) (s : State) : State :=
  match (findQp s h.qpn).bind fun q => readOf q slot with
  | none => s
  | some m =>
    let s1 := ackUpTo h.qpn (m.firstPsn - 1) s
    let s2 := match data with
      | .records rs => pullRecords slot rs s1
      | .descriptors => s1
    if !last then s2
    else
      let s3 := setQp h.qpn (fun q => { q with sent := q.sent.erase m, retries := 0, rnrRetries := 0 }) s2
      match m.what with
      | .readPull _ _ _ => pullBufferDone slot s3
      | _ => readArrived slot s3

/-- READ_RESPONSE_RECEIVED (R510). -/
def execReadResponseReceived (h : Bth) (slot : Nat) (data : ReadData) (last : Bool) (s : State) :
    Host.Outcome State Fault Refusal :=
  finish s (receive (.readResponseReceived h slot data last) h 0 (doReadResponse h slot data last) s)

/-! ## Links (R358) -/

/-- ETH_LINK_DOWN: EV_PORT_DOWN; queue pairs keep their contexts. -/
def execEthLinkDown (lport : Nat) (s : State) : Host.Outcome State Fault Refusal :=
  finish s (if lportUp s lport then
      portDown 1 lport 1 { s with net := { s.net with lports := updWhere (fun l => l.num == lport) (fun l => { l with up := false }) s.net.lports } }
    else s)

/-- ETH_LINK_UP: from step 4 of start-up (Table 17.9), unless ADMIN_DOWN; an IPv4 address is asked for (R482). [PRESUMED, log 32] -/
def execEthLinkUp (lport : Nat) (s : State) : Host.Outcome State Fault Refusal :=
  let c := ethCfg s (lport / 4)
  match findLport s lport with
  | none => finish s s
  | some l =>
    finish s (if l.present && !l.up && !c.adminDown && decide (4 ≤ s.power.step) && s.power.flushing.isNone then
        emit (.dhcpRequest lport) (portUp 1 lport c.mode
          { s with net := { s.net with lports := updWhere (fun l => l.num == lport) (fun l => { l with up := true }) s.net.lports } })
      else s)

/-! ## Addresses (R482). Ports 0 to 15 are the logical Ethernet ports, 16 is the management port. -/

/-- Changes a port's addresses. -/
def setAddresses (port : Nat) (f4 : Option U32 → Option U32) (f6 : List (BitVec 128) → List (BitVec 128)) (s : State) : State :=
  if port < 16 then
    { s with net := { s.net with 
      lports := updWhere (fun l => l.num == port) (fun l => { l with ipv4 := f4 l.ipv4, ipv6 := f6 l.ipv6 }) s.net.lports } }
  else { s with mgmt := { s.mgmt with ipv4 := f4 s.mgmt.ipv4, ipv6 := f6 s.mgmt.ipv6 } }

/-- Whether a port's link is up. -/
def linkOf (s : State) (port : Nat) : Bool := if port < 16 then lportUp s port else s.mgmt.linkUp

/-- DHCP_REPLY: a lease is assigned or renewed. [DEDUCED, log 136] -/
def execDhcpReply (port : Nat) (ip : U32) (s : State) : Host.Outcome State Fault Refusal :=
  finish s (if linkOf s port then setAddresses port (fun _ => some ip) id s else s)

/-- ROUTER_ADVERTISEMENT: SLAAC forms the address of the prefix. -/
def execRouterAdvertisement (port : Nat) (pfx : U64) (s : State) : Host.Outcome State Fault Refusal :=
  let a := slaacAddress port pfx
  finish s (if linkOf s port then setAddresses port id (fun l => if l.contains a then l else l ++ [a]) s else s)

/-- ADDRESS_LIFETIME_EXPIRY: the port drops the address. -/
def execAddressLifetimeExpiry (port : Nat) (v6 : Bool) (ip : BitVec 128) (s : State) : Host.Outcome State Fault Refusal :=
  finish s (if v6 then setAddresses port id (fun l => l.filter fun a => a != ip) s
    else setAddresses port (fun o => if o.map mappedV4 == some ip then none else o) id s)

end Sys2Proof.Machine
end

