-- ==== Sys2Proof/Machine/HostPorts.lean ====
section
/-! DEFINITION. The host ports (chapter "Host ports, bounce buffers and the host window"): functions and their registers, ring
pairs and doorbells, links, the CXL host window and its mailbox. -/
namespace Sys2Proof.Machine

/-! ## Functions (R363, R365) -/

/-- The PORT_CONFIG of a host port. -/
def hostCfg (s : State) (port : Nat) : PortCfg :=
  (s.cfg.ports[4 + port]?).getD { mode := 0, adminDown := false, pfcEnable := false, ecnEnable := false, cxlEnable := false, priorities := 0 }

/-- The link with a number. -/
def findLink (s : State) (port link : Nat) : Option HostLink := s.host.links.find? fun l => l.port == port && l.link == link

/-- Changes a link. -/
def setLink (port link : Nat) (f : HostLink → HostLink) (s : State) : State :=
  { s with host := { s.host with links := updWhere (fun l => l.port == port && l.link == link) f s.host.links } }

/-- Whether a link is up, and whether BAR0 is served on it (Table 17.9). -/
def hostUp (s : State) (port link : Nat) : Bool := ((findLink s port link).map (·.up)).getD false
def barServed (s : State) (port link : Nat) : Bool := hostUp s port link && decide (5 ≤ s.power.step)

/-- P_f (R363). -/
def ringsPerFn (s : State) (port link : Nat) : Nat :=
  let n := if (hostCfg s port).mode == 1 then 2048 else 4096
  min 64 (2 ^ (n / (1 + ((findLink s port link).map (·.vfs)).getD 0)).log2)

/-- The function of a ring-pair number, and the number of a function's local ring pair. -/
def fnOfRing (s : State) (port link ring : Nat) : Nat := (ring - 2048 * link) / ringsPerFn s port link
def ringNumber (s : State) (port link fn i : Nat) : Nat := 2048 * link + fn * ringsPerFn s port link + i

/-- The function with a number. -/
def findFunc (s : State) (port link fn : Nat) : Option FuncRegs :=
  s.host.funcs.find? fun f => f.port == port && f.link == link && f.fn == fn

/-- Whether a ring-pair number belongs to a function of a served link. -/
def ringExists (s : State) (port link ring : Nat) : Bool :=
  barServed s port link && decide (2048 * link ≤ ring) && (findFunc s port link (fnOfRing s port link ring)).isSome

/-- A function's registers at their reset values (Table 13.3). -/
def freshFunc (port link fn : Nat) : FuncRegs :=
  { port := port, link := link, fn := fn, events := 0, mask := 0x3F, vector := 0, msix := [], pba := [] }

/-- The functions of a link become the PF and `n` VFs, those that stay with their registers. -/
def setFunctions (port link n : Nat) (s : State) : State :=
  let others := s.host.funcs.filter fun f => !(f.port == port && f.link == link)
  let mine := (List.range (n + 1)).map fun k => (findFunc s port link k).getD (freshFunc port link k)
  { s with host := { s.host with funcs := others ++ mine } }

/-- A ring-pair block at its reset values (Tables 13.5 to 13.7). -/
def freshRing (s : State) (port link ring : Nat) : RingPair :=
  { port := port, ring := ring, fn := fnOfRing s port link ring, link := link, bounceBase := 0, bouncePages := 0,
    enable := false, sqOrder := 0, cqOrder := 0, coalesce := 0, vector := 0, faultCause := 0, fault := false, sqHead := 0,
    sqTail := 0, cqTail := 0, cqHead := 0, phase := true, reserved := 0, coalescing := false, coalescePending := false,
    waitingEntries := [], arriving := 0 }

/-- Changes a ring-pair block that may not have been touched yet. -/
def putRing (port link ring : Nat) (f : RingPair → RingPair) (s : State) : State :=
  let r := (findRing s port ring).getD (freshRing s port link ring)
  { s with host := { s.host with rings := f r :: s.host.rings.filter fun x => !(x.port == port && x.ring == ring) } }

/-! ## Ring pairs (R367) -/

/-- RP_CONTROL's fields but ENABLE (Table 13.6). -/
def withControl (c : U32) (r : RingPair) : RingPair :=
  { r with sqOrder := bitsOf c.toNat 24 4, cqOrder := bitsOf c.toNat 20 4, coalesce := bitsOf c.toNat 8 8, vector := bitsOf c.toNat 0 8 }

/-- The checks of ENABLE (R367), with BOUNCE_PAGES's own range (Table 13.5). -/
def ringConfigOk (s : State) (r : RingPair) : Bool :=
  decide (r.sqOrder ≤ 10) && decide (r.cqOrder ≤ 10) && decide (64 ≤ r.bouncePages.toNat) && decide (r.bouncePages.toNat ≤ 16777216)
    && decide (dataOffset r ≤ regionSize r) && decide (r.vector ≤ ringsPerFn s r.port r.link)

/-- Sets ENABLE: the ring pair starts, or stands in FAULT with cause 1. -/
def enableRing (port link ring : Nat) (control : U32) (s : State) : State :=
  let r := (findRing s port ring).getD (freshRing s port link ring)
  if r.enable then s
  else
    let r1 := { withControl control (clearRing r) with enable := true }
    putRing port link ring (fun _ => if ringConfigOk s r1 then r1 else { r1 with fault := true, faultCause := 1 }) s

/-- RP_ENABLE. -/
def execRpEnable (port link ring : Nat) (control : U32) (s : State) : Host.Outcome State Fault Refusal :=
  finish s (if ringExists s port link ring then enableRing port link ring control s else s)

/-- RP_DISABLE (R367). -/
def execRpDisable (port link ring : Nat) (s : State) : Host.Outcome State Fault Refusal :=
  finish s (if ringExists s port link ring && ((findRing s port ring).map (·.enable)).getD false then goOn (disableRing port ring s) else s)

/-- CQ_HEAD of a doorbell: entries that the host has read are free again, and fetching goes on (R373). [DEDUCED, log 89] -/
def applyCqHead (port ring : Nat) (v : U64) (s : State) : State :=
  if bitOf v.toNat 63 then fetchRing port ring (setRing port ring (fun r => { r with cqHead := bitsOf v.toNat 32 16 % cqSize r }) s) else s

/-- SQ_TAIL of a doorbell, with the entries that the host has written since the last one (R371). [DEDUCED, log 9] -/
def applySqTail (port ring : Nat) (v : U64) (entries : List SqEntry) (s : State) : State :=
  if bitOf v.toNat 62 then
    fetchRing port ring (setRing port ring (fun r =>
      let tail := bitsOf v.toNat 0 16 % sqSize r
      let n := (tail + sqSize r - r.sqTail) % sqSize r
      { r with sqTail := tail, waitingEntries := r.waitingEntries ++ entries.take n }) s)
  else s

/-- Whether a doorbell is heeded: its ring pair is enabled (R365, Table 13.8). -/
def doorbellServed (s : State) (port link ring : Nat) : Bool :=
  ringExists s port link ring && ((findRing s port ring).map (·.enable)).getD false

/-- DOORBELL_SQ_TAIL: one 8-byte write, whose CQ_UPDATE applies CQ_HEAD too. [DEDUCED, log 89] -/
def execDoorbellSqTail (port link ring : Nat) (value : U64) (entries : List SqEntry) (s : State) : Host.Outcome State Fault Refusal :=
  finish s (if doorbellServed s port link ring then goOn (applySqTail port ring value entries (applyCqHead port ring value s)) else s)

/-- DOORBELL_CQ_HEAD. -/
def execDoorbellCqHead (port link ring : Nat) (value : U64) (s : State) : Host.Outcome State Fault Refusal :=
  finish s (if doorbellServed s port link ring then goOn (applyCqHead port ring value s) else s)

/-- MSIX_COALESCE_EXPIRY (R375). -/
def execMsixCoalesceExpiry (port ring : Nat) (s : State) : Host.Outcome State Fault Refusal :=
  finish s (match findRing s port ring with
    | none => s
    | some r =>
      if r.coalescing && r.coalescePending then
        setRing port ring (fun r => { r with coalescePending := false }) (sendMsix port r.link r.fn r.vector s)
      else setRing port ring (fun r => { r with coalescing := false }) s)

/-! ## REGISTER_WRITE (R365) -/

/-- A 4-byte half of an 8-byte register replaced. -/
def withHalf (old : U64) (hi : Bool) (v : U64) : U64 :=
  if hi then BitVec.ofNat 64 (old.toNat % 2 ^ 32 + v.toNat % 2 ^ 32 * 2 ^ 32)
  else BitVec.ofNat 64 (old.toNat / 2 ^ 32 * 2 ^ 32 + v.toNat % 2 ^ 32)

/-- A write inside a ring-pair block, at `off` of it. While ENABLE is 1 only ENABLE itself acts (R367). Clearing
FAULT returns FAULT_CAUSE to 0. [DESIGN CHOICE, log 148] -/
def writeRing (port link ring off size : Nat) (v : U64) (s : State) : State :=
  let r := (findRing s port ring).getD (freshRing s port link ring)
  let base := fun (b : U64) => BitVec.ofNat 64 (b.toNat / 4096 * 4096)
  match off, size with
  | 0x00, 8 => if r.enable then s else putRing port link ring (fun r => { r with bounceBase := base v }) s
  | 0x00, 4 => if r.enable then s else putRing port link ring (fun r => { r with bounceBase := base (withHalf r.bounceBase false v) }) s
  | 0x04, 4 => if r.enable then s else putRing port link ring (fun r => { r with bounceBase := withHalf r.bounceBase true v }) s
  | 0x08, 4 => if r.enable then s else putRing port link ring (fun r => { r with bouncePages := BitVec.ofNat 32 v.toNat }) s
  | 0x0C, 4 =>
    let c : U32 := BitVec.ofNat 32 v.toNat
    if bitOf c.toNat 31 then enableRing port link ring c s
    else if r.enable then disableRing port ring s
    else putRing port link ring (withControl c) s
  | 0x10, 4 => if !r.enable && bitOf v.toNat 2 then putRing port link ring (fun r => { r with fault := false, faultCause := 0 }) s else s
  | _, _ => s

/-- The bits of a dword of the MSI-X table that are not reserved: a message address is a multiple of 4, and a vector's control
dword holds its mask alone. [PRESUMED, log 84] -/
def msixBits (dword : Nat) (v : U32) : U32 :=
  if dword % 4 == 0 then v &&& 0xFFFFFFFC else if dword % 4 == 3 then v &&& 1 else v

/-- A dword of the MSI-X table: a vector unmasked with its message pending sends it. [PRESUMED, log 84] -/
def writeMsix (port link fn dword : Nat) (v : U32) (s : State) : State :=
  let s1 := setFunc port link fn (fun f => { f with msix := (dword, msixBits dword v) :: f.msix.filter fun x => x.1 != dword }) s
  match findFunc s1 port link fn with
  | none => s1
  | some f =>
    let vec := dword / 4
    if !vectorMasked f vec && f.pba.contains vec then
      sendMsix port link fn vec (setFunc port link fn (fun f => { f with pba := f.pba.filter fun x => x != vec }) s1)
    else s1

/-- A write to BAR0 by its offset (Table 13.2). -/
def writeBar (port link fn offset size : Nat) (v : U64) (s : State) : State :=
  let pf := ringsPerFn s port link
  if offset % size != 0 || (size != 4 && size != 8) then s
  else if offset < 0x100 then
    if size != 4 then s
    else match offset with
      | 0x08 => setFunc port link fn (fun f => { f with events := f.events &&& (0x3F ^^^ (v.toNat &&& 0x3F)) }) s
      | 0x0C => setFunc port link fn (fun f => { f with mask := v.toNat % 64 }) s
      | 0x10 => setFunc port link fn (fun f => { f with vector := v.toNat % 256 }) s
      | _ => s
  else if offset < 0x900 then
    let i := (offset - 0x100) / 32
    if i < pf then writeRing port link (ringNumber s port link fn i) (offset % 32) size v s else s
  else if 0x8000 ≤ offset && offset < 0x8000 + 16 * (pf + 1) then
    let d := (offset - 0x8000) / 4
    if size == 4 then writeMsix port link fn d (BitVec.ofNat 32 v.toNat) s
    else writeMsix port link fn (d + 1) (BitVec.ofNat 32 (v.toNat / 2 ^ 32)) (writeMsix port link fn d (BitVec.ofNat 32 v.toNat) s)
  else s

/-- REGISTER_WRITE: fields and W1C bits; reserved ranges ignore it. Doorbells have rows of their own. -/
def execRegisterWrite (port link fn offset size : Nat) (value : U64) (s : State) : Host.Outcome State Fault Refusal :=
  finish s (if barServed s port link && (findFunc s port link fn).isSome then goOn (writeBar port link fn offset size value s) else s)

/-! ## Links and resets (Table 13.12, R385, R501) -/

/-- PCIE_CONFIG_REQUEST (R385): retry status until the firmware has been verified. -/
def execPcieConfigRequest (port link fn : Nat) (s : State) : Host.Outcome State Fault Refusal :=
  finish s (if hostUp s port link then emit (.configResponse port link fn (decide (s.power.step < 5))) s else s)

/-- An FLR of the PF, or a hot reset: every function of the link, whose VFs are gone. [PRESUMED, log 85] -/
def resetPf (port link : Nat) (s : State) : State :=
  setFunctions port link 0 (setLink port link (fun l => { l with vfs := 0 }) (resetLink port link s))

/-- FUNCTION_LEVEL_RESET (R384). [PRESUMED, log 85] -/
def execFunctionLevelReset (port link fn : Nat) (s : State) : Host.Outcome State Fault Refusal :=
  finish s (if hostUp s port link then goOn (if fn == 0 then resetPf port link s else resetFunction port link fn s) else s)

/-- VF_ENABLE_CHANGE (R364): every ring pair of the link is reset, and the VFs are those named. [PRESUMED, log 85] -/
def execVfEnableChange (port link : Nat) (enable : Bool) (numVfs : Nat) (s : State) : Host.Outcome State Fault Refusal :=
  let most := if (hostCfg s port).mode == 1 then 127 else 255
  let n := if enable then min numVfs most else 0
  finish s (if barServed s port link then
      goOn (setFunctions port link n (setLink port link (fun l => { l with vfs := n }) (resetLink port link s)))
    else s)

/-- The window of a port, and its change. -/
def findWindow (s : State) (port : Nat) : HostWindow := (s.host.windows.find? fun w => w.port == port).getD (emptyWindow port)
def setWindow (port : Nat) (f : HostWindow → HostWindow) (s : State) : State :=
  { s with host := { s.host with windows := updWhere (fun w => w.port == port) f s.host.windows } }

/-- HOST_LINES_POISONED in a port's PF (R382, R366). -/
def pfEvent5 (port : Nat) (s : State) : State :=
  match findFunc s port 0 0 with
  | none => s
  | some f =>
    let s1 := setFunc port 0 0 (fun f => if bitOf f.events 5 then f else { f with events := f.events + 32 }) s
    if bitOf f.mask 5 then s1 else sendMsix port 0 0 f.vector s1

/-- The directory walk after a CXL link is lost (R382). [DEDUCED, log 88] -/
def walkWindow (port : Nat) (s : State) : State :=
  let w := findWindow s port
  let bad := (w.lines.filter fun l => l.2 == .any).map (·.1)
  let s1 := setWindow port (fun w => { w with lines := [], poisoned := w.poisoned ++ bad.filter fun l => !w.poisoned.contains l }) s
  if bad.isEmpty then s1
  else pfEvent5 port (raise 0x000A 0 port 0 (Int.ofNat bad.length)
    (setWindow port (fun w => { w with eventRecords := w.eventRecords + 1 }) s1))

/-- A hot reset, the loss of a link or a port reset: `why` is EV_PORT_DOWN's ARG_A. [DEDUCED, log 88] -/
def loseLink (port link why : Nat) (s : State) : State :=
  if !hostUp s port link then s
  else
    let s1 := portDown 2 port why (resetPf port link s)
    let s2 := setLink port link (fun l => { l with up := false }) s1
    if link == 0 && (findWindow s port).cxl then walkWindow port s2 else s2

/-- HOST_LINK_DOWN (R382). -/
def execHostLinkDown (port link : Nat) (s : State) : Host.Outcome State Fault Refusal := finish s (goOn (loseLink port link 1 s))

/-- PERST_ASSERT (R501). -/
def execPerstAssert (port link : Nat) (s : State) : Host.Outcome State Fault Refusal :=
  finish s (goOn (setLink port link (fun l => { l with perst := true }) (loseLink port link 1 s)))

/-- PERST_RELEASE (R501): the link may train, which is an event of its own. -/
def execPerstRelease (port link : Nat) (s : State) : Host.Outcome State Fault Refusal :=
  finish s (setLink port link (fun l => { l with perst := false }) s)

/-- HOST_LINK_TRAINED (R361, R362, R377): from step 3 of start-up, out of PERST, on a link that the MODE has; link 0 of a port
with CXL_ENABLE and MODE 0 runs as CXL when the host accepts. -/
def execHostLinkTrained (port link : Nat) (acceptsCxl : Bool) (s : State) : Host.Outcome State Fault Refusal :=
  let c := hostCfg s port
  match findLink s port link with
  | none => finish s s
  | some l =>
    finish s (if l.up || l.perst || s.power.step < 3 || c.adminDown || (link == 1 && c.mode != 1) then s
      else
        let s1 := setFunctions port link 0 (setLink port link (fun l => { l with up := true, vfs := 0 }) s)
        let s2 := if link == 0 then setWindow port (fun w => { w with cxl := c.cxlEnable && c.mode == 0 && acceptsCxl }) s1 else s1
        portUp 2 port c.mode s2)

/-! ## The host window (R378 to R383) -/

/-- Lines of one granule of 1 GiB. -/
def granuleLines : Nat := 16777216

/-- Whether a line is backed, and whether it is fenced (R378, Table 13.11). -/
def lineBacked (w : HostWindow) (line : Nat) : Bool := decide (line / granuleLines < w.granules)
def lineFenced (w : HostWindow) (line : Nat) : Bool := (w.fenceFrom.map fun f => decide (f ≤ line / granuleLines)).getD false

/-- The directory state of a line after a request that grants `g` (R380). [DEDUCED, log 86] -/
def grantLine (line : Nat) (g : LineState) (w : HostWindow) : HostWindow :=
  let rest := w.lines.filter fun l => l.1 != line
  { w with lines := if g == .inv then rest else (line, g) :: rest }

/-- Whether a port serves CXL.mem. -/
def cxlServed (s : State) (port : Nat) : Bool := hostUp s port 0 && (findWindow s port).cxl && decide (6 ≤ s.power.step)

/-- CXL_MEM_READ: data, or poison for an unbacked, fenced or poisoned line. [DEDUCED, log 86] -/
def execCxlMemRead (port : Nat) (line : Nat) (grant : LineState) (s : State) : Host.Outcome State Fault Refusal :=
  let w := findWindow s port
  finish s (if !cxlServed s port then s
    else if !lineBacked w line || lineFenced w line then emit (.cxlData port line none) s
    else emit (.cxlData port line (if w.poisoned.contains line then none else some (memBytes w.mem (64 * line) 64)))
      (setWindow port (grantLine line grant) s))

/-- What T2 holds of a granule of 512 bytes of a window: AES-256-XTS under the window key (R379). The spec states neither the
data unit nor the tweak; they are those of R168. [DESIGN CHOICE, log 173] -/
def windowStored (w : HostWindow) (granule : Nat) : Option (List Byte) :=
  w.key.map fun k => xtsUnit (leBytes 32 (k.toNat % 2 ^ 256)) (leBytes 32 (k.toNat / 2 ^ 256)) granule (memBytes w.mem (512 * granule) 512)

/-- The bytes of a line after a write with byte enables. -/
def writeLine (line : Nat) (data : List Byte) (enables : List Bool) (m : List Host.Cell) : List Host.Cell :=
  (List.range 64).foldl (fun m i =>
    if enables.getD i false then memPut (64 * line + i) (data.getD i 0) m else m) m

/-- CXL_MEM_WRITE: stored, or dropped and counted; a full-line write clears poison (R383). -/
def execCxlMemWrite (port : Nat) (line : Nat) (data : List Byte) (enables : List Bool) (grant : LineState) (s : State) :
    Host.Outcome State Fault Refusal :=
  let w := findWindow s port
  let full := (List.range 64).all fun i => enables.getD i false
  finish s (if !cxlServed s port then s
    else emit (.cxlWriteDone port line)
      (if !lineBacked w line then setWindow port (fun w => { w with misses := w.misses + 1 }) s
      else if lineFenced w line then setWindow port (fun w => { w with fencedWrites := w.fencedWrites + 1 }) s
      else setWindow port (fun w => grantLine line grant
        { w with mem := writeLine line data enables w.mem,
                 poisoned := if full then w.poisoned.filter (fun l => l != line) else w.poisoned }) s))

/-- CXL_IO_BAR2_REQUEST (R377): Unsupported Request. -/
def execCxlIoBar2Request (port : Nat) (_offset : Nat) (s : State) : Host.Outcome State Fault Refusal :=
  finish s (if hostUp s port 0 then emit (.unsupportedRequest port) s else s)

/-- T2 granules of 512 bytes in a window granule with its directory: 1 GiB and 4 MiB (R378). -/
def windowCost : Nat := 2097152 + 8192

/-- Step 4 of Table 13.11, once no fenced line is cached: the granules return to T2 and the command replies. -/
def fenceDone (port : Nat) (s : State) : State :=
  let w := findWindow s port
  match w.fenceFrom with
  | none => s
  | some n =>
    if w.lines.any fun l => lineFenced w l.1 then s
    else
      let back := (w.granules - n) * windowCost
      let limit := n * granuleLines
      let s1 := setWindow port (fun w => { w with
        granules := n, fenceFrom := none, mem := w.mem.filter (fun c => decide (c.1 < 64 * limit)),
        poisoned := w.poisoned.filter (fun l => decide (l < limit)), waitSlot := none }) s
      let s2 := commitRecord (fun c => { c with windows := c.windows.set port n })
        { s1 with tiers := { s1.tiers with t2Total := s1.tiers.t2Total + back, t2Free := s1.tiers.t2Free + back } }
      match w.waitSlot.bind (findCmd s2) with
      | none => s2
      | some c => done c (BitVec.ofNat 32 n) 0 s2

/-- BIRSP (R380): the host holds no copy of the line. -/
def execBirsp (port : Nat) (line : Nat) (s : State) : Host.Outcome State Fault Refusal :=
  finish s (goOn (fenceDone port (setWindow port (grantLine line .inv) s)))

/-- FENCE_TIMEOUT (Table 13.11, step 3): counted, and the line is set to I. -/
def execFenceTimeout (port : Nat) (line : Nat) (s : State) : Host.Outcome State Fault Refusal :=
  let w := findWindow s port
  finish s (if lineFenced w line && w.lines.any (fun l => l.1 == line) then
      goOn (fenceDone port (setWindow port (fun w => grantLine line .inv { w with fenceTimeouts := w.fenceTimeouts + 1 }) s))
    else s)

/-! ## The memory device mailbox (R383) -/

/-- Whether a port's PF has the mailbox (Table 13.2). [PRESUMED, log 87] -/
def mailboxServed (s : State) (port : Nat) : Bool := barServed s port 0 && (findWindow s port).cxl

/-- Sends an answer of the mailbox. -/
def mailboxAnswer (port : Nat) (o : Output) (s : State) : State := if mailboxServed s port then emit o s else s

/-- The mailbox's opcodes (CXL 3.1). [PRESUMED, log 87] -/
def answerMailbox (port opcode : Nat) (s : State) : State :=
  let w := findWindow s port
  mailboxAnswer port (.mailbox port opcode w.granules w.eventRecords) s

/-- GET_POISON_LIST. -/
def execGetPoisonList (port : Nat) (s : State) : Host.Outcome State Fault Refusal :=
  finish s (mailboxAnswer port (.poisonList port (findWindow s port).poisoned) s)

/-- IDENTIFY_MEMORY_DEVICE. -/
def execIdentifyMemoryDevice (port : Nat) (s : State) : Host.Outcome State Fault Refusal := finish s (answerMailbox port 0x4000 s)

/-- GET_PARTITION_INFO. -/
def execGetPartitionInfo (port : Nat) (s : State) : Host.Outcome State Fault Refusal := finish s (answerMailbox port 0x4100 s)

/-- GET_HEALTH_INFO. -/
def execGetHealthInfo (port : Nat) (s : State) : Host.Outcome State Fault Refusal := finish s (answerMailbox port 0x4200 s)

/-- GET_EVENT_RECORDS. -/
def execGetEventRecords (port : Nat) (s : State) : Host.Outcome State Fault Refusal := finish s (answerMailbox port 0x0100 s)

/-- CLEAR_EVENT_RECORDS. -/
def execClearEventRecords (port : Nat) (s : State) : Host.Outcome State Fault Refusal :=
  finish s (if mailboxServed s port then answerMailbox port 0x0101 (setWindow port (fun w => { w with eventRecords := 0 }) s) else s)

/-- MAILBOX_UNSUPPORTED. [PRESUMED, log 87] -/
def execMailboxUnsupported (port : Nat) (opcode : U16) (s : State) : Host.Outcome State Fault Refusal :=
  finish s (mailboxAnswer port (.mailboxUnsupported port opcode) s)

end Sys2Proof.Machine
end

