-- ==== Sys2Proof/Machine/MgmtOps.lean ====
section
/-! DEFINITION. What the management commands share: maintenance order (R488), measurements (R407), firmware images and the boot
record (R418, R419, R474), port resets (R313, R358), and the device counters (R491). -/
namespace Sys2Proof.Machine

/-! ## Maintenance commands (R488) -/

/-- Whether a command is a maintenance command. -/
def isMaintenance : Instr → Bool
  | .fwStage .. => true
  | .fwActivate .. => true
  | .deviceResetCompute .. => true
  | .deviceResetFull .. => true
  | .deviceResetPort .. => true
  | .tenantRegister .. => true
  | .tenantRemove .. => true
  | .debugUnlock .. => true
  | .spareMapRetire .. => true
  | _ => false

/-- Runs a maintenance command once every one accepted before it has replied. -/
def inTurn (c : Cmd) (k : State → State) (s : State) : State :=
  if s.jobs.cmds.any fun d => isMaintenance d.instr && decide (d.acceptSlate < c.acceptSlate) then park c.slot .maintenance s else k s

/-! ## Registry entries (Table 18.3) -/

/-- Changes a tenant's entry. -/
def withTenant (t : Nat) (f : Registry → Registry) (c : ConfigRecord) : ConfigRecord :=
  { c with tenants := updWhere (fun x => x.tenant == t) f c.tenants }

/-- Quotas without a limit (R312). -/
def noQuotas : Quotas :=
  { ingestBytes := BitVec.allOnes 64, t3WriteBytes := BitVec.allOnes 64, attendUnits := BitVec.allOnes 32,
    commandsInFlight := BitVec.allOnes 32, pins := BitVec.allOnes 32, jobPinLimit := BitVec.allOnes 32, openJobs := BitVec.allOnes 16 }

/-- The entry that a first registration creates (R312): its generation is still 0. -/
def freshEntry (t : Nat) : Registry :=
  { tenant := t, policy := 0, registered := false, withdrawn := false, regGen := 0, keyDigest := 0, quotas := noQuotas,
    livePolicy := 0, liveQuotas := noQuotas }

/-- The record with an entry for the tenant, in increasing tenant ID. -/
def addTenant (t : Nat) (c : ConfigRecord) : ConfigRecord :=
  if c.tenants.any fun x => x.tenant == t then c
  else { c with tenants := insertBy (fun a b => decide (a.tenant < b.tenant)) (freshEntry t) c.tenants }

/-! ## The boot record (Table 17.6, R474) -/

/-- The current copy: the valid one with the higher BR_SEQ. -/
def currentRecord (b : Boot) : Option BootRecord :=
  match b.record0.valid, b.record1.valid with
  | true, true => some (if b.record0.seq < b.record1.seq then b.record1 else b.record0)
  | true, false => some b.record0
  | false, true => some b.record1
  | false, false => none

/-- The active slot: A when neither copy is valid. -/
def activeSlot (b : Boot) : Nat := ((currentRecord b).map (·.active)).getD 0
def inactiveSlot (b : Boot) : Nat := 1 - activeSlot b

/-- Writes the boot record: the copy that is not current is erased and programmed. -/
def writeBootRecord (active : Nat) (fallback : Bool) (b : Boot) : Boot :=
  let r : BootRecord := { valid := true, seq := (((currentRecord b).map (·.seq)).getD 0 + 1) % 2 ^ 32, active := active, fallback := fallback }
  if currentRecord b == some b.record0 && b.record0.valid then { b with record1 := r } else { b with record0 := r }

/-- An image slot's content, and its change. -/
def slotImage (b : Boot) (n : Nat) : Option Image := if n == 0 then b.slotA.image else b.slotB.image
def withSlot (n : Nat) (i : Option Image) (b : Boot) : Boot :=
  if n == 0 then { b with slotA := { image := i } } else { b with slotB := { image := i } }

/-! ## Firmware images (R418, Table 14.14) -/

/-- The largest image: a slot's size (R473). -/
def slotBytes : Nat := 31457280

/-- Format, reserved fields and ranges of Table 14.14. [DEDUCED, log 92] -/
def imageForm (i : Image) : Bool := i.format == 1 && i.reservedZero && decide (i.rollbackLevel ≤ 64) && decide (i.length ≤ slotBytes)

/-- The first check of R418 that an image fails, in its order. [DEDUCED, log 92] -/
def imageFailure (fuses : Nat) (i : Image) : Option Status :=
  if !i.signerOk || !i.signatureOk then some .integrity
  else if i.rollbackLevel < fuses then some .denied
  else if !i.bodyTagOk then some .integrity
  else none

/-- Whether a slot holds a valid image. -/
def slotValid (b : Boot) (n : Nat) : Bool := ((slotImage b n).map fun i => imageForm i && (imageFailure b.fuses i).isNone).getD false

/-! ## Measurements (Table 14.8) -/

/-- The image whose measurements are registers 2 and 3: the one that runs, or the active slot's before any runs.
[DEDUCED, log 92] -/
def measuredImage (s : State) : Option Image := slotImage s.boot (s.boot.running.getD (activeSlot s.boot))

/-- One snapshot of the eight registers (R408). -/
def measurementsOf (s : State) : Measurements :=
  { rom := Config.romDigest, loader := ((measuredImage s).map (·.loaderDigest)).getD 0,
    firmware := ((measuredImage s).map (·.imageDigest)).getD 0, config := shaDigest (recordBytes s.cfg),
    fuses := Config.fuseDigest s.boot.fuses, staged := (s.boot.staged.map (·.2)).getD 0,
    spareMap := shaDigest (s.faults.spareMap.flatMap spareBytes),
    resetGen := s.sec.resetGen }

/-- Whether a report cannot be built now (R410): a reset, an activation or a hold-up flush is in progress. -/
def reportsRefused (s : State) : Bool := s.sec.transition || s.power.flushing.isSome

/-! ## Port resets (R313, R358, Table 10.17) -/

/-- Position of a port's block in the record. -/
def portIndex (kind port : Nat) : Nat := if kind == 1 then port else if kind == 2 then 4 + port else if kind == 3 then 6 + port else 10

/-- Whether PORT_KIND and PORT name a port. -/
def portExists (kind port : Nat) : Bool :=
  (kind == 1 && decide (port < 4)) || (kind == 2 && decide (port < 2)) || (kind == 3 && decide (port < 4)) || (kind == 4 && port == 0)

/-- A port's PORT_CONFIG block. -/
def portCfg (s : State) (kind port : Nat) : PortCfg := (s.cfg.ports[portIndex kind port]?).getD defaultPort

/-- Whether a MODE has a logical port (Table 12.1). -/
def modeHas (mode n : Nat) : Bool := if mode == 0 then n % 4 == 0 else if mode == 1 then n % 2 == 0 else true

/-- The logical ports of a physical port as its MODE has them; those that it no longer has lose their addresses.
[DEDUCED, log 99] -/
def applyMode (port : Nat) (s : State) : State :=
  let mode := (portCfg s 1 port).mode
  let ls := updWhere (fun l : LogicalPort => l.num / 4 == port)
    (fun l => if modeHas mode l.num then { l with present := true } else { l with present := false, up := false, ipv4 := none, ipv6 := [] })
    s.net.lports
  { s with net := { s.net with lports := ls } }

/-- An Ethernet port's reset: its links go down and every queue pair of its logical ports enters the error state.
[DEDUCED, log 99] -/
def resetEth (port why : Nat) (s : State) : State :=
  let ups := s.net.lports.filter fun l => l.num / 4 == port && l.up
  let ls := updWhere (fun l : LogicalPort => l.num / 4 == port) (fun l => { l with up := false }) s.net.lports
  let es := updWhere (fun e : EthPort => e.num == port) (fun e => { e with rxBytes := 0, xoff := false, paused := [] }) s.net.eports
  let s1 := ups.foldl (fun s l => portDown 1 l.num why s) { s with net := { s.net with lports := ls, eports := es } }
  (s1.net.qps.filter fun q => q.lport / 4 == port).foldl (fun s q => qpError (qpnOf q) 6 s) s1

/-- The management port's reset: its link goes down and its sessions end (R487). -/
def resetMgmt (why : Nat) (s : State) : State :=
  let s1 := if s.mgmt.linkUp then portDown 4 0 why s else s
  { s1 with mgmt := { s1.mgmt with linkUp := false, sessions := [] } }

/-- A port reset: `why` is EV_PORT_DOWN's ARG_A, 2 for ADMIN_DOWN and 3 otherwise. -/
def resetPort (kind port why : Nat) (s : State) : State :=
  goOn (match kind with
    | 1 => applyMode port (resetEth port why s)
    | 2 => loseLink port 1 why (loseLink port 0 why s)
    | 3 => setSplice port (fun p => { p with phy := false }) (spliceDown port why s)
    | _ => resetMgmt why s)

/-! ## Device counters (Table 18.5) -/

/-- Counters with consecutive IDs. -/
def consecutive : Nat → List Nat → List CounterRec
  | _, [] => []
  | id, v :: vs => { id := id, value := v } :: consecutive (id + 1) vs

/-- A signed value as it is carried. -/
def signedWord (x : Int) : Nat := (BitVec.ofInt 64 x).toNat

/-- The counters 0x0401 to 0x0407 (R479). -/
def bootCounters (s : State) : List CounterRec :=
  consecutive 0x0401 [s.power.lastResetCause, s.power.fullChipStarts, s.power.stopCause, s.power.throttleWindows,
    s.power.holdupFlushes, deviceState s, s.sec.resetGen]

/-- Counters 1 to 15 of the logical ports, CONTEXTS_PINNED as it stands. -/
def portCounters (s : State) : List CounterRec :=
  s.net.lports.flatMap fun l =>
    let pinned := (s.net.qps.filter fun q => q.pinnedInCache && q.lport == l.num).length
    (List.range 15).map fun i => { id := 0x1000 + 16 * (i + 1) + l.num, value := if i == 14 then pinned else (l.counters[i]?).getD 0 }

/-- The window counters of the host ports. -/
def windowCounters (s : State) : List CounterRec :=
  s.host.windows.flatMap fun w =>
    [{ id := 0x0610 + w.port, value := w.misses }, { id := 0x0620 + w.port, value := w.fencedWrites },
     { id := 0x0630 + w.port, value := w.fenceTimeouts }]

/-- Every device counter as it stands. -/
def deviceCounters (s : State) : List CounterRec :=
  consecutive 0x0201 ((s.persist.flashCounters.set 7 (spareBlocksLeft s)).set 8 s.persist.deadDies.length)
    ++ [{ id := 0x020A, value := signedWord s.persist.credit }, { id := 0x020B, value := s.persist.theta }]
    ++ consecutive 0x0301 (s.faults.counters.set 16 s.clk.overwritten) ++ bootCounters s
    ++ consecutive 0x0501 [s.tiers.dirtyT1, s.tiers.dirtyT2, s.tiers.t1Free, s.tiers.t2Free] ++ windowCounters s
    ++ consecutive 0x0701 s.splice.counters ++ portCounters s

/-! ## Job and tenant counters (Tables 10.13, 11.7) -/

/-- The job set. -/
def jobCounterRecs (k : JobCounters) : List CounterRec :=
  consecutive 0x0001 [k.commandsAccepted, k.commandsFailed, k.authFailures, k.busyReplies, k.lateLayers, k.rawLayers,
    k.cueDiscards, k.ingestDuplicates, k.ingestRejects, k.slotDiscards, k.codecSaturations, k.overflowRows]

/-- The tenant set, from the tenant's use and the counts held now. -/
def tenantCounterRecs (s : State) (u : TenantUse) : List CounterRec :=
  consecutive 0x0101 [u.ingestBytes, u.t3Bytes, u.attendUnits, tenantCommands s u.tenant, tenantPins s u.tenant,
    tenantJobs s u.tenant, u.refusals, u.parks]

end Sys2Proof.Machine
end

