-- ==== Sys2Proof/Machine/Security.lean ====
section
/-! DEFINITION. The root of trust as callers see it (chapter "Keys, attestation and confidential operation"): ATTEST, SPDM over
DOE, DEBUG_UNLOCK and the TAP. -/
namespace Sys2Proof.Machine

/-! ## ATTEST (R408 to R410, Tables 14.9, 14.10) -/

/-- AT_FLAGS. -/
def atJobClaims (a : AttestParams) : Bool := bitOf a.atFlags.toNat 0
def atCertChain (a : AttestParams) : Bool := bitOf a.atFlags.toNat 1

/-- Bytes of the whole output. -/
def attestLen (a : AttestParams) : Nat := 1456 + (if atCertChain a then Config.certChainLen else 0)

/-- The variant lines of a job's model. -/
def variantLines (s : State) (j : Job) : List ReportVariant :=
  (s.persist.variants.filter fun e => e.tenant == j.tenant && e.desc.modelId == j.modelId).map fun e =>
    let p := s.eng.profiles.find? fun p => p.tenant == j.tenant && p.desc.modelId == j.modelId && p.variant == e.variant && !p.unloading
    { variant := e.variant, kCodec := e.desc.kCodec.toNat, vCodec := e.desc.vCodec.toNat, loaded := p.isSome,
      lost := (p.map (·.lost)).getD false, weightsDigest := e.desc.weightsDigest }

/-- The job claims of a report. -/
def claimsOf (s : State) (j : Job) : JobClaims :=
  { tenant := j.tenant, debugConsent := j.debugConsent, rawFallback := j.rawFallback, classDefault := j.clsDefault,
    regGen := regGenOf s j.tenant, jobHandle := BitVec.ofNat 32 (jobHandle j), modelId := j.modelId, scopes := j.scopes,
    variants := variantLines s j }

/-- The report of one snapshot event. [DESIGN CHOICE, log 91] -/
def reportOf (s : State) (a : AttestParams) (job : Option Job) : AttReport :=
  { stagedFlag := (measurementsOf s).staged != 0, debugUnlocked := s.cfg.debugState != 0, slate := s.clk.slate,
    callerNonce := a.callerNonce, measurements := measurementsOf s, claims := if atJobClaims a then job.map (claimsOf s) else none,
    certChain := atCertChain a }

/-- ATTEST's run: the snapshot is an event of its own, before the reply's. [DESIGN CHOICE, log 91] -/
def runAttest (p : Packet) (a : AttestParams) (c : Cmd) (s : State) : State :=
  if !formOk p 0x28 [kindReplyPayload] (a.reserved21 == 0 && bitsOf a.atFlags.toNat 2 6 == 0) then fail c .badParam s
  else if reportsRefused s then fail c .transition s
  else if atJobClaims a && p.path == .mgmt then fail c .badParam s
  else if c.payloadCap.getD 0 < 32 + attestLen a then fail c .badParam s
  else
    let s1 := tick s
    completeWith c (attestLen a) (attestLen a) 1 (.report (reportOf s1 a (jobOf s1 c))) noFlags (BitVec.ofNat 32 (attestLen a))
      (BitVec.ofNat 64 s1.sec.resetGen) s1

/-- ATTEST (0x0801). -/
def execAttest (p : Packet) (a : AttestParams) (s : State) : Host.Outcome State Fault Refusal :=
  finish s (command (.attest p a) (opBoth 0x0801) p atOnce (runAttest p a) s)

/-! ## SPDM over DOE (R376, Table 14.7) -/

/-- Answers a DOE request of a port whose PF is served. -/
def doeAnswer (port : Nat) (o : Output) (s : State) : State := if barServed s port 0 then emit o s else s

/-- DOE_DISCOVERY: protocol 0 is Discovery itself, protocol 1 is SPDM; no other index names one (PCIe 6.2). [PRESUMED, log 94] -/
def execDoeDiscovery (port : Nat) (index : Byte) (s : State) : Host.Outcome State Fault Refusal :=
  finish s (doeAnswer port (if index == 0 then .doeDiscovery port index 1 0 1 else if index == 1 then .doeDiscovery port index 1 1 0
    else .doeDiscovery port index 0xFFFF 0xFF 0) s)

/-- GET_VERSION: SPDM 1.3. [PRESUMED, log 94] -/
def execGetVersion (port : Nat) (s : State) : Host.Outcome State Fault Refusal := finish s (doeAnswer port (.spdmVersion port) s)

/-- GET_CAPABILITIES: CERT_CAP, CHAL_CAP and MEAS_CAP 2. [PRESUMED, log 94] -/
def execGetCapabilities (port : Nat) (s : State) : Host.Outcome State Fault Refusal :=
  finish s (doeAnswer port (.spdmCapabilities port) s)

/-- NEGOTIATE_ALGORITHMS: RSAPSS-4096 and SHA-512 when the requester offers them, else none. [PRESUMED, log 94] -/
def execNegotiateAlgorithms (port : Nat) (offersSupported : Bool) (s : State) : Host.Outcome State Fault Refusal :=
  finish s (doeAnswer port (.spdmAlgorithms port offersSupported) s)

/-- GET_DIGESTS: slot 0's. -/
def execGetDigests (port : Nat) (s : State) : Host.Outcome State Fault Refusal := finish s (doeAnswer port (.spdmDigests port) s)

/-- SPDM's error codes InvalidRequest and Busy. -/
def spdmInvalid : Nat := 0x01
/-- [PRESUMED, log 94] -/
def spdmBusy : Nat := 0x03

/-- GET_CERTIFICATE: only slot 0 is supported. [UNVERIFIED, log 144] -/
def execGetCertificate (port : Nat) (slot offset len : Nat) (s : State) : Host.Outcome State Fault Refusal :=
  finish s (doeAnswer port (if slot == 0 then .spdmCertificate port slot offset len else .spdmError port spdmInvalid) s)

/-- CHALLENGE: a signed answer over a snapshot of the measurements. [PRESUMED, log 94] -/
def execChallenge (port : Nat) (slot : Nat) (nonce : BitVec 256) (s : State) : Host.Outcome State Fault Refusal :=
  finish s (doeAnswer port (if slot != 0 then .spdmError port spdmInvalid
    else if reportsRefused s then .spdmError port spdmBusy
    else .spdmChallenge port nonce (measurementsOf s)) s)

/-- GET_MEASUREMENTS: index 0 asks for their number, 0xFF for all, 1 to 8 for one (R407); Busy while ATTEST is refused.
[PRESUMED, log 94] -/
def execGetMeasurements (port : Nat) (index : Nat) (nonce : BitVec 256) (s : State) : Host.Outcome State Fault Refusal :=
  finish s (doeAnswer port (if reportsRefused s then .spdmError port spdmBusy
    else if index ≤ 8 || index == 0xFF then .spdmMeasurements port index nonce (measurementsOf s)
    else .spdmError port spdmInvalid) s)

/-! ## DEBUG_UNLOCK (R415) -/

/-- The first check that a debug token fails, in R415's order. -/
def tokenFailure (s : State) (a : DebugUnlockParams) : Option Status :=
  if a.tokenLen.toNat != 1152 || a.token.tokenFormat != 1 || bitsOf a.token.debugScope.toNat 2 14 != 0 || !a.token.reservedZero then
    some .badParam
  else if !a.token.authorityOk || !a.token.signatureOk then some .integrity
  else if a.token.resetGen.toNat != s.sec.resetGen then some .keyStale
  else if !a.token.deviceIdOk || s.jobs.table.any (fun j => !j.debugConsent) then some .denied
  else none

/-- DEBUG_UNLOCK's run, in its turn. [DEDUCED, log 104] -/
def runDebugUnlock (p : Packet) (a : DebugUnlockParams) (c : Cmd) (s : State) : State :=
  inTurn c (fun s =>
    if !formOk p 1160 [] (a.reserved02 == 0) then fail c .badParam s
    else if s.sec.transition then fail c .transition s
    else match tokenFailure s a with
      | some st => fail c st s
      | none => done c 0 0 (commitRecord (fun r => { r with debugState := r.debugState ||| a.token.debugScope.toNat }) s)) s

/-- DEBUG_UNLOCK (0x0A0D). -/
def execDebugUnlock (p : Packet) (a : DebugUnlockParams) (s : State) : Host.Outcome State Fault Refusal :=
  finish s (command (.debugUnlock p a) (opMgmt 0x0A0D false) p atOnce (runDebugUnlock p a) s)

/-! ## The TAP (R417) -/

/-- Loads a TAP instruction. The instruction register holds what was loaded; what the TAP executes is `tapActs`.
[DEDUCED, log 105] -/
def loadTap (t : TapInstr) (s : State) : State := { s with sec := { s.sec with tap := t } }

/-- IDCODE. [UNVERIFIED, log 106] -/
def execIdcode (s : State) : Host.Outcome State Fault Refusal :=
  finish s (emit (.idcodeRead Config.idcode) { s with sec := { s.sec with tap := .idcode } })

/-- BYPASS. -/
def execBypass (s : State) : Host.Outcome State Fault Refusal := finish s { s with sec := { s.sec with tap := .bypass } }

/-- SAMPLE/PRELOAD. -/
def execSamplePreload (s : State) : Host.Outcome State Fault Refusal := finish s (loadTap .samplePreload s)

/-- EXTEST. -/
def execExtest (s : State) : Host.Outcome State Fault Refusal := finish s (loadTap .extest s)

/-- INTEST. -/
def execIntest (s : State) : Host.Outcome State Fault Refusal := finish s (loadTap .intest s)

/-- CLAMP. -/
def execClamp (s : State) : Host.Outcome State Fault Refusal := finish s (loadTap .clamp s)

/-- HIGHZ. -/
def execHighz (s : State) : Host.Outcome State Fault Refusal := finish s (loadTap .highz s)

end Sys2Proof.Machine
end

