-- ==== Sys2Proof/Machine/Manage.lean ====
section
/-! DEFINITION. The management commands (chapter "Command set", "Management-only opcodes", and chapter "Management port and
firmware update"), with STATS_READ and EVENTS_READ. -/
namespace Sys2Proof.Machine

/-! ## STATS_READ (R309, R491, R492) -/

/-- Whether the packet's session is one of R486. -/
def onProvisional (s : State) (p : Packet) : Bool := ((sessionOf s p).map (·.provisional)).getD false

/-- The device set as a session sees it: in R486's sessions only 0x0401 to 0x0407. [DESIGN CHOICE, log 41] -/
def deviceSet (s : State) (p : Packet) : List CounterRec :=
  if onProvisional s p then s.clk.stats.filter fun r => decide (0x0401 ≤ r.id) && decide (r.id ≤ 0x0407) else s.clk.stats

/-- The profiling counters of a consenting job while TRACE is unlocked (R492). [DESIGN CHOICE, log 141] -/
def profilingSet (s : State) (j : Job) : List CounterRec :=
  if bitOf s.cfg.debugState 1 && j.debugConsent then
    (List.range 8).map fun i => { id := 0x0801 + i, value := Config.profileValue s.free i }
  else []

/-- The tenant set of the last closed window. -/
def tenantSet (s : State) (t : Nat) : List CounterRec :=
  let l := (useOf s t).snapshot
  if l.isEmpty then consecutive 0x0101 (List.replicate 8 0) else l

/-- The counters of a SET on a path; `none` is ST_DENIED. [DESIGN CHOICE, log 41] -/
def statsSet (s : State) (p : Packet) (job : Option Job) (set : Byte) : Option (List CounterRec) :=
  match job with
  | none => if set == 2 then some (deviceSet s p) else none
  | some j =>
    if set == 0 then some (jobCounterRecs j.snapshot ++ profilingSet s j)
    else if set == 1 then some (tenantSet s j.tenant)
    else none

/-- STATS_READ's run. [DESIGN CHOICE, log 41] -/
def runStatsRead (p : Packet) (a : StatsParams) (c : Cmd) (s : State) : State :=
  if !formOk p 8 [kindReplyPayload] (a.reserved01 == 0) then fail c .badParam s
  else match statsSet s p (jobOf s c) a.set with
    | none => fail c .denied s
    | some rs => completeWith c (16 + 16 * rs.length) 16 16 (.stats (s.clk.window - 1) rs) noFlags (BitVec.ofNat 32 rs.length) 0
        { s with free := s.free + 1 }

/-- STATS_READ (0x0901). -/
def execStatsRead (p : Packet) (a : StatsParams) (s : State) : Host.Outcome State Fault Refusal :=
  finish s (command (.statsRead p a) (opBoth 0x0901) p atOnce (runStatsRead p a) s)

/-! ## EVENTS_READ (R310) -/

/-- Whether a job sees an event record. -/
def jobSees (j : Job) (e : EventRec) : Bool :=
  e.code == 0x0001 || e.code == 0x0002 || e.code == 0x0006 || e.code == 0x0007
    || (e.code == 0x0003 && e.argB == Int.ofNat (jobHandle j)) || (e.code == 0x0009 && e.tenant == j.tenant)

/-- The records that a caller is given. -/
def eventsFor (s : State) (job : Option Job) (a : EventsParams) : List EventRec :=
  ((s.clk.events.filter fun e => decide (a.fromSlate.toNat ≤ e.slate) && (job.map fun j => jobSees j e).getD true)).take a.maxRecords.toNat

/-- How many whole entries of 16 or 32 bytes a command's buffer takes after a head of 16 bytes (R296). -/
def entriesFit (c : Cmd) (n entry : Nat) : Nat := ((c.payloadCap.map fun cap => min n ((cap - 48) / max entry 1)).getD 0)

/-- EVENTS_READ's run. [UNVERIFIED, log 93] -/
def runEventsRead (p : Packet) (a : EventsParams) (c : Cmd) (s : State) : State :=
  if !formOk p 16 [kindReplyPayload] (a.reserved0A == 0) || a.maxRecords == 0 || 4096 < a.maxRecords.toNat then fail c .badParam s
  else
    let es := eventsFor s (jobOf s c) a
    let low : U64 := ((s.clk.events.head?).map fun e => BitVec.ofNat 64 e.slate).getD (Config.emptyRingSlate s.free)
    completeWith c (16 + 32 * es.length) 16 32 (.events es) noFlags (BitVec.ofNat 32 (entriesFit c es.length 32)) low
      { s with free := s.free + 1 }

/-- EVENTS_READ (0x0902). -/
def execEventsRead (p : Packet) (a : EventsParams) (s : State) : Host.Outcome State Fault Refusal :=
  finish s (command (.eventsRead p a) (opBoth 0x0902) p atOnce (runEventsRead p a) s)

/-! ## HOST_WINDOW_SET (R311, R379, R381, Table 13.11) -/

/-- The smallest T2 page pool, 128 GiB, in granules. [DEDUCED, log 96] -/
def minT2Pool : Nat := 268435456

/-- Evicts from T2, in the order of R174, until `need` granules are free or coming free. [DEDUCED, log 96] -/
def makeT2Room (need : Nat) (s : State) : State :=
  let ns := offered s fun n => !n.dying && n.groups.any fun g => g.t2.isSome
  updateMark (ns.foldl (fun s n => if need ≤ s.tiers.t2Free + comingFree s .t2 then s else evictVictim n.ptr s) s)

/-- A larger window: its granules leave the T2 page pool, zeroed, and are backed at the reply. [DEDUCED, log 96] -/
def growWindow (c : Cmd) (port n : Nat) (s : State) : State :=
  let cost := (n - (findWindow s port).granules) * windowCost
  if s.tiers.t2Total < minT2Pool + cost then fail c .noSpace (setWindow port (fun w => { w with waitSlot := none }) s)
  else
    let s1 := if s.tiers.t2Free < cost then makeT2Room cost s else s
    if s1.tiers.t2Free < cost then park c.slot .windowBusy (setWindow port (fun w => { w with waitSlot := some c.slot }) s1)
    else
      let s2 := { s1 with tiers := { s1.tiers with t2Total := s1.tiers.t2Total - cost, t2Free := s1.tiers.t2Free - cost } }
      let s3 := setWindow port (fun w => { w with granules := n, waitSlot := none }) (updateMark s2)
      done c (BitVec.ofNat 32 n) 0 (commitRecord (fun r => { r with windows := r.windows.set port n }) s3)

/-- A smaller window: the fence event, and a BISnpInv for every fenced line that the host may hold. -/
def shrinkWindow (c : Cmd) (port n : Nat) (s : State) : State :=
  let s1 := park c.slot .fencing (setWindow port (fun w => { w with fenceFrom := some n, waitSlot := some c.slot }) (tick s))
  let held := ((findWindow s1 port).lines.filter fun l => lineFenced (findWindow s1 port) l.1).map (·.1)
  fenceDone port (held.foldl (fun s l => emit (.bisnpInv port l) s) s1)

/-- HOST_WINDOW_SET's run; a second one for the port waits for the first. [DEDUCED, log 96] -/
def runHostWindowSet (p : Packet) (a : HostWindowParams) (c : Cmd) (s : State) : State :=
  let port := a.port.toNat
  let n := a.granules.toNat
  if !formOk p 16 [] (a.reserved01 == 0 && a.reserved08 == 0) || 1 < port || 2048 < n then fail c .badParam s
  else
    let w := findWindow s port
    if w.waitSlot.isSome && w.waitSlot != some c.slot then park c.slot .windowBusy s
    else if w.fenceFrom.isSome then fenceDone port s
    else if w.granules < n then growWindow c port n s
    else if n < w.granules then shrinkWindow c port n s
    else done c (BitVec.ofNat 32 n) 0 s

/-- HOST_WINDOW_SET (0x0A01). -/
def execHostWindowSet (p : Packet) (a : HostWindowParams) (s : State) : Host.Outcome State Fault Refusal :=
  finish s (command (.hostWindowSet p a) (opMgmt 0x0A01 false) p atOnce (runHostWindowSet p a) s)

/-! ## Quotas, classes, the wear budget (R312, R314, R325) -/

/-- Whether a tenant ID is in range (R26). -/
def tenantIdOk (t : Nat) : Bool := decide (1 ≤ t) && decide (t ≤ 4095)

/-- TENANT_QUOTA_SET's ranges (Table 10.14). -/
def quotaForm (a : QuotaSetParams) : Bool :=
  a.reserved02 == 0 && a.reserved2A == 0 && tenantIdOk a.tenant.toNat
    && (a.quotas.jobPinLimit == BitVec.allOnes 32 || decide (a.quotas.jobPinLimit.toNat ≤ 16777215))

/-- TENANT_QUOTA_SET's run: recorded now, in force from the next cut marker. -/
def runTenantQuotaSet (p : Packet) (a : QuotaSetParams) (c : Cmd) (s : State) : State :=
  if !formOk p 0x30 [] (quotaForm a) || (findTenant s a.tenant.toNat).isNone then fail c .badParam s
  else done c 0 0 (commitRecord (withTenant a.tenant.toNat fun t => { t with quotas := a.quotas }) s)

/-- TENANT_QUOTA_SET (0x0A02). -/
def execTenantQuotaSet (p : Packet) (a : QuotaSetParams) (s : State) : Host.Outcome State Fault Refusal :=
  finish s (command (.tenantQuotaSet p a) (opMgmt 0x0A02 false) p atOnce (runTenantQuotaSet p a) s)

/-- CLASS_SET's ranges (R312, R325). -/
def classForm (a : ClassSetParams) : Bool :=
  a.reserved05 == 0 && decide (a.tenant.toNat ≤ 4095) && decide (a.classPolicy.toNat ≤ 2)
    && (if a.tenant == 0 then
        a.classPolicy == 0 && decide (a.beFloor.toNat ≤ 20) && decide (10 ≤ a.lcReserve.toNat) && decide (a.lcReserve.toNat ≤ 50)
        else a.beFloor == 0 && a.lcReserve == 0)

/-- CLASS_SET's run: recorded now, in force from the next cut marker (R321). -/
def runClassSet (p : Packet) (a : ClassSetParams) (c : Cmd) (s : State) : State :=
  if !formOk p 8 [] (classForm a) || (a.tenant != 0 && (findTenant s a.tenant.toNat).isNone) then fail c .badParam s
  else if a.tenant == 0 then
    done c 0 0 (commitRecord (fun r => { r with beFloor := a.beFloor.toNat, lcReserve := a.lcReserve.toNat }) s)
  else done c 0 0 (commitRecord (withTenant a.tenant.toNat fun t => { t with policy := a.classPolicy.toNat }) s)

/-- CLASS_SET (0x0A03). -/
def execClassSet (p : Packet) (a : ClassSetParams) (s : State) : Host.Outcome State Fault Refusal :=
  finish s (command (.classSet p a) (opMgmt 0x0A03 false) p atOnce (runClassSet p a) s)

/-- WEAR_BUDGET_SET's run: in force from the next cut marker. -/
def runWearBudgetSet (p : Packet) (a : WearBudgetParams) (c : Cmd) (s : State) : State :=
  if !formOk p 8 [] true then fail c .badParam s
  else done c 0 0 (commitRecord (fun r => { r with dailyBudget := a.dailyBudget.toNat }) s)

/-- WEAR_BUDGET_SET (0x0A08). -/
def execWearBudgetSet (p : Packet) (a : WearBudgetParams) (s : State) : Host.Outcome State Fault Refusal :=
  finish s (command (.wearBudgetSet p a) (opMgmt 0x0A08 false) p atOnce (runWearBudgetSet p a) s)

/-! ## SPARE_MAP (R451) -/

/-- SPARE_MAP with SM_OP 0: one snapshot of the map. -/
def runSpareMapRead (p : Packet) (a : SpareMapParams) (c : Cmd) (s : State) : State :=
  if !formOk p 16 [kindReplyPayload] (a.reserved02 == 0 && a.reserved08 == 0 && a.unitKind == 0 && a.unit == 0) then fail c .badParam s
  else
    let ls := s.faults.spareMap
    completeWith c (16 + 16 * ls.length) 16 16 (.spareMap ((List.range 5).map fun k => sparesLeft s (k + 1)) ls) noFlags
      (BitVec.ofNat 32 (entriesFit c ls.length 16)) 0 s

/-- SPARE_MAP_READ (0x0A04, SM_OP 0). -/
def execSpareMapRead (p : Packet) (a : SpareMapParams) (s : State) : Host.Outcome State Fault Refusal :=
  finish s (command (.spareMapRead p a) (opMgmt 0x0A04 true) p atOnce (runSpareMapRead p a) s)

/-- SPARE_MAP with SM_OP 1, in its turn: retires an active unit (R450). -/
def runSpareMapRetire (p : Packet) (a : SpareMapParams) (c : Cmd) (s : State) : State :=
  inTurn c (fun s =>
    let kind := a.unitKind.toNat
    let unit := a.unit.toNat
    if !formOk p 16 [] (a.reserved02 == 0 && a.reserved08 == 0) || kind == 0 || 5 < kind || !unitActive s kind unit then fail c .badParam s
    else
      let s1 := mapSpare kind 3 unit s
      let spare := ((s1.faults.spareMap.getLast?).bind fun l => l.spare).getD 0xFFFFFFFF
      done c (BitVec.ofNat 32 spare) (BitVec.ofNat 64 (sparesLeft s1 kind)) s1) s

/-- SPARE_MAP_RETIRE (0x0A04, SM_OP 1). -/
def execSpareMapRetire (p : Packet) (a : SpareMapParams) (s : State) : Host.Outcome State Fault Refusal :=
  finish s (command (.spareMapRetire p a) (opMgmt 0x0A04 false) p atOnce (runSpareMapRetire p a) s)

/-! ## Firmware (R493, R494, R418) -/

/-- FW_STAGE's run, in its turn: the slot that the boot record does not name is erased, written and verified. A failure leaves it
empty and measurement 6 as it was. -/
def runFwStage (p : Packet) (a : FwStageParams) (c : Cmd) (s : State) : State :=
  inTurn c (fun s =>
    if !formOk p 0x48 [kindFirmware] (a.reserved04 == 0) || slotBytes < a.imageLen.toNat || a.imageLen.toNat != descBytes kindFirmware p then
      fail c .badParam s
    else
      let n := inactiveSlot s.boot
      let s1 := { s with boot := withSlot n none s.boot }
      if a.image.imageDigest != a.imageDigest then fail c .integrity s1
      else if !imageForm a.image then fail c .badParam s1
      else match imageFailure s.boot.fuses a.image with
        | some st => fail c st s1
        | none => done c (BitVec.ofNat 32 n) 0
            { s1 with boot := { withSlot n (some a.image) s1.boot with staged := some (n, a.imageDigest) } }) s

/-- FW_STAGE (0x0A05). -/
def execFwStage (p : Packet) (a : FwStageParams) (s : State) : Host.Outcome State Fault Refusal :=
  finish s (command (.fwStage p a) (opMgmt 0x0A05 false) p atOnce (runFwStage p a) s)

/-- FW_ACTIVATE's run, in its turn: steps 1 and 2 of Table 18.7. STOP_ALL_RESTART does the rest; an activation that meets a
stop-all joins its reset (R448). [DEDUCED, log 90] -/
def runFwActivate (p : Packet) (a : FwActivateParams) (c : Cmd) (s : State) : State :=
  inTurn c (fun s =>
    if !formOk p 8 [] (a.reserved02 == 0 && bitsOf a.faFlags.toNat 1 7 == 0)
        || (s.boot.staged.map fun x => x.1 == a.slot.toNat) != some true then fail c .badParam s
    else
      let s1 := park c.slot .reset { s with sec := { s.sec with activation := some c.slot } }
      if s.sec.transition then s1 else clearCompute (setFuncEvent 4 s1)) s

/-- FW_ACTIVATE (0x0A06). -/
def execFwActivate (p : Packet) (a : FwActivateParams) (s : State) : Host.Outcome State Fault Refusal :=
  finish s (command (.fwActivate p a) (opMgmt 0x0A06 false) p atOnce (runFwActivate p a) s)

/-- Steps 3 to 6 of Table 18.7: the staged slot is verified again, fuses are blown as asked (R419), the boot record names it. -/
def finishActivation (s : State) : State :=
  match s.sec.activation.bind (findCmd s) with
  | none => s
  | some c =>
    let s1 := { s with sec := { s.sec with activation := none }, boot := { s.boot with staged := none } }
    match c.instr with
    | .fwActivate _ a =>
      let n := a.slot.toNat
      match (if slotValid s.boot n then slotImage s.boot n else none) with
      | none => fail c .integrity s1
      | some img =>
        let f := if bitOf a.faFlags.toNat 0 then max s.boot.fuses img.rollbackLevel else s.boot.fuses
        let b := writeBootRecord n false { s1.boot with fuses := f }
        done c (BitVec.ofNat 32 n) (BitVec.ofNat 64 s1.sec.resetGen) { s1 with boot := { b with running := some n } }
    | _ => s1

/-! ## PORT_CONFIG (R313, Table 10.17) -/

/-- The block that a PORT_CONFIG sets. -/
def portBlock (a : PortConfigParams) : PortCfg :=
  { mode := a.mode.toNat, adminDown := bitOf a.pcFlags.toNat 0, pfcEnable := bitOf a.pcFlags.toNat 1, ecnEnable := bitOf a.pcFlags.toNat 2,
    cxlEnable := bitOf a.pcFlags.toNat 3, priorities := a.pfcPriorities }

/-- The highest MODE of a port kind. -/
def modeLimit (kind : Nat) : Nat := if kind == 1 then 2 else if kind == 3 then 0 else 1

/-- The ranges of Table 10.17, R362 and R481: a flag that does not apply to the kind is zero. -/
def portForm (a : PortConfigParams) : Bool :=
  let kind := a.portKind.toNat
  let b := portBlock a
  portExists kind a.port.toNat && decide (b.mode ≤ modeLimit kind) && bitsOf a.pcFlags.toNat 4 4 == 0 && a.reserved05 == 0
    && (kind == 1 || (!b.pfcEnable && !b.ecnEnable)) && (kind == 2 || !b.cxlEnable) && (b.pfcEnable || b.priorities == 0)
    && !(b.cxlEnable && b.mode == 1) && !(kind == 4 && b.adminDown)

/-- PORT_CONFIG's run: a change resets the port; the management port replies first (R481). -/
def runPortConfig (p : Packet) (a : PortConfigParams) (c : Cmd) (s : State) : State :=
  let kind := a.portKind.toNat
  let port := a.port.toNat
  if !formOk p 8 [] (portForm a) then fail c .badParam s
  else if portCfg s kind port == portBlock a then done c 0 0 s
  else
    let why := if a.pcFlags.toNat % 2 == 1 then 2 else 3
    let s1 := commitRecord (fun r => { r with ports := r.ports.set (portIndex kind port) (portBlock a) }) s
    if kind == 4 then resetPort kind port why (done c 0 0 s1) else done c 0 0 (resetPort kind port why s1)

/-- PORT_CONFIG (0x0A07). -/
def execPortConfig (p : Packet) (a : PortConfigParams) (s : State) : Host.Outcome State Fault Refusal :=
  finish s (command (.portConfig p a) (opMgmt 0x0A07 false) p atOnce (runPortConfig p a) s)

/-! ## SPLICE_ROUTE_SET (Table 10.18, R422, R430) -/

/-- SPLICE_ROUTE_SET with RS_OP 0. -/
def runSpliceRouteWrite (p : Packet) (a : SpliceRouteParams) (c : Cmd) (s : State) : State :=
  if !formOk p 8 [] (a.reserved06 == 0 && bitsOf a.rsFlags.toNat 1 7 == 0) || 63 < a.entry.toNat || 3 < a.outPort.toNat then fail c .badParam s
  else
    let r : Route := { dest := a.destDevice.toNat, outPort := a.outPort.toNat, valid := bitOf a.rsFlags.toNat 0 }
    done c 0 0 (commitRecord (fun x => { x with routes := x.routes.set a.entry.toNat r }) s)

/-- SPLICE_ROUTE_WRITE (0x0A09, RS_OP 0). -/
def execSpliceRouteWrite (p : Packet) (a : SpliceRouteParams) (s : State) : Host.Outcome State Fault Refusal :=
  finish s (command (.spliceRouteWrite p a) (opMgmt 0x0A09 false) p atOnce (runSpliceRouteWrite p a) s)

/-- SPLICE_ROUTE_SET with RS_OP 1: a new device number takes every splice link down. -/
def runSpliceDeviceNumberSet (p : Packet) (a : SpliceRouteParams) (c : Cmd) (s : State) : State :=
  let n := a.destDevice.toNat
  if !formOk p 8 [] (a.reserved06 == 0 && bitsOf a.rsFlags.toNat 1 7 == 0 && a.entry == 0 && a.outPort == 0) || n == 0 || n == 0xFFFF then
    fail c .badParam s
  else if n == s.cfg.deviceNumber then done c 0 0 s
  else
    let s1 := commitRecord (fun r => { r with deviceNumber := n }) s
    done c 0 0 (bringUpAll ((List.range 4).foldl (fun s i => spliceDown i 1 s) s1))

/-- SPLICE_DEVICE_NUMBER_SET (0x0A09, RS_OP 1). -/
def execSpliceDeviceNumberSet (p : Packet) (a : SpliceRouteParams) (s : State) : Host.Outcome State Fault Refusal :=
  finish s (command (.spliceDeviceNumberSet p a) (opMgmt 0x0A09 false) p atOnce (runSpliceDeviceNumberSet p a) s)

/-! ## DEVICE_RESET (R315, R476) -/

/-- RESET_KIND 1, in its turn: the whole reset, then the reply; one that meets a stop-all joins it (R448). [DEDUCED, log 90] -/
def runDeviceResetCompute (p : Packet) (a : DeviceResetParams) (c : Cmd) (s : State) : State :=
  inTurn c (fun s =>
    if !formOk p 8 [] (a.reserved03 == 0 && a.portKind == 0 && a.port == 0) then fail c .badParam s
    else
      let s1 := { s with sec := { s.sec with resetSlots := s.sec.resetSlots ++ [c.slot] } }
      if s.sec.transition then park c.slot .reset s1 else finishCompute (clearCompute (setFuncEvent 4 s1))) s

/-- DEVICE_RESET_COMPUTE (0x0A0A, RESET_KIND 1). -/
def execDeviceResetCompute (p : Packet) (a : DeviceResetParams) (s : State) : Host.Outcome State Fault Refusal :=
  finish s (command (.deviceResetCompute p a) (opMgmt 0x0A0A false) p atOnce (runDeviceResetCompute p a) s)

/-- RESET_KIND 2, in its turn: the reply, then the reset, which opens with the hold-up flush. -/
def runDeviceResetFull (p : Packet) (a : DeviceResetParams) (c : Cmd) (s : State) : State :=
  inTurn c (fun s =>
    if !formOk p 8 [] (a.reserved03 == 0 && a.portKind == 0 && a.port == 0) then fail c .badParam s
    else flushOrReset 6 (done c 0 0 s)) s

/-- DEVICE_RESET_FULL (0x0A0A, RESET_KIND 2). -/
def execDeviceResetFull (p : Packet) (a : DeviceResetParams) (s : State) : Host.Outcome State Fault Refusal :=
  finish s (command (.deviceResetFull p a) (opMgmt 0x0A0A false) p atOnce (runDeviceResetFull p a) s)

/-- RESET_KIND 3, in its turn. -/
def runDeviceResetPort (p : Packet) (a : DeviceResetParams) (c : Cmd) (s : State) : State :=
  inTurn c (fun s =>
    if !formOk p 8 [] (a.reserved03 == 0) || !portExists a.portKind.toNat a.port.toNat then fail c .badParam s
    else done c 0 0 (resetPort a.portKind.toNat a.port.toNat 3 s)) s

/-- DEVICE_RESET_PORT (0x0A0A, RESET_KIND 3). -/
def execDeviceResetPort (p : Packet) (a : DeviceResetParams) (s : State) : Host.Outcome State Fault Refusal :=
  finish s (command (.deviceResetPort p a) (opMgmt 0x0A0A false) p atOnce (runDeviceResetPort p a) s)

/-! ## Tenants (R316, R392, R393) -/

/-- Test 1 of R316. -/
def registerForm (a : TenantRegisterParams) : Bool :=
  tenantIdOk a.tenant.toNat && a.reserved002 == 0 && a.pubExponent.toNat % 2 == 1 && decide (65537 ≤ a.pubExponent.toNat) && a.modulus.msb

/-- Asks every section for a TENANT_SWEEP (R120). [DEDUCED, log 56] -/
def askSweep (t : Nat) (s : State) : State := (List.range 4).foldl (fun s i => askDolly i (.sweep t) s) s

/-- Whether a tenant's sweep has still to run. [DEDUCED, log 97] -/
def sweepWaits (s : State) (t : Nat) : Bool := s.marr.sections.any fun x => x.requests.contains (.sweep t)

/-- The hk_tenant slot of an earlier generation, or of a removed tenant, is erased (Table 14.2). [DEDUCED, log 97] -/
def dropHashKey (t : Nat) (s : State) : State := { s with sec := { s.sec with hashKeys := s.sec.hashKeys.filter fun k => k.1 != t } }

/-- Steps 3 and 4 of R392: keys of the earlier generation go, epoch 0 is the only live one. [DEDUCED, log 98] -/
def startGeneration (t : Nat) (s : State) : State :=
  let e : Epochs := { tenant := t, oldest := 0, newest := 0 }
  let s1 := { s with persist := { s.persist with epochs := e :: s.persist.epochs.filter fun x => x.tenant != t } }
  { s1 with sec := { s1.sec with
      hashKeys := (t, regGenOf s t) :: s1.sec.hashKeys.filter (fun k => k.1 != t),
      memKeys := (t, 0) :: s1.sec.memKeys.filter fun k => k.1 != t } }

/-- A registration's end: its sweep is over. [DEDUCED, log 98] -/
def endRegister (c : Cmd) (t : Nat) (s : State) : State :=
  if sweepWaits s t then park c.slot .slivers s else done c (BitVec.ofNat 32 (regGenOf s t)) 0 (startGeneration t s)

/-- TENANT_REGISTER's run, in its turn (R392): a tenant registered before is swept first. [DEDUCED, log 98] -/
def runTenantRegister (p : Packet) (a : TenantRegisterParams) (c : Cmd) (s : State) : State :=
  let t := a.tenant.toNat
  if c.phase == 1 then endRegister c t s
  else inTurn c (fun s =>
    if !formOk p 0x208 [] (registerForm a) then fail c .badParam s
    else if tenantJobs s t != 0 then fail c .denied s
    else if regGenOf s t == 0xFFFFFFFF then fail c .denied s
    else
      let before := ((findTenant s t).map (·.registered)).getD false
      let s1 := commitRecord (fun r => withTenant t (fun e => { e with
        registered := true, regGen := e.regGen + 1, keyDigest := modulusDigest a.modulus a.pubExponent }) (addTenant t r)) s
      endRegister c t (setCmd c.slot (fun c => { c with phase := 1 }) (if before then askSweep t s1 else s1))) s

/-- TENANT_REGISTER (0x0A0B). -/
def execTenantRegister (p : Packet) (a : TenantRegisterParams) (s : State) : Host.Outcome State Fault Refusal :=
  finish s (command (.tenantRegister p a) (opMgmt 0x0A0B false) p atOnce (runTenantRegister p a) s)

/-- TRM_FLAGS.FORCE. -/
def forced (a : TenantRemoveParams) : Bool := bitOf a.trmFlags.toNat 0

/-- The parameters of a TENANT_REMOVE that name a registered tenant. -/
def removeForm (s : State) (p : Packet) (a : TenantRemoveParams) : Bool :=
  formOk p 8 [] (a.reserved03 == 0 && bitsOf a.trmFlags.toNat 1 7 == 0) && tenantIdOk a.tenant.toNat
    && ((findTenant s a.tenant.toNat).map (·.registered)).getD false

/-- With FORCE the registration is withdrawn for new jobs at the acceptance. -/
def removeAccept (p : Packet) (a : TenantRemoveParams) (_ : Cmd) (s : State) : State :=
  if removeForm s p a && forced a then
    { s with cfg := withTenant a.tenant.toNat (fun t => { t with withdrawn := true }) s.cfg }
  else s

/-- A removal's end: its sweep is over. [DEDUCED, log 97] -/
def endRemove (c : Cmd) (t : Nat) (s : State) : State :=
  if sweepWaits s t then park c.slot .slivers s else done c 0 0 (dropHashKey t s)

/-- R393: the key is cleared, the generation kept, the tenant swept. [DEDUCED, log 97] -/
def removeTenant (c : Cmd) (t : Nat) (s : State) : State :=
  let s1 := commitRecord (withTenant t fun e => { e with registered := false, withdrawn := false, keyDigest := 0 }) s
  endRemove c t (setCmd c.slot (fun c => { c with phase := 1, wait := .slivers }) (askSweep t s1))

/-- TENANT_REMOVE's run, in its turn. -/
def runTenantRemove (p : Packet) (a : TenantRemoveParams) (c : Cmd) (s : State) : State :=
  let t := a.tenant.toNat
  if c.phase == 1 then endRemove c t s
  else inTurn c (fun s =>
    if !removeForm s p a then fail c .badParam s
    else if tenantJobs s t == 0 then removeTenant c t s
    else if !forced a then fail c .denied s
    else
      let open' := s.jobs.table.filter fun j => j.tenant == t && !j.closing
      goOn (open'.foldl (fun s j => startClose j.index none s) (park c.slot .jobDrain s))) s

/-- TENANT_REMOVE (0x0A0C). -/
def execTenantRemove (p : Packet) (a : TenantRemoveParams) (s : State) : Host.Outcome State Fault Refusal :=
  finish s (command (.tenantRemove p a) (opMgmt 0x0A0C false) p (removeAccept p a) (runTenantRemove p a) s)

/-- The TENANT_REMOVE that waits for a tenant's jobs to close. -/
def removalOf (s : State) (t : Nat) : Option Cmd :=
  s.jobs.cmds.find? fun c => c.wait == .jobDrain && match c.instr with
    | .tenantRemove _ a => a.tenant.toNat == t
    | _ => false

/-- TENANT_REMOVE_COMPLETE (R316): after the last job has closed, the removal of R393. -/
def doTenantRemoveComplete (t : Nat) (s : State) : State :=
  match removalOf s t with
  | none => s
  | some c => if tenantJobs s t == 0 then removeTenant c t s else s

/-- TENANT_REMOVE_COMPLETE. -/
def execTenantRemoveComplete (tenant : BitVec 12) (s : State) : Host.Outcome State Fault Refusal :=
  finish s (doTenantRemoveComplete tenant.toNat s)

/-! ## The management port (R481, R483 to R487) -/

/-- MGMT_LINK_TRIAL: until the configuration record is loaded the two modes are tried in turn; after it, its MODE alone. -/
def execMgmtLinkTrial (trained : Bool) (s : State) : Host.Outcome State Fault Refusal :=
  let mode := if s.mgmt.recordLoaded then (portCfg s 4 0).mode else s.mgmt.trialMode
  finish s (if s.mgmt.linkUp || s.power.step < 4 then s
    else if trained then
      emit (.dhcpRequest 16) (portUp 4 0 mode { s with mgmt := { s.mgmt with linkUp := true, trialMode := mode } })
    else { s with mgmt := { s.mgmt with trialMode := if s.mgmt.recordLoaded then mode else 1 - mode } })

/-- Sessions at once. A number whose commands still run is not given again. [DEDUCED, log 75] -/
def sessionNumber (s : State) : Nat :=
  lowestFree (s.mgmt.sessions.map (·.num) ++ (s.jobs.cmds.filter fun c => decide (0x1000000 ≤ c.lane)).map fun c => c.lane - 0x1000000)

/-- TCP_CONNECT: a ninth connection is refused. -/
def execTcpConnect (s : State) : Host.Outcome State Fault Refusal :=
  finish s (if !s.mgmt.linkUp then s
    else if Config.maxSessions ≤ s.mgmt.sessions.length then emit .tcpReset s
    else
      let n := sessionNumber s
      emit (.tcpAccept n) { s with mgmt := { s.mgmt with sessions := s.mgmt.sessions ++ [{ num := n, role := none, provisional := false }] } })

/-- Changes a session. -/
def setSession (n : Nat) (f : Session → Session) (s : State) : State :=
  { s with mgmt := { s.mgmt with sessions := updWhere (fun m => m.num == n) f s.mgmt.sessions } }

/-- A session ends (R487): its commands run on and their replies are discarded. [DEDUCED, log 75] -/
def endSession (n : Nat) (s : State) : State :=
  { s with mgmt := { s.mgmt with sessions := s.mgmt.sessions.filter fun m => m.num != n } }

/-- The role that a certificate's one Organizational Unit gives (R484). -/
def roleOf (x : ClientCert) : Option Role :=
  if x.operatorOu == 1 && x.auditorOu == 0 then some .operator
  else if x.auditorOu == 1 && x.operatorOu == 0 then some .auditor
  else none

/-- TLS_HANDSHAKE_DONE: before the configuration record is loaded every certificate of Table 18.1 gives the auditor role (R486,
R495); an operator's self-signed chain claims an unclaimed device (R485); otherwise R484 judges. -/
def handshake (n : Nat) (x : ClientCert) (s : State) : State :=
  let refuse := emit (.tlsAlert n) (endSession n s)
  if !(s.mgmt.sessions.any fun m => m.num == n && m.role.isNone) then s
  else if !x.profileOk then refuse
  else if !s.mgmt.recordLoaded then setSession n (fun m => { m with role := some .auditor, provisional := true }) s
  else match roleOf x with
    | none => refuse
    | some r =>
      if s.cfg.anchor == 0 then
        if r == .operator && x.selfSigned then
          setSession n (fun m => { m with role := some r }) (commitRecord (fun c => { c with anchor := x.anchorDigest }) s)
        else refuse
      else if x.anchorDigest == s.cfg.anchor then setSession n (fun m => { m with role := some r }) s
      else refuse

/-- TLS_HANDSHAKE_DONE. -/
def execTlsHandshakeDone (session : Nat) (cert : ClientCert) (s : State) : Host.Outcome State Fault Refusal :=
  finish s (handshake session cert s)

/-- TLS_SESSION_END. -/
def execTlsSessionEnd (session : Nat) (s : State) : Host.Outcome State Fault Refusal := finish s (endSession session s)

end Sys2Proof.Machine
end

