-- ==== Sys2Proof/Machine/SpliceRows.lean ====
section
/-! DEFINITION. Splice links (chapter "Splice ports and multi-device configurations"): bring-up, the splice domain, and the
messages of Table 15.3. -/
namespace Sys2Proof.Machine

/-! ## Bring-up (Table 15.1) -/

/-- SPLICE_PHY_TRAINED (Table 17.9): from step 4 of start-up; bring-up begins when the index serves lookups. -/
def execSplicePhyTrained (port : Nat) (s : State) : Host.Outcome State Fault Refusal :=
  finish s (if 4 ≤ s.power.step && s.power.flushing.isNone && !(portCfg s 3 port).adminDown then
      startBringUp port (setSplice port (fun p => { p with phy := true }) s)
    else s)

/-- Step 3: REPORT, with the peer's nonce. -/
def takeHello (port : Nat) (device : U16) (resetGen : U32) (nonce : BitVec 256) (drDigest : Digest) (s : State) : State :=
  let s1 := tick s
  sendBringUp port (.report nonce s1.clk.slate (s1.cfg.debugState != 0) (measurementsOf s1))
    (setSplice port (fun p => { p with step := .report, peerDevice := device.toNat, peerGen := resetGen.toNat, peerRoot := drDigest }) s1)

/-- HELLO. On a link past this step it says that the peer has begun again (R428), so this end does too. [DEDUCED, log 100] -/
def execHello (port : Nat) (device : U16) (resetGen : U32) (nonce : BitVec 256) (drDigest : Digest) (s : State) :
    Host.Outcome State Fault Refusal :=
  finish s (match findSplice s port with
    | none => s
    | some p =>
      let s1 := if p.step == .hello then s else startBringUp port (spliceDown port 1 s)
      if ((findSplice s1 port).map fun p => p.step == .hello).getD false then takeHello port device resetGen nonce drDigest s1 else s1)

/-- R427. -/
def peerPasses (s : State) (p : SplicePort) (r : PeerReport) : Bool :=
  let m := measurementsOf s
  r.signatureOk && r.nonceOk && r.measurement1 == m.rom
    && (r.measurement3 == m.firmware || r.measurement3 == m.staged || r.measurement6 == m.firmware)
    && !r.debugUnlocked && s.cfg.debugState == 0 && p.peerDevice != 0 && p.peerDevice != s.cfg.deviceNumber

/-- Step 5: KEY, with the domain root when the peer has none (R423). -/
def sendKey (port contribution : Nat) (p : SplicePort) (s : State) : State :=
  let root := if p.peerRoot == 0 then s.persist.root else none
  sendBringUp port (.key contribution root)
    (setSplice port (fun p => { p with contribution := contribution, rootSent := root.isSome }) s)

/-- REPORT: step 4. -/
def execReport (port : Nat) (r : PeerReport) (s : State) : Host.Outcome State Fault Refusal :=
  finish s (match findSplice s port with
    | none => s
    | some p =>
      if p.step != .report then s
      else if peerPasses s p r then
        let (k, s1) := useFree s
        sendKey port (Config.drbg k) p (setSplice port (fun p => { p with step := .key }) s1)
      else portDown 3 port 4 (countSplice 0 (setSplice port (fun p => { p with step := .failed }) s)))

/-- SPLICE_ATTEST_RETRY: 1 s after a failed check, from step 1 again. -/
def execSpliceAttestRetry (port : Nat) (s : State) : Host.Outcome State Fault Refusal :=
  finish s (if ((findSplice s port).map fun p => p.step == .failed).getD false then startBringUp port (spliceDown port 1 s) else s)

/-! ## The splice domain (R423 to R425) -/

/-- A tenant's generation as a new domain root moves it (R425). -/
def nextGeneration (t : Registry) : Registry :=
  if t.regGen == 0xFFFFFFFF then { t with registered := false, withdrawn := false, keyDigest := 0 } else { t with regGen := t.regGen + 1 }

/-- Every VALID bit of the match array is cleared and the cores refill it (R119). [DEDUCED, log 52] -/
def clearValid (s : State) : State :=
  let ss := s.marr.sections.map fun x => { x with requests := [] }
  let ns := s.index.nodes.map fun n => { n with entryPresent := false }
  { s with marr := { s.marr with entries := s.marr.entries.map clearEntry, reports := [], refilled := [], sections := ss },
           index := { s.index with nodes := ns, slivers := s.index.slivers.map fun v => { v with outbox := [] } } }

/-- DOMAIN_ADOPT (R425): the root is taken, every generation rises with epoch 0 alone live, the match array is cleared, the
record is programmed. -/
def joinDomain (root : Nat) (s : State) : State :=
  let s1 := commitRecord (fun c => { c with tenants := c.tenants.map nextGeneration })
    { s with persist := { s.persist with root := some root } }
  let es := s1.cfg.tenants.map fun t => ({ tenant := t.tenant, oldest := 0, newest := 0 } : Epochs)
  clearValid (reloadKeys { s1 with persist := { s1.persist with epochs := es } })

/-- The link is up (Table 15.1, step 6). -/
def linkUp (port : Nat) (s : State) : State :=
  portUp 3 port 0 (setSplice port (fun p => { p with step := .up, txCounter := 0, frameRetries := 0 }) s)

/-- The root formed with the peer: the contributions in the order of the identity digests (R423). -/
def formedRoot (p : SplicePort) : Nat :=
  if higherIdentity p.peerDevice then formRoot p.peerContribution p.contribution (Config.peerIdentity p.peerDevice) Config.identityDigest
  else formRoot p.contribution p.peerContribution Config.identityDigest (Config.peerIdentity p.peerDevice)

/-- Step 5 once the peer's KEY has come: the link comes up, is held while jobs are open (R425), or stays down when the roots
differ (R423). [DEDUCED, log 101] -/
def domainStep (port : Nat) (s : State) : State :=
  match findSplice s port with
  | none => s
  | some p =>
    let hold := countSplice 1 (setSplice port (fun p => { p with step := .held }) s)
    let refuse := countSplice 1 (setSplice port (fun p => { p with step := .refused }) s)
    let join := fun r => if s.jobs.table.isEmpty then linkUp port (joinDomain r s) else hold
    match s.persist.root with
    | some r =>
      if p.peerRoot == 0 then linkUp port (if p.rootSent then s else sendKey port p.contribution p s)
      else if p.peerRoot == domainDigest (some r) then linkUp port s
      else refuse
    | none => match p.offeredRoot with
      | some r => join r
      | none => if p.peerRoot == 0 then join (formedRoot p) else hold

/-- KEY. A peer that held the link may send it again with the root it took meanwhile. -/
def execKey (port : Nat) (contribution : Nat) (root : Option Nat) (s : State) : Host.Outcome State Fault Refusal :=
  finish s (match findSplice s port with
    | none => s
    | some p =>
      let pr := if root.isSome then domainDigest root else p.peerRoot
      if p.step == .key || p.step == .held then
        goOn (domainStep port (setSplice port (fun p => { p with peerContribution := contribution, offeredRoot := root, peerRoot := pr }) s))
      else s)

/-- SPLICE_DOMAIN_RETRY (R425). -/
def execSpliceDomainRetry (port : Nat) (s : State) : Host.Outcome State Fault Refusal :=
  finish s (if ((findSplice s port).map fun p => p.step == .held).getD false then goOn (domainStep port s) else s)

/-! ## Links that fail (R428) -/

/-- The PHY has lost the link, or a frame was given up: bring-up begins again when the PHY trains. [DEDUCED, log 100] -/
def loseSplice (port : Nat) (s : State) : State := spliceDown port 1 (setSplice port (fun p => { p with phy := false }) s)

/-- SPLICE_LINK_DOWN. -/
def execSpliceLinkDown (port : Nat) (s : State) : Host.Outcome State Fault Refusal := finish s (goOn (loseSplice port s))

/-- SPLICE_FRAME_RETRY: the port goes down after a frame's eighth retry. [DEDUCED, log 102] -/
def execSpliceFrameRetry (port : Nat) (s : State) : Host.Outcome State Fault Refusal :=
  finish s (match findSplice s port with
    | none => s
    | some p =>
      if !p.phy then s
      else if 7 ≤ p.frameRetries then goOn (loseSplice port s)
      else setSplice port (fun p => { p with frameRetries := p.frameRetries + 1 }) s)

/-! ## Messages (R426, R429 to R433, R435) -/

/-- R429: a message that opens is relayed when it is for another device; else `k` takes it. -/
def receiveSplice (port : Nat) (env : Envelope) (b : SpliceBody) (k : State → State) (s : State) : State :=
  if !spliceUp s port then s
  else if !env.tagOk then countSplice 3 s
  else if env.dstDevice.toNat == s.cfg.deviceNumber then k s
  else if 63 ≤ env.relays then countSplice 4 s
  else (sendSplice env.srcDevice.toNat env.dstDevice.toNat (env.relays + 1) env.probes env.regGen.toNat
    (if bitOf env.spFlags.toNat 0 then .be else .lc) b s).2

/-- A match-in for this device: the end of its own path (R431), an answer without a probe (R426), or a run (R124). -/
def takeMatchIn (env : Envelope) (body : MatchInBody) (s : State) : State :=
  let t := body.tenant.toNat % 4096
  let cls : Cls := if bitOf body.miFlags.toNat 0 then .be else .lc
  if body.lookupId.toNat / 2 ^ 48 == s.cfg.deviceNumber then endCont body.lookupId false s
  else if env.regGen.toNat != regGenOf s t || !((findTenant s t).map (·.registered)).getD false then
    answerMatchIn body env.probes env.regGen.toNat cls 0 0 (countSplice 2 s)
  else
    let run := s.index.nextRun
    let r : RemoteRun := { run := run, lookupId := body.lookupId, cls := cls, body := body, probesField := env.probes,
                           regGen := env.regGen.toNat, probes := List.replicate body.keys.length .waiting, hopBudget := body.hopBudget }
    advanceRemote run { s with index := { s.index with remote := s.index.remote ++ [r], nextRun := run + 1 } }

/-- MATCH_IN. -/
def execMatchIn (port : Nat) (env : Envelope) (body : MatchInBody) (s : State) : Host.Outcome State Fault Refusal :=
  finish s (receiveSplice port env (.matchIn body) (fun s => goOn (takeMatchIn env body s)) s)

/-- Whether a match-out ends its continuation (R432). -/
def isEnd (k : Continuation) (body : MatchOutBody) : Bool :=
  body.budgetSpent || body.extendedCount == k.sentFrom + k.sentCount

/-- A match-out for this device (R432, R433). -/
def takeMatchOut (body : MatchOutBody) (s : State) : State :=
  match findCont s body.lookupId with
  | none => countSplice 6 s
  | some k =>
    let h : HolderRange := { device := body.holderDevice.toNat, firstBlock := body.firstBlock, lastBlock := body.extendedCount,
                             tierHint := body.tierHint.toNat, hopsUsed := body.hopsUsed, lowerBound := body.lowerBound }
    let ks := updWhere (fun x : Continuation => x.lookupId == body.lookupId)
      (fun x => { x with holders := x.holders ++ [h], budgetSpent := x.budgetSpent || body.budgetSpent }) s.index.continuations
    let s1 := { s with index := { s.index with continuations := ks } }
    if isEnd k body then endCont body.lookupId false s1 else s1

/-- MATCH_OUT. -/
def execMatchOut (port : Nat) (env : Envelope) (body : MatchOutBody) (s : State) : Host.Outcome State Fault Refusal :=
  finish s (receiveSplice port env (.matchOut body) (fun s => goOn (takeMatchOut body s)) s)

/-- CONTINUATION_EXPIRY (R432). -/
def execContinuationExpiry (lookupId : U64) (s : State) : Host.Outcome State Fault Refusal :=
  finish s (goOn (endCont lookupId true s))

/-- FRAME (R435): the relay device transmits it on its logical port of the number; a frame that comes back is delivered to the
logical port, where the packet in it arrives as a command of its own. [DEDUCED, log 103] -/
def takeFrame (lport : Nat) (toRelay : Bool) (bytes : List Byte) (s : State) : State :=
  if toRelay && lportUp s lport then emit (.ethFrame lport bytes) s else s

/-- FRAME. -/
def execFrame (port : Nat) (env : Envelope) (lport : Nat) (toRelay : Bool) (bytes : List Byte) (s : State) :
    Host.Outcome State Fault Refusal :=
  finish s (receiveSplice port env (.frame lport toRelay bytes) (takeFrame lport toRelay bytes) s)

end Sys2Proof.Machine
end

