-- ==== Sys2Proof/Machine/Startup.lean ====
section
/-! DEFINITION. Power, clocks, temperature, reset and start-up (chapter "Power input, clocks, reset and start-up"), FTL and index
recovery (Tables 9.7 and 3.5), and the recovery service (R495, R496). -/
namespace Sys2Proof.Machine

/-! ## The hold-up flush and its triggers (Tables 17.2 to 17.4) -/

/-- Step 4 of Table 17.3: the journal reaches T3 with the pending INDEX records and a COUNTERS record that carries
the reset cause (R286, R466). Before FTL recovery has ended there is no journal to write, and neither the cause nor the
fatal record is kept. [DEDUCED, log 50, 110] -/
def writeFlush (s : State) : State :=
  match s.power.flushing with
  | none => s
  | some cause =>
    if 7 ≤ s.power.step then
      let recs := (s.flash.flushing.getD []) ++ s.flash.pendingRecs ++ s.index.journalBuf.map JournalRec.index
        ++ [.counters s.flash.writeSeq s.tiers.writeNo s.persist.credit s.persist.theta]
      let s1 := imagePages (journalPages recs) s
      let p := { s1.persist with journal := s1.persist.journal ++ recs, writeSeq := s1.flash.writeSeq, writeNo := s1.tiers.writeNo,
                                 unflushed := [] }
      { s1 with persist := p, power := { s1.power with flushing := none, flushCause := cause } }
    else s

/-- HOLDUP_FLUSH_END (R465): the flush ends in the full-chip reset. -/
def execHoldupFlushEnd (s : State) : Host.Outcome State Fault Refusal :=
  finish s (if s.power.flushing.isSome then fullChipReset (writeFlush s) else s)

/-- Changes the gaffer's state. -/
def setPower (f : Power → Power) (s : State) : State := { s with power := f s.power }

/-- SAG_WARN (R461): from DEVICE_STATE 1 on, EV_SAG_WARN in every function, then the flush; before it the reset is at once.
[DEDUCED, log 109] -/
def execSagWarn (vinMv : Nat) (s : State) : Host.Outcome State Fault Refusal :=
  finish s (if !s.power.sagArmed then s
    else
      let s1 := setPower (fun p => { p with vinMv := vinMv, sagWarn := true, sagArmed := false }) s
      if s.power.step == 0 then s1
      else flushOrReset 2 (if 6 ≤ s.power.step then setFuncEvent 0 (raise 0x0006 0 0 vinMv 0 s1) else s1))

/-- VIN_BELOW_RESET (R462, R499): a full-chip reset at once; NAND_VCC_SEL is sampled again at the next start-up.
[DEDUCED, log 109] -/
def execVinBelowReset (vinMv : Nat) (s : State) : Host.Outcome State Fault Refusal :=
  finish s (fullChipReset (setPower (fun p => { p with vinMv := vinMv, nandVcc := none }) s))

/-- VIN_OVER_VOLTAGE (R463). [DEDUCED, log 109, 117] -/
def execVinOverVoltage (vinMv : Nat) (s : State) : Host.Outcome State Fault Refusal :=
  let s1 := setPower (fun p => { p with vinMv := vinMv, overVolt := true }) s
  finish s (if s.power.step == 0 then s1 else decideReset 4 (fatalEvent 3 2 s1))

/-- EV_THERMAL (Table 16.9) with its function event. -/
def thermalEvent (what sensor tj : Nat) (s : State) : State :=
  setFuncEvent 1 (raise 0x0007 0 sensor (what * 2 ^ 24 + tj % 65536) 0 s)

/-- The skip count n after a reading of 0.1 °C steps (R468). -/
def skipAfter (tj n : Nat) : Nat := if 1000 ≤ tj then min 12 (n + 1) else if tj < 980 then n - 1 else n

/-- R469: THERM_TRIP_N, EV_THERMAL, the flush. -/
def thermalTrip (sensor tj : Nat) (s : State) : State :=
  decideReset 3 (thermalEvent 3 sensor tj (setPower (fun p => { p with thermTrip := true }) s))

/-- THERMAL_TICK (R468, R469): the skip count follows Tj; 110.0 °C, or 105.0 °C in an HBM4 stack, trips. [DESIGN CHOICE, log 14] -/
def execThermalTick (sensor tj hbm : Nat) (s : State) : Host.Outcome State Fault Refusal :=
  finish s (if !s.power.clocksOn then s
    else
      let n := skipAfter tj s.power.skip
      let s1 := setPower (fun p => { p with skip := n, throttledNow := p.throttledNow || decide (0 < n) }) s
      let s2 := if s.power.skip == 0 && 0 < n then thermalEvent 1 sensor tj s1
        else if 0 < s.power.skip && n == 0 then thermalEvent 2 sensor tj s1 else s1
      if (1100 ≤ tj || 1050 ≤ hbm) && !s2.power.thermTrip then thermalTrip sensor tj s2 else s2)

/-- REFCLK_LOSS (R472): from lock on, EV_DEVICE_FATAL and the flush in holdover; before it, step 2 waits for the reference.
[DEDUCED, log 117] -/
def execRefclkLoss (s : State) : Host.Outcome State Fault Refusal :=
  let s1 := setPower (fun p => { p with refclkOk := false }) s
  finish s (if s.power.clocksOn && s.power.refclkOk then decideReset 5 (fatalEvent 3 3 s1) else s1)

/-- PLL_LOCK_LOSS (R472): with the reference present the reset is at once. -/
def execPllLockLoss (s : State) : Host.Outcome State Fault Refusal :=
  finish s (if s.power.clocksOn && s.power.refclkOk then fullChipReset s else s)

/-- RESET_IN_ASSERT (R475, R465): from DEVICE_STATE 1 on the reset begins with the flush; during a flush, and before
DEVICE_STATE 1, it is at once. -/
def execResetInAssert (s : State) : Host.Outcome State Fault Refusal :=
  let s1 := setPower (fun p => { p with resetIn := true }) s
  finish s (if s.power.resetIn then s
    else if s.power.flushing.isSome || s.power.step < 6 then fullChipReset s1 else beginFlush 1 s1)

/-! ## Steps 1 to 4 of Table 17.8 -/

/-- Step 2 begins once RESET_IN_N is high and THERM_TRIP_N is clear; SAG_WARN_N is released (R500). -/
def enterClocks (s : State) : State :=
  if s.power.step == 1 && !s.power.resetIn && !s.power.thermTrip then setPower (fun p => { p with step := 2, sagWarn := false }) s
  else s

/-- The logical ports of every Ethernet port as its MODE has them. [DEDUCED, log 115] -/
def applyModes (s : State) : State := (List.range 4).foldl (fun s n => applyMode n s) s

/-- STARTUP (R462, R463, R499): VIN has stayed above V_ON, and below 65.0 V after an over-voltage, for 10 ms. The strap
NAND_VCC_SEL is sampled unless VIN has stayed above V_RST since it was. The ports train as their blocks of the record say.
[DEDUCED, log 108, 109, 115, 116] -/
def execStartup (vinMv : Nat) (nandVccSel : Bool) (s : State) : Host.Outcome State Fault Refusal :=
  finish s (if s.power.step != 0 || (s.power.overVolt && decide (65000 ≤ vinMv)) then s
    else
      let sel := s.power.nandVcc.getD nandVccSel
      let s1 := setPower (fun p => { p with
        step := 1, vinMv := vinMv, overVolt := false, sagArmed := true, nandVcc := some sel, fullChipStarts := p.fullChipStarts + 1 }) s
      enterClocks (applyModes { s1 with cfg := { s1.cfg with ports := s.persist.config.ports } }))

/-- RESET_IN_RELEASE (R499): RECOVERY_N is sampled at the edge. [DEDUCED, log 108] -/
def execResetInRelease (recoveryN : Bool) (s : State) : Host.Outcome State Fault Refusal :=
  finish s (if !s.power.resetIn then s
    else
      let s1 := setPower (fun p => { p with resetIn := false }) s
      enterClocks { s1 with boot := { s1.boot with strapLow := !recoveryN, strapSampled := true } })

/-- THERMAL_TRIP_RELEASE (R469): every sensor reads below 90.0 °C. [DEDUCED, log 116] -/
def execThermalTripRelease (tj hbm : Nat) (s : State) : Host.Outcome State Fault Refusal :=
  finish s (if tj < 900 && hbm < 900 then enterClocks (setPower (fun p => { p with thermTrip := false }) s) else s)

/-- PLL_LOCK (R471): the clocks start together. RECOVERY_N is sampled when no release of RESET_IN_N has sampled it (R499).
[DEDUCED, log 108] -/
def execPllLock (recoveryN : Bool) (s : State) : Host.Outcome State Fault Refusal :=
  finish s (if s.power.step != 2 then s
    else
      let s1 := setPower (fun p => { p with step := 3, clocksOn := true, refclkOk := true }) s
      if s.boot.strapSampled then s1
      else { s1 with boot := { s1.boot with strapLow := !recoveryN, strapSampled := true } })

/-- R419: the slot that boots, and the boot record after a switch. -/
def bootSlot (b : Boot) : Option (Nat × Boot) :=
  let n := activeSlot b
  if slotValid b n then some (n, b)
  else if slotValid b (1 - n) then some (1 - n, writeBootRecord (1 - n) true b)
  else none

/-- BOOT_VERIFY_DONE (R419, R495): the loader and the firmware are verified; with no valid slot, or the strap low, only the
recovery service runs. START_STOP_CAUSE stands until step 5 begins again. -/
def execBootVerifyDone (s : State) : Host.Outcome State Fault Refusal :=
  let recover : State := { s with power := { s.power with step := 4 }, boot := { s.boot with recovery := true } }
  finish s (if s.power.step != 3 then s
    else if s.boot.strapLow then recover
    else match bootSlot s.boot with
      | none => recover
      | some (n, b) => { s with power := { s.power with step := 5, stopCause := 0 }, boot := { b with running := some n } })

/-! ## Step 5: memory training (R450, R478) -/

/-- R160: eight channels of 1 or 2 modules each, the same number on all, one RDIMM or MRDIMM part, 256 GiB to 4 TiB in all. -/
def ddrFits (p : Population) : Bool :=
  match p.ddr.flatten with
  | [] => false
  | m :: ms =>
    p.ddr.length == 8 && (p.ddr.all fun c => c.length == (p.ddr.headD []).length && (c.length == 1 || c.length == 2))
      && m.kind != .other && (ms.all fun x => x.kind == m.kind && x.part == m.part) && decide (256 ≤ p.ddrGib) && decide (p.ddrGib ≤ 4096)

/-- Table 9.1 for a NAND part. -/
def nandPartFits (n : NandPart) : Bool :=
  n.interface != .other && n.busBits == 8 && decide (n.mts ≤ 3600) && n.onePassTlc && n.pslc && n.pageBytes == 16384
    && decide (2048 ≤ n.spareBytes)
    && (n.planes == 1 || n.planes == 2 || n.planes == 4) && decide (n.blocksPerPlane * n.pagesPerBlock ≤ 4194304)
    && decide (n.progTlcUs ≤ 3000) && decide (n.progPslcUs ≤ 600) && decide (n.eraseUs ≤ 12000)

/-- R252 and R253: 32 channels of the same part, each with the same 1 to 8 chip enables of 1 to 4 dies. -/
def nandFits (p : Population) : Bool :=
  match p.nand.flatten with
  | [] => false
  | e :: es =>
    p.nand.length == 32 && (p.nand.all fun c => c.length == (p.nand.headD []).length && decide (1 ≤ c.length) && decide (c.length ≤ 8))
      && decide (1 ≤ e.dies) && decide (e.dies ≤ 4) && (es.all fun x => x.dies == e.dies && x.page == e.page)
      && (e.page.map nandPartFits).getD false

/-- Whether every parameter page could be read and holds a read-retry table. -/
def nandPagesOk (p : Population) : Bool := p.nand.flatten.all fun e => (e.page.map (·.retryTable)).getD false

/-- START_STOP_CAUSE of a population and its training, in the order of step 5; 0 when start-up goes on. [DEDUCED, log 107] -/
def trainingCause (p : Population) : Nat :=
  if !p.hbmTrained then 3
  else if !ddrFits p then 1
  else if !p.ddrTrained then 4
  else if !nandPagesOk p then 5
  else if !nandFits p then 2
  else 0

/-- The persisted spare map comes into force, entry by entry. -/
def applySpareMap (s : State) : State :=
  if !s.faults.spareMap.isEmpty then s
  else s.persist.spareMap.foldl (fun s l =>
    switchUnit l.kind l.failed l.spare { s with faults := { s.faults with spareMap := s.faults.spareMap ++ [l] } }) s

/-- Built-in test: each active unit that fails it is mapped with cause 1 (R450, R117). -/
def mapBist (us : List (Nat × Nat)) (s : State) : State :=
  us.foldl (fun s u => if unitActive s u.1 u.2 then mapSpare u.1 1 u.2 s else s) s

/-- Step 5: spares, then the population. -/
def trainMemory (p : Population) (s : State) : State :=
  setPower (fun w => { w with stopCause := trainingCause p, trained := if trainingCause p == 0 then some p else none })
    (mapBist p.badUnits (applySpareMap s))

/-- MEMORY_TRAINING_DONE (R478): DEVICE_STATE 1, from which submission entries are fetched (R385), or start-up stops for good.
[DEDUCED, log 107] -/
def execMemoryTrainingDone (pop : Population) (s : State) : Host.Outcome State Fault Refusal :=
  finish s (if s.power.step != 5 || s.power.stopCause != 0 then s
    else
      let s1 := trainMemory pop s
      if trainingCause pop == 0 then fetchAll (setPower (fun w => { w with step := 6 }) s1) else s1)

/-! ## Wear figures (R180) -/

/-- The daily budget by default, and the one in force. -/
def ratedDaily (s : State) : Nat := (geomOf s).peCycles * (usableLimit s * 16384) / 1825
def dailyBudget (s : State) : Nat := if s.tiers.liveBudget == 0 then ratedDaily s else s.tiers.liveBudget

/-- B_w and the credit cap. -/
def windowBudget (s : State) : Nat := dailyBudget s / Config.windowsPerDay
def creditCap (s : State) : Nat := 65536 * windowBudget s

/-! ## Format (R255, R496) -/

/-- An entry as a format carries it: its generation one higher unless it is the last, no key, no quota. [DEDUCED, log 112] -/
def formattedEntry (t : Registry) : Registry :=
  { freshEntry t.tenant with regGen := if t.regGen == 0xFFFFFFFF then t.regGen else t.regGen + 1 }

/-- The record that a format writes. [DEDUCED, log 112] -/
def formattedRecord (old : ConfigRecord) (op : Nat) : ConfigRecord :=
  { defaultConfig with anchor := old.anchor, overprovision := op, deviceNumber := old.deviceNumber,
                       tenants := old.tenants.map formattedEntry }

/-- Every good block erased and the media laid out; known bad blocks, dead dies and the counters of R457 stay. The wear governor
starts as after the first start-up (R180). [DEDUCED, log 112] -/
def formatMedia (op : Nat) (s : State) : State :=
  let g := geomOf s
  let d : DirectoryImage := { slate := s.clk.slate, window := s.clk.window, writeSeq := s.persist.writeSeq, map := [], bands := [],
                              retired := (replayFtl s).retired }
  let p := { erasedMedia with
    formatted := true, erased := false, config := formattedRecord s.persist.config op, resetGen := s.persist.resetGen,
    directory := some d, writeSeq := s.persist.writeSeq, writeNo := s.persist.writeNo,
    usable := usableSlots g op, faults := s.persist.faults, flashCounters := s.persist.flashCounters, deadDies := s.persist.deadDies,
    theta := 1 }
  let s1 := { s with persist := p, tiers := { s.tiers with liveBudget := 0 } }
  { s1 with persist := { s1.persist with credit := Int.ofNat (creditCap s1 / 2) } }

/-! ## Step 6: FTL recovery (Table 9.7) -/

/-- The slots that the replay trims, with the WRITE_SEQ of the FREE record (R270). -/
def trimsOf (g : Population) : DirectoryImage → List JournalRec → List (Nat × Nat)
  | _, [] => []
  | d, r :: rs =>
    let here := match r with
      | .free a i n seq => (runSlots (32 * a + i) n).filterMap fun x => if (imageEntry d x.1).live ≤ x.2 then some (x.1, seq) else none
      | _ => []
    here ++ trimsOf g (applyRec g d r) rs

/-- R270: a page found past the flushed write pointers against the map and the trims of the replay. [DEDUCED, log 81] -/
def tagWins (trims : List (Nat × Nat)) (d : DirectoryImage) (t : PageTag) : Bool :=
  let m := imageEntry d t.slot
  !(decide (poolBase ≤ t.slot) && m.live == 0) && !(trims.any fun x => x.1 == t.slot && decide (t.contentSeq < x.2))
    && (m.place.isNone || decide (m.seqNo ≤ t.contentSeq))

/-- The map takes a winner. -/
def takeTag (t : PageTag) (d : DirectoryImage) : DirectoryImage :=
  withEntry { imageEntry d t.slot with place := some t.place, seqNo := t.contentSeq } d

/-- The tags of R270 in the order of their programs: the image with the winners, and the winners. [DEDUCED, log 81] -/
def takeTags (trims : List (Nat × Nat)) : List PageTag → DirectoryImage → DirectoryImage × List PageTag
  | [], d => (d, [])
  | t :: ts, d =>
    if tagWins trims d t then
      let r := takeTags trims ts (takeTag t d)
      (r.1, t :: r.2)
    else takeTags trims ts d

/-- Step 6 of Table 9.7: scanned bands are closed. [DEDUCED, log 82] -/
def closeBand (w : Nat) (b : Band) : Band :=
  if b.state == .openBand || b.state == .reserved then { b with state := .closed, closedAt := w } else b

/-- The segments that a record changes. -/
def recSegments : JournalRec → List Nat
  | .map slot _ _ => [slot / 1024]
  | .alloc a i n => (runSlots (32 * a + i) n).map fun x => x.1 / 1024
  | .free a i n _ => (runSlots (32 * a + i) n).map fun x => x.1 / 1024
  | _ => []

/-- The last COUNTERS record in the journal: the credit and θ. [DEDUCED, log 111] -/
def lastCounters (rs : List JournalRec) (dflt : Int × Nat) : Int × Nat :=
  rs.foldl (fun c r => match r with
    | .counters _ _ credit theta => (credit, theta)
    | _ => c) dflt

/-- FTL recovery (Table 9.7): the image, the parity page of each scanned band's last incomplete stripe, the journal, the pages
past the write pointers, the counters (R262, R167), and the clapper's counts (R455). [DEDUCED, log 81, 82, 111, 133] -/
def recoverFtl (s : State) : State :=
  let g := geomOf s
  let d := replayFtl s
  let trims := trimsOf g (lastImage s) s.persist.journal
  let found := takeTags trims s.persist.unflushed d
  let d1 := found.1
  let wins := found.2
  let seqs := d.writeSeq :: s.persist.writeSeq :: s.persist.unflushed.map (·.writeSeq)
  let seq := seqs.foldl max 0 + 2 ^ 32
  let segs := (s.persist.journal.flatMap recSegments ++ wins.map fun (t : PageTag) => t.slot / 1024).eraseDups
  let c := lastCounters s.persist.journal (s.persist.credit, s.persist.theta)
  let bands := d1.bands.map (closeBand (d.window + 2048))
  let torn := (d1.bands.filter fun b => b.state == .openBand && b.writePtr % 32 != 0).length
  imagePages torn { s with
    flash := { s.flash with map := d1.map, bands := bands, retired := d1.retired, writeSeq := seq, dirtySegs := segs,
                            pendingRecs := wins.map fun (t : PageTag) => JournalRec.map t.slot t.place t.contentSeq },
    persist := { s.persist with credit := c.1, theta := c.2 },
    tiers := { s.tiers with writeNo := s.persist.writeNo + 2 ^ 32 },
    clk := { s.clk with slate := d.slate + 2 ^ 40, window := d.window + 2048 } }

/-- The reset generation rises and is programmed (R391). -/
def programGen (s : State) : State :=
  { s with sec := { s.sec with resetGen := s.persist.resetGen + 1, genProgrammed := true },
           persist := { s.persist with resetGen := s.persist.resetGen + 1 } }

/-- An entry whose recorded settings are in force. -/
def settledEntry (t : Registry) : Registry := { t with livePolicy := t.policy, liveQuotas := t.quotas }

/-- LC_RESERVE in the pools that have one (R325). [DEDUCED, log 122] -/
def applyReserve (pct : Nat) (s : State) : State :=
  { s with
    tiers := { s.tiers with landingPool := s.tiers.landingPool.resize pct },
    eng := { s.eng with stage := s.eng.stage.resize pct, ethCredits := s.eng.ethCredits.map (Pool.resize pct),
                        hostCredits := s.eng.hostCredits.map (Pool.resize pct),
                        spliceCredits := s.eng.spliceCredits.map (Pool.resize pct) } }

/-- The settings of R312, R314, R321 and R325 come into force. -/
def applySettings (s : State) : State :=
  let c := { s.cfg with tenants := s.cfg.tenants.map settledEntry }
  applyReserve c.lcReserve { s with cfg := c, jobs := { s.jobs with liveBeFloor := c.beFloor },
                                    tiers := { s.tiers with liveBudget := c.dailyBudget } }

/-- The configuration record is loaded (R486, R490): sessions without a role of its own end, and a management link in another MODE
trains again. [DEDUCED, log 115] -/
def loadRecord (s : State) : State :=
  let ts := s.persist.config.tenants.map fun t => { t with withdrawn := false }
  let s1 := applySettings { s with cfg := { s.persist.config with debugState := 0, tenants := ts } }
  let s2 := { s1 with mgmt := { s1.mgmt with recordLoaded := true, sessions := s1.mgmt.sessions.filter fun m => !m.provisional } }
  applyModes (if s2.mgmt.linkUp && s2.mgmt.trialMode != (portCfg s2 4 0).mode then resetMgmt 3 s2 else s2)

/-- GiB of the flash map in T2 (R163). -/
def mapGib (usable : Nat) : Nat := ceilDiv (5 * usable) (2 ^ 30)

/-- T2 (R163, R379): its page pool less the host windows, which come back zeroed, each under a window key drawn anew (Table
14.2). -/
def divideT2 (s : State) : State :=
  let wins := sumOf id s.cfg.windows * windowCost
  let pool := ((geomOf s).ddrGib - mapGib s.persist.usable - 16) * 2 ^ 21 - wins
  let ws := s.host.windows.map fun w => { w with
    granules := (s.cfg.windows[w.port]?).getD 0, key := some (BitVec.ofNat 512 (Config.drbg (s.free + w.port))) }
  { s with tiers := { s.tiers with t2Total := pool, t2Free := pool }, host := { s.host with windows := ws }, free := s.free + 2 }

/-- The loaded copies of codec weights are unloaded by the reset (R150). [DEDUCED, log 114] -/
def datedWeights (s : State) : State :=
  let ws := s.persist.weights.map fun w => { w with unloadedAt := some (w.unloadedAt.getD s.clk.slate) }
  { s with persist := { s.persist with weights := ws } }

/-- A fatal record of the last boot is raised again (R456); LAST_RESET_CAUSE is the last completed flush's (R466). -/
def reportReset (s : State) : State :=
  let s1 := match s.power.fatalRecord with
    | none => s
    | some e => raise 0x0004 0 e.source e.argA 1 s
  setPower (fun p => { p with fatalRecord := none, lastResetCause := p.flushCause, flushCause := 0 }) s1

/-- Step 6 of Table 17.8, with the format of erased media (R496). -/
def recoverDevice (s : State) : State :=
  let s1 := recoverFtl (if s.persist.erased then formatMedia 0 s else s)
  reportReset (reloadKeys (divideT2 (loadRecord (programGen (datedWeights s1)))))

/-- FTL_RECOVERY_DONE (R271, R391). -/
def execFtlRecoveryDone (s : State) : Host.Outcome State Fault Refusal :=
  finish s (if s.power.step == 6 && s.power.flushing.isNone && (s.persist.formatted || s.persist.erased) then
    setPower (fun p => { p with step := 7 }) (recoverDevice s)
  else s)

/-! ## Steps 7 and 8: index recovery (R63, R162, Table 3.5) -/

/-- C (R63). -/
def nodeCapacity (s : State) : Nat :=
  let bytes := (geomOf s).ddrGib * 2 ^ 30 + usableLimit s * 16384
  max (min 536870912 (ceilDiv bytes (2 ^ 20 * 8388608) * 8388608)) s.persist.checkpoint.length

/-- Bytes of T1. -/
def t1Bytes : Nat := 192 * 2 ^ 30

/-- The regions of T1 before the page pool, in the order in which they lie back to back (Table 6.2): index nodes, sliver
directories, extent table, pin record arena, codec weights, queue-pair contexts, flash map cache, journals and request logs,
ingest landing area. -/
def t1Sizes (c : Nat) : List Nat :=
  [128 * c, 6144 * 64 * dirBuckets c, 128 * c, arenaBytes, 16 * 2 ^ 30, 128 * 2 ^ 20, 8 * 2 ^ 30, 2 ^ 30, 4 * 2 ^ 30]

/-- The base and the size of each region of T1, the page pool last (R162). -/
def t1Regions (c : Nat) : List (Nat × Nat) :=
  (List.range 10).map fun i =>
    let base := sumOf id ((t1Sizes c).take i)
    (base, (t1Sizes c).getD i (t1Bytes - base))

/-- The page pool of T1 in granules: the remainder (R162). -/
def t1Pool (c : Nat) : Nat := (t1Bytes - sumOf id (t1Sizes c)) / 512

/-- The byte address in T1 of a granule of the page pool. -/
def t1Address (c granule : Nat) : Nat := sumOf id (t1Sizes c) + 512 * granule

/-- INDEX_LOAD_DONE (R63, R92, R162): C is set, T1 divided, the checkpoint loaded; lookups and splice links are served. -/
def execIndexLoadDone (s : State) : Host.Outcome State Fault Refusal :=
  finish s (if s.power.step != 7 || s.power.flushing.isSome then s
    else
      let c := nodeCapacity s
      let ns := loadedNodes s
      bringUpAll { s with
        power := { s.power with step := 8 },
        index := { s.index with capacity := c, nodes := ns, replayLeft := liveRecords (indexRecords s), recovering := true },
        tiers := { s.tiers with t1Total := t1Pool c, t1Free := t1Pool c } })

/-- The flash granules that the nodes' T3 copies hold, or that a removal gives up once it has reached T3 (R90). -/
def runsHeld (s : State) : List (Nat × Nat) :=
  s.index.nodes.flatMap (fun n => (List.range n.groups.length).flatMap (flashRun n))
    ++ ((s.flash.flushing.getD []) ++ s.flash.pendingRecs ++ s.index.journalBuf.map JournalRec.index).flatMap freesOf

/-- Granules of a slot in a list of runs. -/
def slotUse (runs : List (Nat × Nat)) (slot : Nat) : Nat :=
  sumOf (fun (r : Nat × Nat) => sumOf (fun (x : Nat × Nat) => if x.1 == slot then x.2 else 0) (runSlots r.1 r.2)) runs

/-- Slots that no node refers to after replay fall free (R92). [DEDUCED, log 83] -/
def freeUnreferenced (s : State) : State :=
  let runs := runsHeld s
  (s.flash.map.filter fun m => decide (poolBase ≤ m.slot)).foldl (fun s m =>
    let extra := m.live - slotUse runs m.slot
    if 0 < extra then freeRun (32 * m.slot) extra s else s) s

/-- Step 4 of Table 3.5 at its end: every record that no later removal follows has been applied; nodes that no tier holds and
nothing else needs are gone. [DEDUCED, log 83] -/
def replayIndex (s : State) : State :=
  let live := liveRecords (indexRecords s)
  let ns := ((s.index.replayLeft.filter live.contains).foldl (replayRecord s) s.index.nodes).filter fun n =>
    n.groups.any groupPresent || n.dying || n.entryPresent || 0 < pinCountOf s n || !nodeUnheld s n
  freeUnreferenced { s with index := { s.index with nodes := ns, replayLeft := [], recovering := false } }

/-- JOURNAL_REPLAY_DONE (R92): the end is an event; replies above it carry no LOWER_BOUND. Full service begins. -/
def execJournalReplayDone (s : State) : Host.Outcome State Fault Refusal :=
  finish s (if s.power.step != 8 || s.power.flushing.isSome then s
    else goOn (tick (setPower (fun p => { p with step := 9 }) (replayIndex s))))

/-! ## The recovery service (R495, R496) -/

/-- Whether the recovery service takes a request: it runs, and a client's handshake has ended. [DEDUCED, log 113] -/
def recServed (s : State) : Bool := s.boot.recovery && s.mgmt.sessions.any fun m => m.role.isSome

/-- Answers a request that the service takes. -/
def recAnswer (k : State → Status × State) (s : State) : State :=
  if recServed s then
    let r := k s
    emit (.recovery (.done r.1)) r.2
  else s

/-- REC_STATUS. -/
def execRecStatus (s : State) : Host.Outcome State Fault Refusal :=
  let a := slotValid s.boot 0
  let b := slotValid s.boot 1
  let cause := if a || b then s.power.stopCause else 6
  finish s (if recServed s then emit (.recovery (.status cause s.boot.fuses a b s.boot.strapLow)) s else s)

/-- REC_WRITE_SLOT: the slot that is not active is written and verified, and the boot record then names it. -/
def execRecWriteSlot (image : Image) (s : State) : Host.Outcome State Fault Refusal :=
  finish s (recAnswer (fun s =>
    let n := inactiveSlot s.boot
    let b := withSlot n none s.boot
    if !imageForm image then (.badParam, if slotBytes < image.length then s else { s with boot := b })
    else match imageFailure s.boot.fuses image with
      | some st => (st, { s with boot := b })
      | none => (.ok, { s with boot := writeBootRecord n false (withSlot n (some image) b) })) s)

/-- Steps 5 and 6 of Table 17.8 as the recovery service runs them, for a request that needs the strap: `k` acts on the media that
they found. [DEDUCED, log 113] -/
def withMedia (pop : Population) (k : State → Status × State) (s : State) : Status × State :=
  if !s.boot.strapLow then (.denied, s)
  else
    let s1 := if s.power.trained.isSome then s else trainMemory pop s
    if s1.power.trained.isNone then (.notReady, s1)
    else if !s1.persist.formatted && !s1.persist.erased then (.integrity, s1)
    else k s1

/-- Step 6 in the recovery service: the counters resume and the reset generation rises, and both are persisted.
[DEDUCED, log 113] -/
def resumeMedia (s : State) : State :=
  let s1 := recoverFtl s
  programGen { s1 with persist := { s1.persist with writeSeq := s1.flash.writeSeq, writeNo := s1.tiers.writeNo } }

/-- REC_FORMAT (R496). [DEDUCED, log 113] -/
def execRecFormat (overprovision : Byte) (reserved : BitVec 56) (pop : Population) (s : State) : Host.Outcome State Fault Refusal :=
  finish s (recAnswer (fun s =>
    if !s.boot.strapLow then (.denied, s)
    else if 2 < overprovision.toNat || reserved != 0 then (.badParam, s)
    else withMedia pop (fun s =>
      let s1 := resumeMedia s
      let s2 := formatMedia overprovision.toNat s1
      (.ok, { s2 with flash := { s2.flash with map := [], bands := [], pendingRecs := [], dirtySegs := [] } })) s) s)

/-- REC_ANCHOR_CLEAR: the device is unclaimed again (R485). Erased media is formatted first, as step 6 does. [DEDUCED, log 113] -/
def execRecAnchorClear (pop : Population) (s : State) : Host.Outcome State Fault Refusal :=
  finish s (recAnswer (withMedia pop (fun s =>
    let s1 := resumeMedia (if s.persist.erased then formatMedia 0 s else s)
    let c := { s1.persist.config with anchor := 0, seq := (s1.persist.config.seq + 1) % 2 ^ 64 }
    (.ok, { s1 with persist := { s1.persist with config := c } }))) s)

/-- REC_RESET: the answer, then the reset. [DEDUCED, log 113] -/
def execRecReset (s : State) : Host.Outcome State Fault Refusal :=
  finish s (if recServed s then fullChipReset (emit (.recovery (.done .ok)) s) else s)

end Sys2Proof.Machine
end

