-- ==== Sys2Proof/Machine/FaultRows.lean ====
section
/-! DEFINITION. The faults that end in a stop-all or a full-chip reset, the restart after a stop-all, and the SRAM scrub
(chapter "Fault detection, containment and spares"). -/
namespace Sys2Proof.Machine

/-- A core of the control complex has failed: it has no spare, and the other cores take its steps (Table 16.7). -/
def loseCore (i : Nat) (s : State) : State := if s.eng.control.active.contains i then failInst .control i s else s

/-- SKOMET_WATCHDOG (R439): a step hung for 2^22 CORE cycles; the row does not say on which core. [DESIGN CHOICE, log 143, 170] -/
def execSkometWatchdog (s : State) : Host.Outcome State Fault Refusal :=
  let (k, s1) := useFree s
  finish s (if 5 ≤ s.power.step then stopAll 1 0 (loseCore (Config.hungCore k % 16) (countFault 9 1 s1)) else s)

/-- Granules of an HBM pseudo-channel in the page pool: 0.75 GiB (Table 16.7). [UNVERIFIED, log 119] -/
def channelGranules : Nat := 1572864

/-- A failed pseudo-channel leaves the page pool; the copies on it are handled under R442 and R443. [UNVERIFIED, log 119] -/
def loseChannel (pc : Nat) (s : State) : State :=
  let hit := s.index.nodes.flatMap fun n => ((List.range n.groups.length).filter fun g =>
    (((groupAt n g).bind (·.t1)).map fun loc => Config.hbmChannel loc == pc).getD false).map fun g => (n.ptr, g)
  let s1 := raise 0x0008 0 7 pc (Int.ofNat 0xFFFFFFFF) (countFault 15 1 s)
  let s2 : State := hit.foldl (fun s x => dataError x.1 x.2 .t1 s) s1
  { s2 with tiers := { s2.tiers with t1Total := s2.tiers.t1Total - channelGranules, t1Free := s2.tiers.t1Free - channelGranules } }

/-- CONTROL_CORE_FAULT (R439, R446): an isolation fault of the control complex, whose `detail` names the core, of a shared
table, a key slot or the fabric; or the loss of the HBM pseudo-channel `detail`, which is one when it held contents of a shared
table. [UNVERIFIED, log 119; DESIGN CHOICE, log 143, 170] -/
def execControlCoreFault (source : Nat) (detail : U32) (s : State) : Host.Outcome State Fault Refusal :=
  let d := detail.toNat
  finish s (if s.power.step < 5 then s
    else if source == 6 then (if Config.channelTables d then stopAll 6 d (loseChannel d s) else goOn (loseChannel d s))
    else stopAll source d (if source == 1 then loseCore d s else s))

/-- STOP_ALL_RESTART (R447, R448): steps 7 to 9 of Table 16.4, with the activation that the reset belongs to or has joined.
[DEDUCED, log 90] -/
def execStopAllRestart (s : State) : Host.Outcome State Fault Refusal :=
  finish s (if s.sec.transition then finishActivation (finishCompute s) else s)

/-- ROOT_OF_TRUST_FAULT (R437): beyond the reach of a stop-all. -/
def execRootOfTrustFault (unitKind : Nat) (cause : U32) (s : State) : Host.Outcome State Fault Refusal :=
  finish s (if s.power.step == 0 then s else decideReset 7 (fatalEvent unitKind cause.toNat (countFault 14 1 s)))

/-- ENTROPY_HEALTH_FAIL (R388): a fault of the root of trust. [DEDUCED, log 118] -/
def execEntropyHealthFail (s : State) : Host.Outcome State Fault Refusal :=
  finish s (if s.power.step == 0 then s else decideReset 7 (fatalEvent 1 Config.entropyCause (countFault 14 1 s)))

/-- The command whose unit's words are lost ends with ST_DATA_LOST (R439, R444). [DEDUCED, log 120] -/
def loseUnitOf (slot : Nat) (s : State) : State :=
  match s.eng.storyboards.find? fun b => b.slot == slot with
  | some b => abortSb b.id .dataLost s
  | none => match findAttend s slot with
    | some (b, x) => failAttend b.id slot x.membership .dataLost s
    | none => match findCmd s slot, s.index.lookups.any fun l => l.slot == slot && !l.isOver with
      | some c, true => failRef c .dataLost (dropRun slot s)
      | _, _ => s

/-- SRAM_SCRUB (R438, R439): errors counted; an unreadable owner tag is an isolation fault. [DEDUCED, log 120] -/
def execSramScrub (corrected uncorrectable : Nat) (victims : List Nat) (ownerTagLost : Bool) (s : State) :
    Host.Outcome State Fault Refusal :=
  let s1 := victims.foldl (fun s v => loseUnitOf v s) (countFault 1 uncorrectable (countFault 0 corrected s))
  finish s (if !s.power.clocksOn then s
    else if ownerTagLost then stopAll 2 0 s1
    else goOn s1)

end Sys2Proof.Machine
end

