-- ==== Sys2Proof/Machine/CutMarker.lean ====
section
/-! DEFINITION. The cut marker (R454) and what happens at it: snapshots (R309), settings that come into force (R312, R314, R317,
R321), the wear governor (R180), rate quotas (R329), the packer's partial slots (R258), and the ledger check (R332). -/
namespace Sys2Proof.Machine

/-! ## Snapshots (R309, R178) -/

/-- THROTTLE_WINDOWS counts the window that closes, when n was above 0 in it (R479). -/
def countThrottle (s : State) : State :=
  setPower (fun p => { p with throttleWindows := p.throttleWindows + flagBit p.throttledNow 0, throttledNow := decide (0 < p.skip) }) s

/-- The tenants that have a tenant set: those with a registry entry or some use. -/
def countedTenants (s : State) : List Nat := (s.cfg.tenants.map (·.tenant) ++ s.jobs.use.map (·.tenant)).eraseDups

/-- A tenant's use as the next window starts (R329), with the set of the window that closes. -/
def closeUse (s : State) (t : Nat) : TenantUse :=
  { tenant := t, ingestBytes := 0, t3Bytes := 0, attendUnits := 0, refusals := 0, parks := 0, snapshot := tenantCounterRecs s (useOf s t) }

/-- Every set as it stands at the marker; the rate counters return to zero. [DESIGN CHOICE, log 41] -/
def takeSnapshots (s : State) : State :=
  let stats := deviceCounters s
  let use := (countedTenants s).map (closeUse s)
  let jobs := s.jobs.table.map fun j => { j with snapshot := j.counters }
  let scopes := s.jobs.table.flatMap fun j => j.scopes.map fun x => (j.tenant, x)
  { s with clk := { s.clk with stats := stats }, jobs := { s.jobs with table := jobs, use := use, scopeSnap := scopes } }

/-! ## Settings (R312, R314, R317, R321) -/

/-- R317: a lowered limit lowers the pin quota of the tenant's open jobs. -/
def limitPins (s : State) : State :=
  let limit := fun (j : Job) =>
    let q := (quotasOf s j.tenant).jobPinLimit
    if q == BitVec.allOnes 32 then j else { j with pinQuota := min j.pinQuota q.toNat }
  { s with jobs := { s.jobs with table := s.jobs.table.map limit } }

/-! ## The wear governor (R180, R181) -/

/-- EV_WEAR_GOVERNOR (Table 16.9). [DEDUCED, log 123] -/
def wearEvent (what : Nat) (s : State) : State := raise 0x000B 0 0 (what * 2 ^ 24 + s.persist.theta) s.persist.credit s

/-- θ after the credit of the marker. [DEDUCED, log 123] -/
def thetaAfter (credit cap : Int) (theta : Nat) : Nat :=
  if credit * 4 < cap then min 65535 (theta + 512) else if cap * 3 < credit * 4 then theta - 128 else theta

/-- WEAR_GOVERNOR_UPDATE: the governor's steps of R180, and its events (R181). [DEDUCED, log 111, 123] -/
def wearGovernor (s : State) : State :=
  let cap : Int := Int.ofNat (creditCap s)
  let c0 : Int := min cap (s.persist.credit + Int.ofNat (windowBudget s)) - Int.ofNat s.tiers.charged
  let credit := max c0 (-cap)
  let old := s.persist.theta
  let theta := thetaAfter credit cap old
  let was := s.tiers.suspended
  let now := decide (credit ≤ 0)
  let s1 : State := { s with persist := { s.persist with credit := credit, theta := theta },
                             tiers := { s.tiers with charged := 0, suspended := now } }
  let s2 := if now && !was then wearEvent 1 s1 else if was && !now then wearEvent 2 s1 else s1
  if old ≤ 32768 && 32768 < theta then wearEvent 3 s2
  else if 32768 < old && theta ≤ 32768 then wearEvent 4 s2 else s2

/-! ## Hints and re-seals -/

/-- Whether a hint of a node already waits. -/
def hintWaits (s : State) (ptr : Nat) : Bool :=
  dollyWaits s fun r => match r with
    | .hint p _ _ => p == ptr
    | _ => false

/-- The cores ask once a window for the hints that have changed (R99). -/
def askHints (s : State) : State :=
  (s.index.nodes.filter fun n => n.entryPresent && !hintWaits s n.ptr
      && s.marr.entries.any fun e => e.valid && e.nodePtr == n.ptr && e.tierHint != tierHintOf n).foldl
    (fun s n => askHint n s) s

/-- Codec weights copies are re-sealed under their tenant's newest epoch (R405). [DEDUCED, log 125] -/
def resealWeights (s : State) : State :=
  let ps := s.eng.profiles.map fun p => { p with sealEpoch := (epochsOf s p.tenant).newest }
  let ws := s.persist.weights.map fun w => { w with sealEpoch := (epochsOf s w.tenant).newest }
  { s with eng := { s.eng with profiles := ps }, persist := { s.persist with weights := ws } }

/-- The refills that a sliver may ask for in the new window (R119). [DEDUCED, log 52] -/
def renewRefills (s : State) : State :=
  { s with index := { s.index with slivers := s.index.slivers.map fun v => { v with refills := 0 } } }

/-! ## The ledger (R331, R332) -/

/-- Pages of the extents that are dirty in a tier. -/
def dirtyPages (s : State) (d : Dirty) : Nat :=
  sumOf (fun n => sumOf (fun g => if ((groupAt n g).map fun x => x.dirty == d).getD false then groupLayers n g else 0)
    (List.range n.groups.length)) s.index.nodes

/-- The pins of the ledger's other side (R82): those of records not yet freed, the drops in flight, and between a pin's take and its
command's reply those that runs and commits have taken. -/
def pinsHeld (s : State) : Nat :=
  sumOf (fun r => r.pins.length) s.index.records + s.index.dropsInFlight
    + sumOf (fun l => if takesPins l.kind then (l.probes.filter isGood).length else 0) (liveRuns s)
    + sumOf (fun g =>
        if g.pinOnCommit && (g.phase == .inserting || g.phase == .undoing) then
          (g.inserts.filter fun x => x.2.isSome && (g.phase == .inserting || decide (x.1 < g.failedAt.getD (g.newBlocks + 1)))).length
        else 0) s.tiers.ingests

/-- Stage slots that work holds, and those that hold a removed row (R450). [DEDUCED, log 121] -/
def stageHeld (s : State) : Nat :=
  let n := fun (t : Taken) => t.lc + t.shared
  let units := sumOf (fun k => let e := getEngine s k; sumOf (fun u => n u.held) (e.busy.map (·.2) ++ e.lcq ++ e.beq)) allKinds
  units + sumOf (fun x => n x.held) s.tiers.incoming
    + sumOf (fun b => sumOf (fun w => sumOf (fun h => n h.2) w.held) b.layers) s.eng.storyboards
    + sumOf (fun b => sumOf (fun x => n x.held) b.members + sumOf (fun x => n x.2.2) b.staged) s.eng.batches
    + sumOf (fun p => n p.held) (s.flash.programs ++ s.flash.waiting) + sumOf (fun a => n a.held) s.flash.assembling + s.faults.badSlots

/-- Whether the link credits of a port balance: those free and those that its running units hold. [DEDUCED, log 121] -/
def creditsBalance (s : State) (k : EngineKind) : Bool :=
  match creditPool s k with
  | none => true
  | some p => p.lcFree + p.sharedFree + sumOf (fun b => b.2.creditsHeld.lc + b.2.creditsHeld.shared) (getEngine s k).busy == p.total

/-- The quantity of Table 11.8 whose books do not balance, by its row: 1 stage slots, 2 link credits, 3 ingest slots, 4 command
slots, 5 pins, 6 dirty counts. [DEDUCED, log 121] -/
def unbalanced (s : State) : Option Nat :=
  if s.eng.stage.lcFree + s.eng.stage.sharedFree + stageHeld s != Config.stageSlots then some 1
  else if !allKinds.all (creditsBalance s) then some 2
  else if s.tiers.landingPool.lcFree + s.tiers.landingPool.sharedFree + s.tiers.landing.length != Config.landingSlots then some 3
  else if s.jobs.slotsFree + s.jobs.cmds.length != Config.commandSlots then some 4
  else if sumOf (pinCountOf s) s.index.nodes != pinsHeld s then some 5
  else if s.tiers.dirtyT1 != dirtyPages s .t1 || s.tiers.dirtyT2 != dirtyPages s .t2 then some 6
  else none

/-- LEDGER_CHECK: an imbalance is a stop-all. [DEDUCED, log 121] -/
def ledgerCheck (s : State) : State :=
  match unbalanced s with
  | none => s
  | some q => stopAll 5 q s

/-- What the marker brings about once FTL recovery has ended. [DEDUCED, log 111, 124] -/
def atMarker (s : State) : State :=
  let s0 : State := { s with flash := { s.flash with markerDue := true } }
  let s1 := wearGovernor (limitPins (applySettings (sweepProfiles s0)))
  ledgerCheck (goOn (freeLeaving (programPartial (askHints (renewRefills (resealWeights s1))))))

/-- CUT_MARKER: it takes a slate number and closes the window; the next events belong to the next (R454). [DEDUCED, log 124] -/
def execCutMarker (s : State) : Host.Outcome State Fault Refusal :=
  finish s (if !s.power.clocksOn then s
    else
      let s1 := takeSnapshots (countThrottle (tick s))
      let s2 := { s1 with clk := { s1.clk with window := s1.clk.window + 1 } }
      if 7 ≤ s.power.step && s.power.flushing.isNone then atMarker s2 else s2)

end Sys2Proof.Machine
end

