-- ==== Sys2Proof/Machine/Jobs.lean ====
section
/-! DEFINITION. JOB_OPEN, JOB_CLOSE, JOB_CLOSE_FINISH and JOB_QUERY (R305 to R308, Table 11.1), and an unknown opcode. -/
namespace Sys2Proof.Machine

/-! ## JOB_OPEN -/

/-- TENANT of the JOB_HANDLE field. -/
def openTenant (p : Packet) : Nat := bitsOf p.jobHandle.toNat 20 12

/-- Whether a TAP instruction of R417 other than IDCODE and BYPASS is loaded. [DEDUCED, log 105] -/
def boundaryScan (s : State) : Bool := s.sec.tap != .idcode && s.sec.tap != .bypass

/-- Check 1 of R306, with R417. -/
def openDenied (s : State) (p : Packet) : Bool :=
  boundaryScan s || (findLane s p.lane).isSome
    || !((findTenant s (openTenant p)).map fun t => t.registered && !t.withdrawn).getD false

/-- Check 3 of R306 (R396): a first packet's NONCE, the unwrapped secret and the tag. [DEDUCED, log 2] -/
def openAuthentic (p : Packet) (a : JobOpenParams) : Bool :=
  packetAuthentic p 0 && (a.secret.map fun x => x.length == 48 && x.resetGen == a.reportGen
    && x.tenant.toNat == openTenant p && x.reserved == 0).getD false

/-- JO_FLAGS. -/
def joFlag (a : JobOpenParams) (i : Nat) : Bool := bitOf a.joFlags.toNat i

/-- Check 4 of R306, with R416: GRANT_SIG, and DEBUG_CONSENT while debug is unlocked. -/
def openGranted (s : State) (a : JobOpenParams) : Bool := a.grantOk && (s.cfg.debugState == 0 || joFlag a 1)

/-- Check 5 of R306: reserved fields and ranges (R9, Table 10.12). -/
def openForm (p : Packet) (a : JobOpenParams) : Bool :=
  headerReservedZero p && bitsOf p.jobHandle.toNat 0 20 == 0 && a.reserved004 == 0 && a.reserved40E == 0
    && a.reserved414 == 0 && a.reserved438 == 0 && bitsOf a.joFlags.toNat 3 5 == 0 && bitsOf a.pinQuota.toNat 25 7 == 0
    && decide (1 ≤ a.scopeCount.toNat) && decide (a.scopeCount.toNat ≤ 16) && a.scopes.length == 16
    && (a.scopes.drop a.scopeCount.toNat).all (· == 0)

/-- The session keys that the command's secret gives (R389, Table 14.2). -/
def openKeys (s : State) (p : Packet) (a : JobOpenParams) : JobKeys :=
  jobKeys ((a.secret.map (·.secret)).getD 0) (openTenant p) s.sec.resetGen

/-- A sealed reply to a JOB_OPEN that binds nothing: its job has no entry and its lane's counter starts at 1. [DEDUCED, log 17] -/
def openRefused (key : BitVec 256) (p : Packet) (st : Status) (r0 : U32) (r1 : U64) (s : State) : State :=
  let s1 := tick s
  putReply .lc { lane := p.lane, tag := p.tag, status := st, flags := noFlags, result0 := r0, result1 := r1,
                 slate := s1.clk.slate, sealed := some (key, 1) } s1

/-- The first check from 4 on, and after them the checks of steps 5 and 6 of Table 10.9, that a JOB_OPEN fails. [DEDUCED, log 17] -/
def openFailure (s : State) (p : Packet) (a : JobOpenParams) : Option (Status × U32 × U64) :=
  let t := openTenant p
  let cls := classOf s t (if joFlag a 0 then .be else .lc) p
  if !openGranted s a then some (.denied, 0, 0)
  else if !openForm p a then some (.badParam, 0, 0)
  else if spent (quotasOf s t).openJobs (tenantJobs s t) then some (.quota, 0, 0)
  else if s.jobs.pool.free == 0 then some (.noSpace, 0, 0)
  else if versionOf p != 1 then some (.badOpcode, 1, 0)
  else if routeKind p == 1 && routeLane p != p.lane then some (.denied, 0, 0)
  else if spent (quotasOf s t).commandsInFlight (tenantCommands s t) then some (.quota, 0, 0)
  else if s.jobs.slotsFree == 0 || (cls == .be && decide (s.jobs.slotsFree ≤ Config.commandHeadroom)) then
    some (.busy, BitVec.ofNat 32 (Config.busyHint s.free % 65536), 1)
  else none

/-- The requested pin quota (Table 10.12). -/
def openQuota (a : JobOpenParams) : Nat := if bitOf a.pinQuota.toNat 24 then bitsOf a.pinQuota.toNat 0 24 else 65536

/-- A landing key that no open job holds (R347): the DRBG is drawn until it clashes with none. -/
def drawKey (s : State) : Nat → U32 × State
  | 0 => let (k, s1) := useFree s; (BitVec.ofNat 32 (Config.drbg k), s1)
  | fuel + 1 =>
    let (k, s1) := useFree s
    let v : U32 := BitVec.ofNat 32 (Config.drbg k)
    if s.jobs.table.any fun j => j.landingKey == v then drawKey s1 fuel else (v, s1)

/-- No counter has counted yet. -/
def zeroCounters : JobCounters :=
  { commandsAccepted := 0, commandsFailed := 0, authFailures := 0, busyReplies := 0, lateLayers := 0, rawLayers := 0,
    cueDiscards := 0, ingestDuplicates := 0, ingestRejects := 0, slotDiscards := 0, codecSaturations := 0,
    overflowRows := 0 }

/-- Steps 1 and 2 of Table 11.1: the entry, the session keys, the arrival lane's binding, and the reply. -/
def openJob (i : Instr) (p : Packet) (a : JobOpenParams) (s : State) : State :=
  match s.jobs.pool.take with
  | none => s
  | some (idx, g, pool) =>
    let t := openTenant p
    let (key, s1) := drawKey s s.jobs.table.length
    let limit := (quotasOf s t).jobPinLimit
    let granted := min (openQuota a) limit.toNat
    let j : Job := { index := idx, gen := g, tenant := t, closing := false, closeSlot := none,
                     scopes := a.scopes.take a.scopeCount.toNat, clsDefault := if joFlag a 0 then .be else .lc,
                     debugConsent := joFlag a 1, rawFallback := joFlag a 2, modelId := a.modelId, pinQuota := granted,
                     keys := openKeys s p a, landingKey := key, linkCounter := 0, lanesEver := [], cancelledSinceClose := 0,
                     counters := zeroCounters, snapshot := zeroCounters }
    let s2 := bindLane idx p.lane (nonceCounter p.nonce)
      { s1 with jobs := { s1.jobs with table := s1.jobs.table ++ [j], pool := pool } }
    let c := newCmd s2 i p (some j)
    complete c .ok noFlags (BitVec.ofNat 32 (jobHandle j)) (BitVec.ofNat 64 (granted + s.sec.resetGen * 2 ^ 32)) (takeSlot c s2)

/-- JOB_OPEN (R305, R306): its own framing, step 2, then its numbered checks in order. [DEDUCED, log 17] -/
def doJobOpen (p : Packet) (a : JobOpenParams) (s : State) : State :=
  if p.path == .mgmt then (intake (.jobOpen p a) (opEarly 0x0101) p s).1
  else if !laneServed s p then s
  else if !framingOk p || paramLen p != 0x440 || descCount p != 0 then plainReply p.lane p.tag .badParam noFlags 0 0 s
  else if answersTransition s p then plainReply p.lane p.tag .transition noFlags 0 0 s
  else if openDenied s p then plainReply p.lane p.tag .denied noFlags 0 0 s
  else if a.reportGen.toNat != s.sec.resetGen then plainReply p.lane p.tag .keyStale noFlags 0 0 s
  else if !openAuthentic p a then plainReply p.lane p.tag .integrity noFlags 0 0 s
  else match openFailure s p a with
    | some (st, r0, r1) =>
      openRefused (openKeys s p a).reply p st r0 r1 (if st == .quota then setUse (openTenant p) (fun u => { u with refusals := u.refusals + 1 })
          (if st == .busy then { s with free := s.free + 1 } else s)
        else if st == .busy then { s with free := s.free + 1 } else s)
    | none => openJob (.jobOpen p a) p a s

/-- JOB_OPEN. On the management path, which carries no job opcode, it is refused as any such opcode is (R297). -/
def execJobOpen (p : Packet) (a : JobOpenParams) (s : State) : Host.Outcome State Fault Refusal :=
  finish s (onLane (.jobOpen p a) p (doJobOpen p a) s)

/-! ## JOB_CLOSE -/

/-- JOB_CLOSE acts from its acceptance, even while FENCE holds it (R307), unless its parameters refuse it. -/
def closeAccept (p : Packet) (reserved : U64) (c : Cmd) (s : State) : State :=
  match jobOf s c with
  | none => s
  | some j =>
    if !formOk p 8 [] (reserved == 0) then s
    else startClose j.index (some c.slot) s

/-- JOB_CLOSE's run: a bad form fails; otherwise it waits for JOB_CLOSE_FINISH. -/
def closeRun (p : Packet) (reserved : U64) (c : Cmd) (s : State) : State :=
  if !formOk p 8 [] (reserved == 0) then fail c .badParam s else park c.slot .jobDrain s

/-- JOB_CLOSE (R307). -/
def execJobClose (p : Packet) (reserved : U64) (s : State) : Host.Outcome State Fault Refusal :=
  finish s (command (.jobClose p reserved) (opEarly 0x0102) p (closeAccept p reserved) (closeRun p reserved) s)

/-- JOB_CLOSE_FINISH (steps 4 and 5 of Table 11.1), once every other command of the job has replied. -/
def doJobCloseFinish (job : Nat) (s : State) : State :=
  match findJob s job with
  | none => s
  | some j => if closeDue s j then finishJob j s else s

/-- JOB_CLOSE_FINISH. -/
def execJobCloseFinish (job : Nat) (s : State) : Host.Outcome State Fault Refusal := finish s (doJobCloseFinish job s)

/-! ## JOB_QUERY -/

/-- RESULT0 and RESULT1 of JOB_QUERY (R308). -/
def queryResult0 (s : State) (j : Job) : U32 :=
  BitVec.ofNat 32 (jobPins s j.index + lanesBound s j.index * 2 ^ 24 + flagBit (j.clsDefault == .be) 29
    + flagBit j.debugConsent 30 + flagBit j.rawFallback 31)
def queryResult1 (s : State) (j : Job) : U64 :=
  BitVec.ofNat 64 ((s.eng.storyboards.filter fun b => b.job == j.index).length
    + (s.eng.memberships.filter fun m => m.job == j.index).length * 2 ^ 16
    + (s.tiers.ingests.filter fun g => g.job == j.index).length * 2 ^ 32
    + (s.jobs.cmds.filter fun c => c.job == some j.index).length * 2 ^ 48)

/-- JOB_QUERY's run. -/
def runJobQuery (p : Packet) (reserved : U64) (c : Cmd) (s : State) : State :=
  match jobOf s c with
  | none => fail c .noJob s
  | some j =>
    if !formOk p 8 [] (reserved == 0) then fail c .badParam s
    else done c (queryResult0 s j) (queryResult1 s j) s

/-- JOB_QUERY (R308). -/
def execJobQuery (p : Packet) (reserved : U64) (s : State) : Host.Outcome State Fault Refusal :=
  finish s (command (.jobQuery p reserved) (opEarly 0x0103) p atOnce (runJobQuery p reserved) s)

/-! ## UNKNOWN_OPCODE -/

/-- Intake of a packet whose opcode no table lists. -/
def doUnknownOpcode (p : Packet) (s : State) : State := (intake (.unknownOpcode p) (opEarly 0) p s).1

/-- An opcode that is not in Table 10.11 (R299): sealed ST_BAD_OPCODE with RESULT0 0. -/
def execUnknownOpcode (p : Packet) (s : State) : Host.Outcome State Fault Refusal :=
  finish s (onLane (.unknownOpcode p) p (doUnknownOpcode p) s)

end Sys2Proof.Machine
end

