-- ==== Sys2Proof/Machine/MatchArray.lean ====
section
/-! DEFINITION. The match array's own commands (chapter "The match array"): the dolly's requests and reports, the tenant
sweep, the refill, the continuity scan, the periodic node visit, and a failed reel core. -/
namespace Sys2Proof.Machine

/-! ## The dolly's order (R109) -/

/-- The rank of a request: sweeps, repairs, removals, then inserts and hints. -/
def dollyRank : DollyReq → Nat
  | .sweep _ => 0
  | .repair _ _ => 1
  | .remove _ _ _ => 2
  | .insert _ _ _ _ _ => 3
  | .hint _ _ _ => 3

/-- PRIORITY of an insert; other requests are not ordered by it. -/
def insertPriority : DollyReq → Option Nat
  | .insert _ _ _ p _ => some p
  | _ => none

/-- The better of two requests of one rank, the first having arrived earlier: an insert gives way to a later insert of higher
PRIORITY only. -/
def dollyBetter (a b : DollyReq) : DollyReq :=
  match insertPriority a, insertPriority b with
  | some p, some q => if p < q then b else a
  | _, _ => a

/-- The requests that may be taken: of those that concern one node, the first (R109). -/
def dollyHeads : List Nat → List DollyReq → List DollyReq
  | _, [] => []
  | seen, r :: rs => match dollyNode r with
    | none => r :: dollyHeads seen rs
    | some p => if seen.contains p then dollyHeads seen rs else r :: dollyHeads (p :: seen) rs

/-- The request that a section takes next. -/
def dollyNext (rs : List DollyReq) : Option DollyReq :=
  (dollyHeads [] rs).foldl (fun best r => match best with
    | none => some r
    | some b => if dollyRank r < dollyRank b then some r else if dollyRank b < dollyRank r then some b else some (dollyBetter b r)) none

/-- A section of the array. -/
def findSection (s : State) (n : Nat) : Option Section := s.marr.sections.find? fun x => x.num == n

/-- Runs a section's next request when `f` takes it; otherwise the dolly's next request there is of another kind and this
event does not occur. The place that it leaves takes the next request of an outbox (R109). -/
def dollyStep (sect : Nat) (f : DollyReq → Option (State → State)) (s : State) : State :=
  match (findSection s sect).bind fun x => dollyNext x.requests with
  | none => s
  | some r => match f r with
    | none => s
    | some g =>
      let ss := updWhere (fun y : Section => y.num == sect) (fun y => { y with requests := y.requests.erase r }) s.marr.sections
      drainOutboxes (g { s with marr := { s.marr with sections := ss } })

/-- Adds a report on its way to the owning core. -/
def dollyReport (r : DollyReport) (s : State) : State := { s with marr := { s.marr with reports := s.marr.reports ++ [r] } }

/-- Replaces the entries. -/
def setEntries (es : List MatchEntry) (s : State) : State := { s with marr := { s.marr with entries := es } }

/-! ## INSERT (R104, R105) -/

/-- The valid entry at a position of a bank. -/
def entryAtPos (es : List MatchEntry) (bank pos : Nat) : Option MatchEntry :=
  es.find? fun e => e.valid && e.bank == bank && e.pos == pos

/-- p: the first position whose valid entry has a lower PRIORITY; with none, the place after the last valid entry.
[DEDUCED, log 53] -/
def insertPos (es : List MatchEntry) (bank pri : Nat) : Nat :=
  match (List.range 256).find? fun i => ((entryAtPos es bank i).map fun e => decide (e.priority < pri)).getD false with
  | some p => p
  | none => ((es.filter fun e => e.valid && e.bank == bank).map fun e => e.pos + 1).foldl max 0

/-- h: the first position at or after p that holds no valid entry. [DEDUCED, log 53] -/
def holePos (es : List MatchEntry) (bank p : Nat) : Option Nat :=
  (List.range 256).find? fun i => decide (p ≤ i) && (entryAtPos es bank i).isNone

/-- The entries of a bank with those at positions p to `last` moved one place further along, and the entry after them
overwritten. -/
def shiftEntries (es : List MatchEntry) (bank p last : Nat) : List MatchEntry :=
  (es.filter fun e => !(e.bank == bank && ((!e.valid && decide (p ≤ e.pos) && decide (e.pos ≤ last + 1))
    || (p ≤ last + 1 && e.pos == last + 1)))).map fun e =>
    if e.bank == bank && e.valid && decide (p ≤ e.pos) && decide (e.pos ≤ last) then { e with pos := e.pos + 1 } else e

/-- Inserts one entry (Table 4.5). [DEDUCED, log 53] -/
def insertEntry (ptr : Nat) (lo : U64) (tenant pri hint : Nat) (s : State) : State :=
  let b := bankOf lo
  let es := s.marr.entries
  let p := insertPos es b pri
  let e : MatchEntry := writeEntry { bank := b, pos := p, valid := true, priority := pri, tenant := tenant, keyLo := lo, nodePtr := ptr,
                                     tierHint := hint, parityA := false, parityB := false }
  if s.marr.absent.contains b || decide (256 ≤ p) then dollyReport (.declined ptr) s
  else match holePos es b p with
    | some h =>
      let moved := if h == p then es.filter fun x => !(x.bank == b && x.pos == p) else shiftEntries es b p (h - 1)
      dollyReport (.valid ptr) (setEntries (e :: moved) s)
    | none =>
      let tail := entryAtPos es b 255
      let moved := if p == 255 then es.filter fun x => !(x.bank == b && x.pos == 255) else shiftEntries es b p 254
      let s1 := setEntries (e :: moved) s
      dollyReport (.valid ptr) (match tail with
        | none => s1
        | some t => dollyReport (.displaced t.nodePtr) s1)

/-- DOLLY_INSERT. -/
def doDollyInsert (sect : Nat) (s : State) : State :=
  dollyStep sect (fun r => match r with
    | .insert ptr lo tenant pri hint => some (insertEntry ptr lo tenant pri hint)
    | _ => none) s

/-- DOLLY_INSERT (R105). -/
def execDollyInsert (sect : Nat) (s : State) : Host.Outcome State Fault Refusal := finish s (doDollyInsert sect s)

/-! ## REMOVE, HINT, REPAIR -/

/-- DOLLY_REMOVE: the entry is found by tag, tenant and NODE_PTR (R109, Table 4.4). -/
def doDollyRemove (sect : Nat) (s : State) : State :=
  dollyStep sect (fun r => match r with
    | .remove ptr lo tenant => some fun s =>
        dollyReport (.invalidated ptr) (setEntries (updWhere
          (fun e => e.valid && e.nodePtr == ptr && e.keyLo == lo && e.tenant == tenant) clearEntry s.marr.entries) s)
    | _ => none) s

/-- DOLLY_REMOVE. -/
def execDollyRemove (sect : Nat) (s : State) : Host.Outcome State Fault Refusal := finish s (doDollyRemove sect s)

/-- DOLLY_HINT (R107). -/
def doDollyHint (sect : Nat) (s : State) : State :=
  dollyStep sect (fun r => match r with
    | .hint ptr lo h => some fun s =>
        setEntries (updWhere (fun e => e.valid && e.nodePtr == ptr && e.keyLo == lo) (fun e => writeEntry { e with tierHint := h }) s.marr.entries) s
    | _ => none) s

/-- DOLLY_HINT. -/
def execDollyHint (sect : Nat) (s : State) : Host.Outcome State Fault Refusal := finish s (doDollyHint sect s)

/-- The physical bank of a bank number. -/
def physBank (s : State) (b : Nat) : Nat :=
  if 16384 ≤ b then b - 16384 else ((s.marr.bankMap.find? fun m => m.1 == b).map (·.2)).getD (logicalBankUnit b)

/-- DOLLY_REPAIR (R114): VALID is cleared at a valid entry's position, and with half B good its NODE_PTR goes to the owning core; an
invalid position is rewritten in both halves. [DEDUCED, log 153] -/
def doDollyRepair (sect : Nat) (s : State) : State :=
  dollyStep sect (fun r => match r with
    | .repair bank pos => some fun s =>
        let es := updWhere (fun x => x.bank == bank && x.pos == pos) rewriteEntry s.marr.entries
        let s1 := { s with marr := { s.marr with entries := es, repaired := (physBank s bank, pos) :: s.marr.repaired } }
        match entryAtPos s.marr.entries bank pos with
        | none => s1
        | some e =>
          let s2 := countFault 7 1 s1
          if halfBOk e then dollyReport (.repaired e.nodePtr bank (tagLo e.keyLo)) s2 else s2
    | _ => none) s

/-- DOLLY_REPAIR. -/
def execDollyRepair (sect : Nat) (s : State) : Host.Outcome State Fault Refusal := finish s (doDollyRepair sect s)

/-! ## TENANT_SWEEP (R120) -/

/-- TENANT_SWEEP: the four sections sweep in parallel, ahead of every other request; the cores clear ENTRY_PRESENT.
[DEDUCED, log 56] -/
def doTenantSweep (t : BitVec 12) (s : State) : State :=
  let n := t.toNat
  if s.marr.sections.any fun x => x.requests.contains (.sweep n) then
    let ss := s.marr.sections.map fun x => { x with requests := x.requests.filter fun r => r != .sweep n }
    let es := updWhere (fun e : MatchEntry => e.tenant == n) clearEntry s.marr.entries
    let mine := fun ptr => ((findNode s ptr).map fun m => m.tenant == n).getD false
    let rs := s.marr.reports.filter fun r => match r with
      | .valid ptr => !mine ptr
      | _ => true
    let ns := updWhere (fun m : Node => m.tenant == n) (fun m => { m with entryPresent := false }) s.index.nodes
    drainOutboxes { s with marr := { s.marr with sections := ss, entries := es, reports := rs }, index := { s.index with nodes := ns } }
  else s

/-- TENANT_SWEEP. -/
def execTenantSweep (tenant : BitVec 12) (s : State) : Host.Outcome State Fault Refusal := finish s (doTenantSweep tenant s)

/-! ## Reports (R64, R110, R114) -/

/-- What a repaired entry's owner does: ENTRY_PRESENT falls, since the entry is gone, and the core asks for the entry again when
the node still fits the bank and the tag. [DESIGN CHOICE, log 158] -/
def reinsert (ptr bank tag : Nat) (s : State) : State :=
  match findNode s ptr with
  | none => s
  | some n =>
    let n1 := { n with entryPresent := false }
    let s1 := setNode ptr (fun m => { m with entryPresent := false }) s
    if !n.dying && usable s1 n.tenant 15 n1 && bankOf (keyLo n.key) == bank && tagLo (keyLo n.key) == tag && !entryDue s1 n1 then askInsert n1 s1
    else s1

/-- The first report reaches its core. -/
def doDollyReport (s : State) : State :=
  match s.marr.reports with
  | [] => s
  | r :: rest =>
    let s1 := { s with marr := { s.marr with reports := rest } }
    match r with
    | .valid ptr => setNode ptr (fun n => { n with entryPresent := true }) s1
    | .declined _ => s1
    | .cancelled _ => s1
    | .displaced ptr => setNode ptr (fun n => { n with entryPresent := false }) s1
    | .invalidated ptr =>
      let s2 := setNode ptr (fun n => { n with entryPresent := false }) s1
      if ((findNode s2 ptr).map (·.dying)).getD false && !removeDue s2 ptr then freeNode ptr s2 else s2
    | .repaired ptr bank tag => reinsert ptr bank tag s1

/-- DOLLY_REPORT. -/
def execDollyReport (s : State) : Host.Outcome State Fault Refusal := finish s (doDollyReport s)

/-! ## Refill (R119) -/

/-- MATCH_ARRAY_REFILL: the sliver's usable nodes without an entry are asked for in decreasing value, at most 256 in a
window, once after each clear. [DEDUCED, log 52] -/
def doMatchArrayRefill (n : Nat) (s : State) : State :=
  if decide (deviceState s < 3) || s.sec.transition || s.marr.refilled.contains n then s
  else
    let v := findSliver s n
    let room := 256 - v.refills
    let mine := s.index.nodes.filter fun m => sliverOf m.key == n && usable s m.tenant 15 m && !m.dying && !entryDue s m
    let ordered := sortBy (fun a b => decide (valueOf s b < valueOf s a) || (valueOf s a == valueOf s b && decide (a.insertSeq < b.insertSeq))) mine
    let s1 := (ordered.take room).foldl (fun s m => askInsert m s) s
    let s2 := putSliver { findSliver s1 n with refills := v.refills + min room ordered.length } s1
    if ordered.length ≤ room then { s2 with marr := { s2.marr with refilled := n :: s2.marr.refilled } } else s2

/-- MATCH_ARRAY_REFILL. -/
def execMatchArrayRefill (sliver : Nat) (s : State) : Host.Outcome State Fault Refusal := finish s (doMatchArrayRefill sliver s)

/-! ## Failed banks and parity errors (R102, R114 to R118) -/

/-- BANK_FAILED: a bank in service is replaced or becomes absent; a failed spare is never mapped. [DEDUCED, log 57] -/
def bankFailed (u : Nat) (s : State) : State :=
  let s1 := if (bankServed s u).isSome then mapSpare 4 2 u s else if spareUnused s 4 u then noteSpare 4 2 u none s else s
  { s1 with marr := { s1.marr with errors := s1.marr.errors.filter (fun e => e.1 != u), repaired := s1.marr.repaired.filter fun e => e.1 != u } }

/-- The section of a bank number. -/
def bankSection (b : Nat) : Nat := if 16384 ≤ b then (b - 16384) / 4224 else b / 4096

/-- A parity error at a position: the bank fails when the position has been repaired before (R116), else the dolly repairs it. -/
def parityError (bank pos : Nat) (s : State) : State :=
  if s.marr.repaired.contains (physBank s bank, pos) then bankFailed (physBank s bank) s
  else if (sectionQueue s (bankSection bank)).contains (.repair bank pos) then s
  else askDolly (bankSection bank) (.repair bank pos) s

/-! ## Searches (R101, R102) -/

/-- Whether an entry matches a probe (R101): TAG_HI and TAG_LO hold key_lo[63:14], and the bank the other bits. Only the
bank that the probe selects compares its entries (R122). -/
def entryMatches (q : Probe) (e : MatchEntry) : Bool :=
  e.valid && e.bank == bankOf q.keyLo && e.tenant == q.tenant && e.keyLo == q.keyLo && bitOf q.mask (e.priority % 4)

/-- The winner of a search: the matching entry at the lowest position. -/
def searchBank (s : State) (q : Probe) : Option MatchEntry :=
  (s.marr.entries.filter (entryMatches q)).foldl (fun b e => match b with
    | none => some e
    | some x => if e.pos < x.pos then some e else some x) none

/-- A bank's entries after upsets of their stored bits (R100, R115). -/
def upsetBank (bank : Nat) (us : List (Nat × Nat)) (s : State) : State :=
  setEntries (us.foldl (fun es u => upsetAt bank u.1 u.2 es) s.marr.entries) s

/-- The upsets of a bank by stored bit (Table 4.2): half A holds bits 105 to 53, half B bits 52 to 0. -/
def halfUpsets (a b : List (Nat × Nat)) : List (Nat × Nat) := a.map (fun u => (u.1, 53 + u.2)) ++ b

/-- One search of a section: the first queued probe, in its bank as upsets have left it. Each element of `upsetsA` and `upsetsB`
names a position of that bank and a stored bit of half A or B that has flipped since the bank was last read; the winner's
parities decide what the probe returns. [DEDUCED, log 153] -/
def doMatchProbeResult (sect : Nat) (upsetsA upsetsB : List (Nat × Nat)) (s : State) : State :=
  match s.marr.sections.find? fun x => x.num == sect with
  | none => s
  | some x => match x.probes with
    | [] => s
    | q :: rest =>
      let ss := updWhere (fun y : Section => y.num == sect) (fun y => { y with probes := rest }) s.marr.sections
      let s1 := upsetBank (bankOf q.keyLo) (halfUpsets upsetsA upsetsB) { s with marr := { s.marr with sections := ss } }
      advanceRuns (if s1.marr.absent.contains (bankOf q.keyLo) then probeResult q.run q.block none s1
        else match searchBank s1 q with
          | none => probeResult q.run q.block none s1
          | some e =>
            if halfAOk e && halfBOk e then
              probeResult q.run q.block (some { ptr := e.nodePtr, priority := e.priority, hint := e.tierHint }) s1
            else probeResult q.run q.block none (parityError e.bank e.pos s1))

/-- MATCH_PROBE_RESULT (R102). -/
def execMatchProbeResult (sect : Nat) (upsetsA upsetsB : List (Nat × Nat)) (s : State) : Host.Outcome State Fault Refusal :=
  finish s (doMatchProbeResult sect upsetsA upsetsB s)

/-! ## Continuity scan (R113 to R116) -/

/-- What the scan finds of an entry whose parity fails: 3 distinct entries of a bank within 256 windows fail it (R116). -/
def scanError (e : MatchEntry) (s : State) : State :=
  let u := physBank s e.bank
  let w := s.clk.window
  let recent := s.marr.errors.filter fun x => decide (w < x.2.2 + 256)
  let s1 := { s with marr := { s.marr with errors := (u, e.pos, w) :: recent } }
  let distinct : List Nat := ((s1.marr.errors.filter fun x => x.1 == u).map fun x => x.2.1).eraseDups
  if 3 ≤ distinct.length then bankFailed u s1 else parityError e.bank e.pos s1

/-- The entries at a position, valid or not, that fail a parity check. -/
def badAt (s : State) (pos : Nat) : List MatchEntry := s.marr.entries.filter fun e => e.pos == pos && !(halfAOk e && halfBOk e)

/-- The upsets of stored bits since the last scan step: a physical bank, a position and a bit each. -/
def upsetAll (us : List (Nat × Nat × Nat)) (s : State) : State := us.foldl (fun s u => upsetBank (entryBank s u.1) [u.2] s) s

/-- CONTINUITY_SCAN: each bank checks both parities of the next position. [DEDUCED, log 153] -/
def doContinuityScan (upsets : List (Nat × Nat × Nat)) (s : State) : State :=
  if s.power.step < 9 then s
  else
    let pos := s.marr.scanPos
    let s1 := upsetAll upsets s
    let s2 := (badAt s1 pos).foldl (fun s e => scanError e s) s1
    { s2 with marr := { s2.marr with scanPos := (pos + 1) % 256 } }

/-- CONTINUITY_SCAN: the scan of R113. It runs whatever the registers and commands say, once start-up has completed
(R438). -/
def execContinuityScan (upsets : List (Nat × Nat × Nat)) (s : State) : Host.Outcome State Fault Refusal :=
  finish s (doContinuityScan upsets s)

/-! ## Node visits and offers (R87, R88, R111) -/

/-- SLIVER_NODE_VISIT. -/
def doSliverNodeVisit (node : Nat) (s0 : State) : State :=
  let s := readNode node s0
  match findNode s node with
  | none => s
  | some n =>
    let a := ageOf s n
    let s1 := if 4096 ≤ a then setNode node (fun m => { m with score := 0 }) s else s
    if decide (1024 ≤ a) && n.entryPresent && !removeDue s1 node then askRemove n s1 else s1

/-- SLIVER_NODE_VISIT. -/
def execSliverNodeVisit (node : Nat) (s : State) : Host.Outcome State Fault Refusal := finish s (doSliverNodeVisit node s)

/-- Whether the tier manager asks for a node to be dropped: a T2 victim with dirty extents that R179 rejects, while T2 is short
of room or the dirty mark is reached (R176, R177), or a node with a T3 copy while flash slots run low (R276). [DEDUCED, log 59] -/
def dropWanted (s : State) (n : Node) : Bool :=
  ((belowHigh s.tiers.t2Total s.tiers.t2Free || s.tiers.aboveMark) && (n.groups.any fun g => g.dirty == .t2) && !admitted s n)
    || (reclaimDue s && n.groups.any fun g => g.t3.isSome)

/-- SLIVER_DROP_OFFER: the core offers up to `want` nodes of its sliver in the order of R88 and sets EVICTING on them.
[DEDUCED, log 59] -/
def doSliverDropOffer (n want : Nat) (s : State) : State :=
  ((offered s fun m => sliverOf m.key == n && pinCountOf s m == 0 && m.keyed && !m.evicting && !m.dying && nodeUnheld s m
      && dropWanted s m).take want).foldl (fun s m => evictNode m.ptr s) s

/-- SLIVER_DROP_OFFER. -/
def execSliverDropOffer (sliver want : Nat) (s : State) : Host.Outcome State Fault Refusal := finish s (doSliverDropOffer sliver want s)

end Sys2Proof.Machine
end

