-- ==== Sys2Proof/Machine/Resume.lean ====
section
/-! DEFINITION. What goes on after a wait: the packets held for a queue pair's context (Table 12.4) and the parked commands
(R17, R18). -/
namespace Sys2Proof.Machine

/-! ## What a command packet is to the device -/

/-- A command's opcode row, its packet, what it does at its acceptance, and its run. -/
structure CommandParts where
  op : OpInfo
  packet : Packet
  atAccept : Cmd → State → State
  run : Cmd → State → State

/-- The parts of the commands that a job sends, but for JOB_OPEN. -/
def jobParts : Instr → Option CommandParts
  | .jobClose p r => some ⟨opEarly 0x0102, p, closeAccept p r, closeRun p r⟩
  | .jobQuery p r => some ⟨opEarly 0x0103, p, atOnce, runJobQuery p r⟩
  | .modelLoad p a => some ⟨opEarly 0x0201, p, atOnce, runModelLoad p a⟩
  | .modelUnload p a => some ⟨opEarly 0x0202, p, atOnce, runModelUnload p a⟩
  | .modelQuery p a => some ⟨opEarly 0x0203, p, atOnce, runModelQuery p a⟩
  | .lookup p a => some ⟨opLate 0x0301, p, atOnce, runLookup p a⟩
  | .lookupPin p a => some ⟨opLate 0x0302, p, atOnce, runLookupPin p a⟩
  | .lookupExtend p a => some ⟨opLate 0x0303, p, atOnce, runLookupExtend p a⟩
  | .unpin p a => some ⟨opLate 0x0304, p, acceptUnpin p a, runUnpin p a⟩
  | .ingestOpen p a => some ⟨opLate 0x0401, p, acceptIngestOpen a, fun c s => sweepProfiles (runIngestOpen p a c s)⟩
  | .ingestPull p a => some ⟨opLate 0x0402, p, acceptOnIngest a, runIngestPull p a⟩
  | .ingestPushSlots p a => some ⟨opLate 0x0403, p, acceptOnIngest a, runIngestPushSlots p a⟩
  | .ingestCommit p a => some ⟨opLate 0x0404, p, commitAccept p a, runIngestCommit p a⟩
  | .ingestAbort p a => some ⟨opLate 0x0405, p, abortAccept p a, runIngestAbort p a⟩
  | .deliver p a => some ⟨opLate 0x0501, p, acceptDeliver p a, runDeliver p a⟩
  | .deliverCancel p a => some ⟨opLate 0x0502, p, atOnce, runDeliverCancel p a⟩
  | .deliverStatus p a => some ⟨opLate 0x0503, p, atOnce, runDeliverStatus p a⟩
  | .attendOpen p a => some ⟨opLate 0x0601, p, acceptAttendOpen a, fun c s => sweepProfiles (runAttendOpen p a c s)⟩
  | .attend p a => some ⟨opLate 0x0602, p, atOnce, runAttend p a⟩
  | .attendClose p a => some ⟨opLate 0x0603, p, atOnce, runAttendClose p a⟩
  | .evict p a => some ⟨opLate 0x0701, p, atOnce, runEvict p a⟩
  | .promote p a => some ⟨opLate 0x0702, p, atOnce, runPromote p a⟩
  | .hint p a => some ⟨opLate 0x0703, p, atOnce, runHint p a⟩
  | .purgeScope p a => some ⟨opLate 0x0704, p, atOnce, runPurgeScope p a⟩
  | .purgeTenant p r => some ⟨opLate 0x0705, p, atOnce, runPurgeTenant p r⟩
  | .keyRotateOpen p a => some ⟨opEarly 0x0802, p, atOnce, runKeyRotateOpen p a⟩
  | .keyRotateQuery p a => some ⟨opEarly 0x0802, p, atOnce, runKeyRotateQuery p a⟩
  | _ => none

/-- The parts of the commands that the management path carries, alone or beside jobs. [DEDUCED, log 19] -/
def mgmtParts : Instr → Option CommandParts
  | .attest p a => some ⟨opBoth 0x0801, p, atOnce, runAttest p a⟩
  | .statsRead p a => some ⟨opBoth 0x0901, p, atOnce, runStatsRead p a⟩
  | .eventsRead p a => some ⟨opBoth 0x0902, p, atOnce, runEventsRead p a⟩
  | .hostWindowSet p a => some ⟨opMgmt 0x0A01 false, p, atOnce, runHostWindowSet p a⟩
  | .tenantQuotaSet p a => some ⟨opMgmt 0x0A02 false, p, atOnce, runTenantQuotaSet p a⟩
  | .classSet p a => some ⟨opMgmt 0x0A03 false, p, atOnce, runClassSet p a⟩
  | .spareMapRead p a => some ⟨opMgmt 0x0A04 true, p, atOnce, runSpareMapRead p a⟩
  | .spareMapRetire p a => some ⟨opMgmt 0x0A04 false, p, atOnce, runSpareMapRetire p a⟩
  | .fwStage p a => some ⟨opMgmt 0x0A05 false, p, atOnce, runFwStage p a⟩
  | .fwActivate p a => some ⟨opMgmt 0x0A06 false, p, atOnce, runFwActivate p a⟩
  | .portConfig p a => some ⟨opMgmt 0x0A07 false, p, atOnce, runPortConfig p a⟩
  | .wearBudgetSet p a => some ⟨opMgmt 0x0A08 false, p, atOnce, runWearBudgetSet p a⟩
  | .spliceRouteWrite p a => some ⟨opMgmt 0x0A09 false, p, atOnce, runSpliceRouteWrite p a⟩
  | .spliceDeviceNumberSet p a => some ⟨opMgmt 0x0A09 false, p, atOnce, runSpliceDeviceNumberSet p a⟩
  | .deviceResetCompute p a => some ⟨opMgmt 0x0A0A false, p, atOnce, runDeviceResetCompute p a⟩
  | .deviceResetFull p a => some ⟨opMgmt 0x0A0A false, p, atOnce, runDeviceResetFull p a⟩
  | .deviceResetPort p a => some ⟨opMgmt 0x0A0A false, p, atOnce, runDeviceResetPort p a⟩
  | .tenantRegister p a => some ⟨opMgmt 0x0A0B false, p, atOnce, runTenantRegister p a⟩
  | .tenantRemove p a => some ⟨opMgmt 0x0A0C false, p, removeAccept p a, runTenantRemove p a⟩
  | .debugUnlock p a => some ⟨opMgmt 0x0A0D false, p, atOnce, runDebugUnlock p a⟩
  | _ => none

/-- The parts of a command packet. -/
def partsOf (i : Instr) : Option CommandParts := (jobParts i).orElse fun _ => mgmtParts i

/-! ## CONTEXT_FETCH_DONE (Table 12.4, R345, R346) -/

/-- A held command packet: its place in the PSN order, then intake. [DEDUCED, log 22] -/
def deliverHeld (p : Packet) (k : State → State) (s : State) : State :=
  rcAccept { p.bth with qpn := p.lane } (rcPackets s p.lane p.length) (if 69632 < p.length then some .invalidRequest else none)
    (sendAck p.lane) k s

/-- A packet that the miss buffer held, now that its context is resident. -/
def heldPacket (i : Instr) (s : State) : State :=
  match i with
  | .rdmaWriteReceived h rkey addr data => doRdmaWrite h rkey addr data s
  | .slotConsume h rkey addr data imm outcome => doSlotConsume h rkey addr data imm outcome s
  | .cue h imm => doCue h imm s
  | .rdmaReadRequest h rkey addr len => doRdmaRead h rkey addr len s
  | .rdmaInvalidRequest h => doRdmaInvalid h s
  | .ackReceived h => doAck h s
  | .nakSequenceReceived h => doNakSequence h s
  | .rnrNakReceived h _ => doRnrNak h s
  | .nakFatalReceived h kind => doNakFatal h kind s
  | .readResponseReceived h slot data last => doReadResponse h slot data last s
  | .jobOpen p a => deliverHeld p (doJobOpen p a) s
  | .unknownOpcode p => deliverHeld p (doUnknownOpcode p) s
  | _ => match partsOf i with
    | none => s
    | some x => deliverHeld x.packet (perform i x.op x.packet x.atAccept x.run) s

/-- Whether a queue pair still takes packets (R344, R356). -/
def qpTakes (s : State) (qpn : Nat) : Bool :=
  ((findQp s qpn).map fun q => q.state == .ready || q.state == .awaitingRtu).getD false

/-- Processes held packets in arrival order, while the queue pair takes packets. [DEDUCED, log 22] -/
def heldPackets (qpn : Nat) (l : List (Nat × Instr)) (s : State) : State :=
  l.foldl (fun s x => if qpTakes s qpn then heldPacket x.2 s else s) s

/-- A context is read from T1: it becomes resident and its held packets are processed, or its queue pair enters the error
state and they are dropped. [DEDUCED, log 30] -/
def contextFetched (qpn : Nat) (ok : Bool) (s : State) : State :=
  match findQp s qpn with
  | none => s
  | some q =>
    if !q.fetching then s
    else if ok then heldPackets qpn q.held (makeResident qpn (setQp qpn (fun q => { q with held := [] }) s))
    else qpError qpn 7 (setQp qpn (fun q => { q with held := [], fetching := false }) s)

/-- CONTEXT_FETCH_DONE (R346). -/
def execContextFetchDone (qpn : Nat) (ok : Bool) (s : State) : Host.Outcome State Fault Refusal :=
  finish s (goOn (contextFetched qpn ok s))

/-! ## PARKED_COMMAND_WAKE (R18) -/

/-- Whether a rate quota that parked a command is free again (R330). -/
def quotaFree (s : State) (c : Cmd) : Bool :=
  match c.instr with
  | .attend .. => !attendSpent s c.tenant
  | _ => !ingestSpent s c.tenant

/-- Whether a command that waits for slivers goes on by its own run: its sliver work ends other ones directly. -/
def waitsForOthers (c : Cmd) : Bool :=
  match c.instr with
  | .ingestCommit .. => false
  | .hint .. => false
  | .evict .. => false
  | _ => true

/-- Whether the condition that a parked command awaits can be tried again by its own run. [DEDUCED, log 135] -/
def wakeDue (s : State) (c : Cmd) : Bool :=
  match c.wait with
  | .fence => fenceClear s c
  | .descRead => c.fetched
  | .slivers => waitsForOthers c
  | .quotaWindow => quotaFree s c
  | .ingestIndex => true
  | .t1Space => true
  | .pulls => true
  | .purgeOrder => true
  | .maintenance => true
  | .windowBusy => true
  | .moves => movesDue s c
  | .storyboard => deliverDue s c
  | .deliverEntries => deliverDue s c
  | _ => false

/-- Runs a parked command again. [DEDUCED, log 135] -/
def wakeCommand (c : Cmd) (run : Cmd → State → State) (s : State) : State :=
  if c.wait == .cqEntry then runAccepted c run s
  else if wakeDue s c then run c s
  else s

/-- Whether the wait table returns a parked command to the dispatch queue of its class (R18). -/
def returns (s : State) (c : Cmd) : Bool := c.wait == .cqEntry || wakeDue s c

/-- A step of the control complex: a woken command runs on; entries that its ring pair's fetches waited for may be free.
[DEDUCED, log 135] -/
def skometStep (w : UnitWork) (s : State) : State :=
  match w with
  | .step slot => (match findCmd s slot with
    | none => s
    | some c => match partsOf c.instr with
      | none => s
      | some x => fetchAll (goOn (wakeCommand c x.run s)))
  | _ => s

/-- The control complex runs the steps of its dispatch queues, LC before BE but for the floor (R18, R319, R320). -/
def runControl : Nat → State → State
  | 0, s => s
  | n + 1, s => match chooseUnit s .control s.eng.control with
    | none => s
    | some (u, k) =>
      let e := s.eng.control
      let e1 := { e with lcq := e.lcq.erase u, beq := if e.lcq.contains u then e.beq else e.beq.erase u, k := k }
      runControl n (skometStep u.work (putEngine .control e1 s))

/-- The LC commands that are ready as well when a BE command is woken: they are in the dispatch queue before it. -/
def readyLc (s : State) (c : Cmd) : List Nat :=
  if c.cls == .lc then [] else (s.jobs.cmds.filter fun x => x.cls == .lc && x.slot != c.slot && returns s x).map (·.slot)

/-- A command in a slot whose awaited condition is met goes into the dispatch queue of its class (R18).
[DEDUCED, log 135; DESIGN CHOICE, log 170] -/
def wakeSlot (slot : Nat) (s : State) : State :=
  match findCmd s slot with
  | none => s
  | some c =>
    if !returns s c then fetchAll (goOn s)
    else
      let slots := readyLc s c ++ [slot]
      runControl slots.length (slots.foldl (fun s i =>
        queueUnit .control (newUnit (((findCmd s i).map (·.cls)).getD .be) (.step i) 0 0) s) s)

/-- PARKED_COMMAND_WAKE. -/
def execParkedCommandWake (slot : Nat) (s : State) : Host.Outcome State Fault Refusal := finish s (wakeSlot slot s)

end Sys2Proof.Machine
end

