-- ==== Sys2Proof/Machine/Slivers.lean ====
section
/-! DEFINITION. A failed reel core (R94, R95): its spare, or the next core of the reel, replays the log of each sliver that it owned. -/
namespace Sys2Proof.Machine

/-- Whether a logged request is above the LAST_REQ of the node that it names (R94). -/
def newerThan (s : State) (ptr seq : Nat) : Bool := ((findNode s ptr).map fun n => decide (n.lastReq < seq)).getD false

/-- One logged request, replayed: it takes effect when the node that it names does not hold it yet; one that names no node is
executed again, and its answer counts only for a run or a commit that still waits for it (R94). -/
def replayReq (e : SliverEntry) (s : State) : State :=
  let if' := fun (p : Nat) (f : State → State) => if newerThan s p e.seq then f s else s
  match e.req with
  | .confirm run block key tenant mask hit => applyConfirm run block key tenant mask hit s
  | .pin run block key tenant mask hit => if wantsPin s run block key then applyPin run block key tenant mask hit e.seq s else s
  | .insert slot block => (serveInsert slot block e.seq s).2
  | .skip slot block => serveSkip slot block e.seq s
  | .stateCommit id => applyCommit id e.seq s
  | .pinDrop p => if' p (applyPinDrop p e.seq)
  | .score p => if' p (applyScore p e.seq)
  | .hint p _ arg => if' p fun s => setNode p (fun n => { hintNode arg n with lastReq := e.seq }) s
  | .purge p _ => if' p (applyPurge p none e.seq)
  | .dropCopy p g t slot => if' p (applyDropCopy p g t slot e.seq)
  | .dropNode p => if' p (applyDropNode p e.seq)

/-- The log of a sliver, replayed in order. [DEDUCED, log 65] -/
def replaySliver (n : Nat) (s : State) : State := (findSliver s n).log.foldl (fun s e => replayReq e s) s

/-- The slivers that a physical core owns: 64 logical cores a reel, one sliver each (R58). -/
def sliversOf (s : State) (core : Nat) : List Nat :=
  ((List.range 64).map fun i => 64 * (core / 66) + i).filter fun n => ownerOf s n == some core

/-- REEL_CORE_WATCHDOG (R94, R95): a spare of the reel is mapped, or with none left the next logical core owns the slivers, and
their logs are replayed; the requests that wait are served from then on. [DEDUCED, log 65] -/
def doReelCoreWatchdog (core : Nat) (s : State) : State :=
  if unitActive s 2 core then
    let ns := sliversOf s core
    goOn (ns.foldl (fun s n => replaySliver n s) (mapSpare 2 2 core (countFault 9 1 s)))
  else s

/-- REEL_CORE_WATCHDOG. -/
def execReelCoreWatchdog (core : Nat) (s : State) : Host.Outcome State Fault Refusal := finish s (doReelCoreWatchdog core s)

end Sys2Proof.Machine
end

