-- ==== Sys2Proof/Machine/Dispatch.lean ====
section
/-! DEFINITION. One arm per command of the opcode table: a direct call of its meaning. -/
namespace Sys2Proof.Machine

/-- The effect of a command on everything but the queue. -/
def exec (i : Instr) (s : State) : Host.Outcome State Fault Refusal :=
  match i with
  | .jobOpen p a => Sys2Proof.Machine.execJobOpen p a s
  | .jobClose p reserved => Sys2Proof.Machine.execJobClose p reserved s
  | .jobCloseFinish job => Sys2Proof.Machine.execJobCloseFinish job s
  | .jobQuery p reserved => Sys2Proof.Machine.execJobQuery p reserved s
  | .modelLoad p a => Sys2Proof.Machine.execModelLoad p a s
  | .modelUnload p a => Sys2Proof.Machine.execModelUnload p a s
  | .modelQuery p a => Sys2Proof.Machine.execModelQuery p a s
  | .lookup p a => Sys2Proof.Machine.execLookup p a s
  | .lookupPin p a => Sys2Proof.Machine.execLookupPin p a s
  | .lookupExtend p a => Sys2Proof.Machine.execLookupExtend p a s
  | .unpin p a => Sys2Proof.Machine.execUnpin p a s
  | .ingestOpen p a => Sys2Proof.Machine.execIngestOpen p a s
  | .ingestPull p a => Sys2Proof.Machine.execIngestPull p a s
  | .ingestPushSlots p a => Sys2Proof.Machine.execIngestPushSlots p a s
  | .ingestCommit p a => Sys2Proof.Machine.execIngestCommit p a s
  | .ingestAbort p a => Sys2Proof.Machine.execIngestAbort p a s
  | .deliver p a => Sys2Proof.Machine.execDeliver p a s
  | .deliverCancel p a => Sys2Proof.Machine.execDeliverCancel p a s
  | .deliverStatus p a => Sys2Proof.Machine.execDeliverStatus p a s
  | .attendOpen p a => Sys2Proof.Machine.execAttendOpen p a s
  | .attend p a => Sys2Proof.Machine.execAttend p a s
  | .attendClose p a => Sys2Proof.Machine.execAttendClose p a s
  | .evict p a => Sys2Proof.Machine.execEvict p a s
  | .promote p a => Sys2Proof.Machine.execPromote p a s
  | .hint p a => Sys2Proof.Machine.execHint p a s
  | .purgeScope p a => Sys2Proof.Machine.execPurgeScope p a s
  | .purgeTenant p reserved => Sys2Proof.Machine.execPurgeTenant p reserved s
  | .attest p a => Sys2Proof.Machine.execAttest p a s
  | .keyRotateOpen p a => Sys2Proof.Machine.execKeyRotateOpen p a s
  | .keyRotateQuery p a => Sys2Proof.Machine.execKeyRotateQuery p a s
  | .statsRead p a => Sys2Proof.Machine.execStatsRead p a s
  | .eventsRead p a => Sys2Proof.Machine.execEventsRead p a s
  | .hostWindowSet p a => Sys2Proof.Machine.execHostWindowSet p a s
  | .tenantQuotaSet p a => Sys2Proof.Machine.execTenantQuotaSet p a s
  | .classSet p a => Sys2Proof.Machine.execClassSet p a s
  | .spareMapRead p a => Sys2Proof.Machine.execSpareMapRead p a s
  | .spareMapRetire p a => Sys2Proof.Machine.execSpareMapRetire p a s
  | .fwStage p a => Sys2Proof.Machine.execFwStage p a s
  | .fwActivate p a => Sys2Proof.Machine.execFwActivate p a s
  | .portConfig p a => Sys2Proof.Machine.execPortConfig p a s
  | .wearBudgetSet p a => Sys2Proof.Machine.execWearBudgetSet p a s
  | .spliceRouteWrite p a => Sys2Proof.Machine.execSpliceRouteWrite p a s
  | .spliceDeviceNumberSet p a => Sys2Proof.Machine.execSpliceDeviceNumberSet p a s
  | .deviceResetCompute p a => Sys2Proof.Machine.execDeviceResetCompute p a s
  | .deviceResetFull p a => Sys2Proof.Machine.execDeviceResetFull p a s
  | .deviceResetPort p a => Sys2Proof.Machine.execDeviceResetPort p a s
  | .tenantRegister p a => Sys2Proof.Machine.execTenantRegister p a s
  | .tenantRemove p a => Sys2Proof.Machine.execTenantRemove p a s
  | .tenantRemoveComplete tenant => Sys2Proof.Machine.execTenantRemoveComplete tenant s
  | .debugUnlock p a => Sys2Proof.Machine.execDebugUnlock p a s
  | .recStatus => Sys2Proof.Machine.execRecStatus s
  | .recWriteSlot image => Sys2Proof.Machine.execRecWriteSlot image s
  | .recFormat overprovision reserved pop => Sys2Proof.Machine.execRecFormat overprovision reserved pop s
  | .recAnchorClear pop => Sys2Proof.Machine.execRecAnchorClear pop s
  | .recReset => Sys2Proof.Machine.execRecReset s
  | .doeDiscovery port index => Sys2Proof.Machine.execDoeDiscovery port index s
  | .getVersion port => Sys2Proof.Machine.execGetVersion port s
  | .getCapabilities port => Sys2Proof.Machine.execGetCapabilities port s
  | .negotiateAlgorithms port offersSupported => Sys2Proof.Machine.execNegotiateAlgorithms port offersSupported s
  | .getDigests port => Sys2Proof.Machine.execGetDigests port s
  | .getCertificate port slot offset len => Sys2Proof.Machine.execGetCertificate port slot offset len s
  | .challenge port slot nonce => Sys2Proof.Machine.execChallenge port slot nonce s
  | .getMeasurements port index nonce => Sys2Proof.Machine.execGetMeasurements port index nonce s
  | .getPoisonList port => Sys2Proof.Machine.execGetPoisonList port s
  | .identifyMemoryDevice port => Sys2Proof.Machine.execIdentifyMemoryDevice port s
  | .getPartitionInfo port => Sys2Proof.Machine.execGetPartitionInfo port s
  | .getHealthInfo port => Sys2Proof.Machine.execGetHealthInfo port s
  | .getEventRecords port => Sys2Proof.Machine.execGetEventRecords port s
  | .clearEventRecords port => Sys2Proof.Machine.execClearEventRecords port s
  | .mailboxUnsupported port opcode => Sys2Proof.Machine.execMailboxUnsupported port opcode s
  | .cxlMemRead port line grant => Sys2Proof.Machine.execCxlMemRead port line grant s
  | .cxlMemWrite port line data enables grant => Sys2Proof.Machine.execCxlMemWrite port line data enables grant s
  | .cxlIoBar2Request port offset => Sys2Proof.Machine.execCxlIoBar2Request port offset s
  | .birsp port line => Sys2Proof.Machine.execBirsp port line s
  | .fenceTimeout port line => Sys2Proof.Machine.execFenceTimeout port line s
  | .idcode => Sys2Proof.Machine.execIdcode s
  | .bypass => Sys2Proof.Machine.execBypass s
  | .samplePreload => Sys2Proof.Machine.execSamplePreload s
  | .extest => Sys2Proof.Machine.execExtest s
  | .intest => Sys2Proof.Machine.execIntest s
  | .clamp => Sys2Proof.Machine.execClamp s
  | .highz => Sys2Proof.Machine.execHighz s
  | .pcieConfigRequest port link fn => Sys2Proof.Machine.execPcieConfigRequest port link fn s
  | .functionLevelReset port link fn => Sys2Proof.Machine.execFunctionLevelReset port link fn s
  | .vfEnableChange port link enable numVfs => Sys2Proof.Machine.execVfEnableChange port link enable numVfs s
  | .perstAssert port link => Sys2Proof.Machine.execPerstAssert port link s
  | .perstRelease port link => Sys2Proof.Machine.execPerstRelease port link s
  | .hostLinkDown port link => Sys2Proof.Machine.execHostLinkDown port link s
  | .doorbellSqTail port link ring value entries => Sys2Proof.Machine.execDoorbellSqTail port link ring value entries s
  | .doorbellCqHead port link ring value => Sys2Proof.Machine.execDoorbellCqHead port link ring value s
  | .rpEnable port link ring control => Sys2Proof.Machine.execRpEnable port link ring control s
  | .rpDisable port link ring => Sys2Proof.Machine.execRpDisable port link ring s
  | .registerWrite port link fn offset size value => Sys2Proof.Machine.execRegisterWrite port link fn offset size value s
  | .msixCoalesceExpiry port ring => Sys2Proof.Machine.execMsixCoalesceExpiry port ring s
  | .arpRequest lport target => Sys2Proof.Machine.execArpRequest lport target s
  | .neighborDiscovery lport target => Sys2Proof.Machine.execNeighborDiscovery lport target s
  | .icmpEcho lport target v6 => Sys2Proof.Machine.execIcmpEcho lport target v6 s
  | .rxOtherDrop lport => Sys2Proof.Machine.execRxOtherDrop lport s
  | .pfcFrameReceived port prio quanta => Sys2Proof.Machine.execPfcFrameReceived port prio quanta s
  | .pfcPauseRefresh port occupancy => Sys2Proof.Machine.execPfcPauseRefresh port occupancy s
  | .cnpReceived qpn due => Sys2Proof.Machine.execCnpReceived qpn due s
  | .rateLimiterTick qpn => Sys2Proof.Machine.execRateLimiterTick qpn s
  | .cmReq r => Sys2Proof.Machine.execCmReq r s
  | .cmRtu qpn => Sys2Proof.Machine.execCmRtu qpn s
  | .cmMra qpn => Sys2Proof.Machine.execCmMra qpn s
  | .cmRej qpn => Sys2Proof.Machine.execCmRej qpn s
  | .cmDreq qpn => Sys2Proof.Machine.execCmDreq qpn s
  | .cmDrep qpn => Sys2Proof.Machine.execCmDrep qpn s
  | .cmResponseTimeout qpn => Sys2Proof.Machine.execCmResponseTimeout qpn s
  | .qpUnboundTimeout qpn => Sys2Proof.Machine.execQpUnboundTimeout qpn s
  | .contextFreeTimeout qpn => Sys2Proof.Machine.execContextFreeTimeout qpn s
  | .rdmaWriteReceived h rkey addr data => Sys2Proof.Machine.execRdmaWriteReceived h rkey addr data s
  | .contextFetchDone qpn ok => Sys2Proof.Machine.execContextFetchDone qpn ok s
  | .slotConsume h rkey addr data imm outcome => Sys2Proof.Machine.execSlotConsume h rkey addr data imm outcome s
  | .cue h imm => Sys2Proof.Machine.execCue h imm s
  | .rdmaReadRequest h rkey addr len => Sys2Proof.Machine.execRdmaReadRequest h rkey addr len s
  | .rdmaInvalidRequest h => Sys2Proof.Machine.execRdmaInvalidRequest h s
  | .ackReceived h => Sys2Proof.Machine.execAckReceived h s
  | .nakSequenceReceived h => Sys2Proof.Machine.execNakSequenceReceived h s
  | .rnrNakReceived h timer => Sys2Proof.Machine.execRnrNakReceived h timer s
  | .nakFatalReceived h kind => Sys2Proof.Machine.execNakFatalReceived h kind s
  | .ackTimeout qpn => Sys2Proof.Machine.execAckTimeout qpn s
  | .rnrTimerExpiry qpn => Sys2Proof.Machine.execRnrTimerExpiry qpn s
  | .ackSendTimer qpn => Sys2Proof.Machine.execAckSendTimer qpn s
  | .readResponseReceived h slot data last => Sys2Proof.Machine.execReadResponseReceived h slot data last s
  | .ethLinkDown lport => Sys2Proof.Machine.execEthLinkDown lport s
  | .ethLinkUp lport => Sys2Proof.Machine.execEthLinkUp lport s
  | .dhcpReply port ip => Sys2Proof.Machine.execDhcpReply port ip s
  | .routerAdvertisement port pfx => Sys2Proof.Machine.execRouterAdvertisement port pfx s
  | .addressLifetimeExpiry port v6 ip => Sys2Proof.Machine.execAddressLifetimeExpiry port v6 ip s
  | .rawFallbackTimeout storyboard layer => Sys2Proof.Machine.execRawFallbackTimeout storyboard layer s
  | .gatherWindowExpiry batch => Sys2Proof.Machine.execGatherWindowExpiry batch s
  | .attentionUnitEnd inst chk => Sys2Proof.Machine.execAttentionUnitEnd inst chk s
  | .projectionUnitEnd inst chk => Sys2Proof.Machine.execProjectionUnitEnd inst chk s
  | .mergeUnitEnd inst chk => Sys2Proof.Machine.execMergeUnitEnd inst chk s
  | .codecUnitEnd inst chk => Sys2Proof.Machine.execCodecUnitEnd inst chk s
  | .cryptoUnitEnd inst chk => Sys2Proof.Machine.execCryptoUnitEnd inst chk s
  | .keyHasherUnitEnd inst chk => Sys2Proof.Machine.execKeyHasherUnitEnd inst chk s
  | .matchProbeResult sect upsetsA upsetsB => Sys2Proof.Machine.execMatchProbeResult sect upsetsA upsetsB s
  | .moverUnitEnd inst chk outcome => Sys2Proof.Machine.execMoverUnitEnd inst chk outcome s
  | .rdmaUnitEnd inst chk => Sys2Proof.Machine.execRdmaUnitEnd inst chk s
  | .hostPortUnitEnd inst dmaOk recs => Sys2Proof.Machine.execHostPortUnitEnd inst dmaOk recs s
  | .spliceUnitEnd inst => Sys2Proof.Machine.execSpliceUnitEnd inst s
  | .engineUnitOverrun kind inst => Sys2Proof.Machine.execEngineUnitOverrun kind inst s
  | .sliverInsert sliver => Sys2Proof.Machine.execSliverInsert sliver s
  | .sliverPin sliver => Sys2Proof.Machine.execSliverPin sliver s
  | .sliverPinDrop sliver => Sys2Proof.Machine.execSliverPinDrop sliver s
  | .sliverScore sliver => Sys2Proof.Machine.execSliverScore sliver s
  | .sliverConfirm sliver => Sys2Proof.Machine.execSliverConfirm sliver s
  | .sliverDropOffer sliver want => Sys2Proof.Machine.execSliverDropOffer sliver want s
  | .sliverStateCommit sliver => Sys2Proof.Machine.execSliverStateCommit sliver s
  | .sliverNodeVisit node => Sys2Proof.Machine.execSliverNodeVisit node s
  | .dollyReport => Sys2Proof.Machine.execDollyReport s
  | .reelCoreWatchdog core => Sys2Proof.Machine.execReelCoreWatchdog core s
  | .skometWatchdog => Sys2Proof.Machine.execSkometWatchdog s
  | .controlCoreFault source detail => Sys2Proof.Machine.execControlCoreFault source detail s
  | .stopAllRestart => Sys2Proof.Machine.execStopAllRestart s
  | .rootOfTrustFault unitKind cause => Sys2Proof.Machine.execRootOfTrustFault unitKind cause s
  | .entropyHealthFail => Sys2Proof.Machine.execEntropyHealthFail s
  | .dollyInsert sect => Sys2Proof.Machine.execDollyInsert sect s
  | .dollyRemove sect => Sys2Proof.Machine.execDollyRemove sect s
  | .dollyHint sect => Sys2Proof.Machine.execDollyHint sect s
  | .dollyRepair sect => Sys2Proof.Machine.execDollyRepair sect s
  | .tenantSweep tenant => Sys2Proof.Machine.execTenantSweep tenant s
  | .matchArrayRefill sliver => Sys2Proof.Machine.execMatchArrayRefill sliver s
  | .continuityScan upsets => Sys2Proof.Machine.execContinuityScan upsets s
  | .tierEviction tier => Sys2Proof.Machine.execTierEviction tier s
  | .patrolScrub tier node grp row outcome => Sys2Proof.Machine.execPatrolScrub tier node grp row outcome s
  | .sramScrub corrected uncorrectable victims ownerTagLost => Sys2Proof.Machine.execSramScrub corrected uncorrectable victims ownerTagLost s
  | .oldGenerationRemoval node => Sys2Proof.Machine.execOldGenerationRemoval node s
  | .resealNode node => Sys2Proof.Machine.execResealNode node s
  | .epochRetire tenant epoch => Sys2Proof.Machine.execEpochRetire tenant epoch s
  | .nandProgramDone prog => Sys2Proof.Machine.execNandProgramDone prog s
  | .nandProgramFail prog => Sys2Proof.Machine.execNandProgramFail prog s
  | .nandReadDone node grp retries rain ok => Sys2Proof.Machine.execNandReadDone node grp retries rain ok s
  | .nandEraseDone band => Sys2Proof.Machine.execNandEraseDone band s
  | .nandEraseFail die plane block => Sys2Proof.Machine.execNandEraseFail die plane block s
  | .dieReadyTimeout die => Sys2Proof.Machine.execDieReadyTimeout die s
  | .journalFlush => Sys2Proof.Machine.execJournalFlush s
  | .journalFlushDone => Sys2Proof.Machine.execJournalFlushDone s
  | .mapSegmentImage segment => Sys2Proof.Machine.execMapSegmentImage segment s
  | .directoryImage => Sys2Proof.Machine.execDirectoryImage s
  | .indexCheckpoint chunk => Sys2Proof.Machine.execIndexCheckpoint chunk s
  | .gcStart => Sys2Proof.Machine.execGcStart s
  | .gcErase => Sys2Proof.Machine.execGcErase s
  | .patrolRead band retrySteps => Sys2Proof.Machine.execPatrolRead band retrySteps s
  | .cutMarker => Sys2Proof.Machine.execCutMarker s
  | .parkedCommandWake slot => Sys2Proof.Machine.execParkedCommandWake slot s
  | .startup vinMv nandVccSel => Sys2Proof.Machine.execStartup vinMv nandVccSel s
  | .pllLock recoveryN => Sys2Proof.Machine.execPllLock recoveryN s
  | .bootVerifyDone => Sys2Proof.Machine.execBootVerifyDone s
  | .memoryTrainingDone pop => Sys2Proof.Machine.execMemoryTrainingDone pop s
  | .ftlRecoveryDone => Sys2Proof.Machine.execFtlRecoveryDone s
  | .indexLoadDone => Sys2Proof.Machine.execIndexLoadDone s
  | .journalReplayDone => Sys2Proof.Machine.execJournalReplayDone s
  | .sagWarn vinMv => Sys2Proof.Machine.execSagWarn vinMv s
  | .holdupFlushEnd => Sys2Proof.Machine.execHoldupFlushEnd s
  | .vinBelowReset vinMv => Sys2Proof.Machine.execVinBelowReset vinMv s
  | .vinOverVoltage vinMv => Sys2Proof.Machine.execVinOverVoltage vinMv s
  | .thermalTick sensor tj hbm => Sys2Proof.Machine.execThermalTick sensor tj hbm s
  | .refclkLoss => Sys2Proof.Machine.execRefclkLoss s
  | .pllLockLoss => Sys2Proof.Machine.execPllLockLoss s
  | .resetInAssert => Sys2Proof.Machine.execResetInAssert s
  | .resetInRelease recoveryN => Sys2Proof.Machine.execResetInRelease recoveryN s
  | .tcpConnect => Sys2Proof.Machine.execTcpConnect s
  | .tlsHandshakeDone session cert => Sys2Proof.Machine.execTlsHandshakeDone session cert s
  | .tlsSessionEnd session => Sys2Proof.Machine.execTlsSessionEnd session s
  | .mgmtLinkTrial trained => Sys2Proof.Machine.execMgmtLinkTrial trained s
  | .splicePhyTrained port => Sys2Proof.Machine.execSplicePhyTrained port s
  | .hello port device resetGen nonce drDigest => Sys2Proof.Machine.execHello port device resetGen nonce drDigest s
  | .report port r => Sys2Proof.Machine.execReport port r s
  | .key port contribution root => Sys2Proof.Machine.execKey port contribution root s
  | .spliceDomainRetry port => Sys2Proof.Machine.execSpliceDomainRetry port s
  | .spliceAttestRetry port => Sys2Proof.Machine.execSpliceAttestRetry port s
  | .spliceLinkDown port => Sys2Proof.Machine.execSpliceLinkDown port s
  | .matchIn port env body => Sys2Proof.Machine.execMatchIn port env body s
  | .matchOut port env body => Sys2Proof.Machine.execMatchOut port env body s
  | .continuationExpiry lookupId => Sys2Proof.Machine.execContinuationExpiry lookupId s
  | .frame port env lport toRelay bytes => Sys2Proof.Machine.execFrame port env lport toRelay bytes s
  | .unknownOpcode p => Sys2Proof.Machine.execUnknownOpcode p s
  | .thermalTripRelease tj hbm => Sys2Proof.Machine.execThermalTripRelease tj hbm s
  | .hostLinkTrained port link acceptsCxl => Sys2Proof.Machine.execHostLinkTrained port link acceptsCxl s
  | .pfcPauseTimeExpiry port prio => Sys2Proof.Machine.execPfcPauseTimeExpiry port prio s
  | .spliceFrameRetry port => Sys2Proof.Machine.execSpliceFrameRetry port s

end Sys2Proof.Machine
end

