-- ==== Sys2Proof/Machine/Step.lean ====
section
/-! DEFINITION. One step: the command at the front of the queue takes effect; with none the block idles. -/
namespace Sys2Proof.Machine

/-- Takes the first command that waits and gives its effect on the rest of the machine. [DESIGN CHOICE, log 1, 134] -/
def step (s : State) : Host.Outcome State Fault Refusal :=
  match s.pending with
  | [] => .next s
  | c :: rest => exec c { s with pending := rest }

/-- The state with the command that a word spells put in front of the queue; unchanged where it spells none.
[DESIGN CHOICE, log 1] -/
def State.withFetchWord (s : State) (nbits w : Nat) : State :=
  match decodeTableWord nbits w with
  | some c => { s with pending := c :: s.pending }
  | none => s

end Sys2Proof.Machine
end

