-- ==== Sys2Proof/Safety.lean ====
section
/-! DEFINITION. The terms that claims use: how a step ends, when a command packet reaches its own run, and what no step leaves
behind. -/
namespace Sys2Proof.Machine

/-! ## How a step ends -/

/-- The state in which a command that did `u` ends: the NAND operations that can be issued are issued (R280), every ready unit that
finds an idle instance is dispatched (R319, R322), and the queue of commands is the step's own. -/
def settled (s u : State) : State := { pumpAll (issueNand u) with pending := s.pending }

/-- No idle instance of any kind beside a unit that is ready to run on it (R319, R322). -/
def NoUnitWaits (s : State) : Prop := ∀ k ∈ allKinds, dispatchOne k s = none

/-- All that the dispatch of units may change: the engines with their pools, buffers and storyboards begun, the attention units
charged (R247), and which message a queue pair is sending. -/
def DispatchOnly (s t : State) : Prop :=
  t = { s with eng := t.eng, jobs := { s.jobs with use := t.jobs.use }, net := { s.net with qps := t.net.qps } }

/-! ## Command packets -/

/-- The lane hands the packet to intake, which sees the state `s0`: on the management path at once; on a ring pair when the
entry last fetched is this packet's (R371); on a queue pair when the transport takes it in its PSN's turn, it is no longer than the
largest packet and the receive buffer has room for it (R340, Table 12.4, R348, R349). -/
def Delivered (i : Instr) (p : Packet) (s s0 : State) : Prop :=
  match p.path with
  | .mgmt => s0 = s
  | .pcie => 0x800000 ≤ p.lane ∧ (∃ r, findRing s (laneRing p.lane).1 (laneRing p.lane).2 = some r ∧ 0 < r.arriving)
      ∧ s0 = setRing (laneRing p.lane).1 (laneRing p.lane).2 (fun r => { r with arriving := 0 }) s
  | .rdma => ∃ s1 q, rcEnter i { p.bth with qpn := p.lane } p.length s = (s1, true) ∧ findQp s1 p.lane = some q
      ∧ p.bth.psn = q.expectedPsn ∧ p.length ≤ 69632 ∧ p.bth.noRoom = false ∧ s0 = advancePsn p.lane (rcPackets s1 p.lane p.length) s1

/-- A packet of a queue pair reaches its transport in the state `s1`: its port is served, its context resident (Table 12.4). -/
def Enters (i : Instr) (h : Bth) (bytes : Nat) (s s1 : State) : Prop := rcEnter i h bytes s = (s1, true)

/-- A request enters with the PSN that its queue pair expects (R348). -/
def InTurn (i : Instr) (h : Bth) (bytes : Nat) (s s1 : State) : Prop :=
  Enters i h bytes s s1 ∧ ∃ q, findQp s1 h.qpn = some q ∧ h.psn = q.expectedPsn

/-- What the lane does once the packet has been taken: a ring pair fetches its next entry. -/
def afterPacket (p : Packet) (u : State) : State :=
  match p.path with
  | .pcie => fetchRing (laneRing p.lane).1 (laneRing p.lane).2 u
  | _ => u

/-- A command packet is delivered and accepted (Table 10.9) as the command `c`, which holds its completion entry (R373) and
which FENCE does not hold (R300): its own run begins in `t`. -/
def Runs (i : Instr) (op : OpInfo) (p : Packet) (atAccept : Cmd → State → State) (s : State) (c : Cmd) (t : State) : Prop :=
  ∃ s0 s1 c0, Delivered i p s s0 ∧ intake i op p s0 = (s1, some c0) ∧ findCmd (atAccept c0 s1) c0.slot = some c
    ∧ moveEntry c (atAccept c0 s1) = some t ∧ (c.fence = true → fenceClear t c = true)

/-- What the issue of NAND operations may change: which operations run and are suspended, and the floor's counters. -/
def IssueOnly (s t : State) : Prop :=
  t = { s with flash := { s.flash with ops := t.flash.ops, nandFloor := t.flash.nandFloor } }

/-- No maintenance command accepted before `c` waits for its reply (R488). -/
def TurnHasCome (s : State) (c : Cmd) : Prop := ∀ d ∈ s.jobs.cmds, isMaintenance d.instr = true → c.acceptSlate ≤ d.acceptSlate

/-! ## The TAP -/

/-- The instruction that the TAP executes: IDCODE and BYPASS at all times, the others only while no job is open, when it acts as
for BYPASS (R417). [DEDUCED, log 105] -/
def tapActs (s : State) : TapInstr := if boundaryScan s && !s.jobs.table.isEmpty then .bypass else s.sec.tap

/-! ## Match-array banks -/

/-- The valid entries of every bank stand at distinct positions below 256, in non-increasing PRIORITY (R104). -/
def BanksOrdered (es : List MatchEntry) : Prop :=
  ∀ x ∈ es, ∀ y ∈ es, x.valid = true → y.valid = true → x.bank = y.bank →
    x.pos < 256 ∧ (x.pos = y.pos → x = y) ∧ (x.pos < y.pos → y.priority ≤ x.priority)

end Sys2Proof.Machine
end

