-- ==== Sys2Proof/Certificates/Slice0/Obligations.lean ====
section
/-! DEFINITION. The statements for the provers. Each docstring names the rules of the spec that its statement formalises. -/

section
open Sys2Proof Sys2Proof.Machine

/-- For every command c, state s and queue rest: the step of s with c at the front of its queue is exec of c on s with the rest as
its queue. With no command waiting, a step answers the state unchanged; that the block idles, and that no tick happens then, is
the model's choice (log entry 1). -/
def Obligations.StepRunsTheFrontCommand : Prop :=
  (∀ (s : State) (c : Instr) (rest : List Instr), step { s with pending := c :: rest } = exec c { s with pending := rest }) ∧
  (∀ s : State, s.pending = [] → step s = .next s)

/-- Every command in every state answers a next state: what its own effect made of the state, after which only the issue of NAND
operations (R280), which changes which of them run, and the dispatch of units (R319, R322) change anything; the dispatch changes
the engines, the tenants' use (R247) and which message a queue pair is sending. The queue is what it was. -/
def Obligations.EveryCommandAnswers : Prop :=
  ∀ (i : Instr) (s : State), ∃ u, exec i s = .next (settled s u) ∧ (settled s u).pending = s.pending ∧
    IssueOnly { u with pending := s.pending } { issueNand u with pending := s.pending } ∧
    DispatchOnly { issueNand u with pending := s.pending } (settled s u)

/-- In State.reset no engine kind has both an idle instance and a queued unit that is ready to run, and no NAND channel an operation
that it can issue. -/
def Obligations.NoUnitWaitsAtReset : Prop :=
   NoUnitWaits State.reset ∧ chooseNand State.reset = none

/-- From every state in which no idle instance of any kind stands beside a unit that is ready to run on it, every step leads to such
a state: whatever a command frees or queues, what may start has started at its end (R319, R322). The same holds of the NAND
channels and the operations that they can issue (R280). -/
def Obligations.NoUnitIsLeftWaiting : Prop :=
   (∀ s t : State, NoUnitWaits s → step s = .next t → NoUnitWaits t) ∧
   (∀ s t : State, chooseNand s = none → step s = .next t → chooseNand t = none)

/-- At State.reset no command, job, lane, profile or pin record exists, the event ring and the match array are empty, the stage pool
is divided 11,264 to 33,792 (R16), 65,536 command slots are free, LC_RESERVE is 25 and the BE floor 0 (R325, R320), the device
is at no start-up step, every link is down and no window is backed. -/
def Obligations.ResetLeavesTheBlockIdle : Prop :=
  State.reset.pending = [] ∧ State.reset.jobs.table = [] ∧ State.reset.jobs.cmds = [] ∧ State.reset.jobs.lanes = [] ∧
  State.reset.eng.profiles = [] ∧ State.reset.index.records = [] ∧ State.reset.clk.events = [] ∧
  State.reset.eng.stage = { total := 45056, reserveSize := 11264, lcFree := 11264, sharedFree := 33792 } ∧
  State.reset.jobs.slotsFree = 65536 ∧
  State.reset.cfg.lcReserve = 25 ∧ State.reset.cfg.beFloor = 0 ∧ State.reset.power.step = 0 ∧
  (∀ l ∈ State.reset.net.lports, l.up = false) ∧ (∀ l ∈ State.reset.host.links, l.up = false) ∧
  (∀ w ∈ State.reset.host.windows, w.granules = 0) ∧ State.reset.marr.entries = []

/-- An LC take of n units comes from the reserve while the reserve has them, and from the shared pool for the rest; a BE take comes
from the shared pool only; a take that its parts cannot meet fails; and giving a take back restores the pool it came from, part
by part (R326). -/
def Obligations.PoolsTakeByClass : Prop :=
  (∀ (p : Pool) (n : Nat), n ≤ p.lcFree → p.take .lc n = some ({ lc := n, shared := 0 }, { p with lcFree := p.lcFree - n })) ∧
  (∀ (p : Pool) (n : Nat), p.lcFree < n → n ≤ p.lcFree + p.sharedFree → p.take .lc n
    = some ({ lc := p.lcFree, shared := n - p.lcFree }, { p with lcFree := 0, sharedFree := p.sharedFree - (n - p.lcFree) })) ∧
  (∀ (p : Pool) (n : Nat), n ≤ p.sharedFree →
    p.take .be n = some ({ lc := 0, shared := n }, { p with sharedFree := p.sharedFree - n })) ∧
  (∀ (p q : Pool) (c : Cls) (n : Nat) (t : Taken), p.take c n = some (t, q) → t.lc + t.shared = n ∧ q.give t = p) ∧
  (∀ (p : Pool) (n : Nat), (p.lcFree + p.sharedFree < n → p.take .lc n = none) ∧ (p.sharedFree < n → p.take .be n = none))

/-- A chain of n blocks has n keys; the keys of the first n blocks depend on the tokens of those blocks alone; the keys of a longer
chain begin with those of a shorter one; and a chain is continued from its last key with the tokens that follow (R37, R38, R40,
R74). -/
def Obligations.PrefixesShareTheirKeys : Prop :=
  (∀ (s : State) (tenant t n : Nat) (prev : BlockKey) (toks : List U64), (chainKeys s tenant t n prev toks).length = n) ∧
  (∀ (s : State) (tenant t n : Nat) (prev : BlockKey) (a x y : List U64), a.length = t * n →
    chainKeys s tenant t n prev (a ++ x) = chainKeys s tenant t n prev (a ++ y)) ∧
  (∀ (s : State) (tenant t m n : Nat) (prev : BlockKey) (toks : List U64), m ≤ n →
    (chainKeys s tenant t n prev toks).take m = chainKeys s tenant t m prev toks) ∧
  (∀ (s : State) (tenant t m n : Nat) (prev k : BlockKey) (toks : List U64), (chainKeys s tenant t m prev toks).getLast? = some k →
    chainKeys s tenant t (m + n) prev toks = chainKeys s tenant t m prev toks ++ chainKeys s tenant t n k (toks.drop (t * m)))

/-- The handle of a record gives back JOB_INDEX, JOB_GEN, RECORD and RECORD_GEN (Table 2.6). A handle whose job differs from the
command's job is denied; one that resolves names a live record of that very job with that number and generation; and one that
names no live record is a bad parameter (R54). That a handle of the own job which names another job's record is denied too is
the model's reading (log entry 61). -/
def Obligations.PinHandlesNameTheirRecord : Prop :=
  (∀ r : PinRecord, r.job < 2 ^ 14 → r.jobGen < 2 ^ 6 → r.record < 2 ^ 20 → r.gen < 2 ^ 24 →
    handleJob (pinHandle r) = r.job ∧ handleJobGen (pinHandle r) = r.jobGen ∧ handleRecord (pinHandle r) = r.record ∧
      handleGen (pinHandle r) = r.gen) ∧
  (∀ (s : State) (j : Job) (h : U64), handleJob h ≠ j.index ∨ handleJobGen h ≠ j.gen → resolvePin s j h = .error .denied) ∧
  (∀ (s : State) (j : Job) (h : U64) (r : PinRecord), resolvePin s j h = .ok r →
    r ∈ s.index.records ∧ r.job = j.index ∧ r.jobGen = j.gen ∧ r.record = handleRecord h ∧ r.gen = handleGen h ∧ r.released = false) ∧
  (∀ (s : State) (j : Job) (h : U64), handleJob h = j.index → handleJobGen h = j.gen →
    (∀ r ∈ s.index.records, r.record = handleRecord h → r.gen = handleGen h → r.released = true) → resolvePin s j h = .error .badParam)

/-- LOOKUP, LOOKUP_PIN, INGEST_OPEN of a first block and PURGE_SCOPE whose SCOPE_ID is not among the scopes of the job complete with
ST_DENIED once their format passes, and have no other effect (R30). -/
def Obligations.ScopesOutsideTheJobRefused : Prop :=
  (∀ (s t : State) (p : Packet) (a : LookupParams) (c : Cmd) (j : Job) (mask : Nat),
      Runs (.lookup p a) (opLate 0x0301) p atOnce s c t → jobOf t c = some j → lookupForm t j p a false = true →
      tokensAgree p 0x10 (bitOf a.lkFlags.toNat 0) a.tokenCount.toNat = true → acceptMask t j a.variantMask = some mask →
      a.hopBudget.toNat ≤ 63 → a.scopeId ∉ j.scopes →
    exec (.lookup p a) s = .next (settled s (afterPacket p (fail c .denied t)))) ∧
  (∀ (s t : State) (p : Packet) (a : LookupParams) (c : Cmd) (j : Job) (mask : Nat),
      Runs (.lookupPin p a) (opLate 0x0302) p atOnce s c t → jobOf t c = some j → lookupForm t j p a true = true →
      tokensAgree p 0x10 (bitOf a.lkFlags.toNat 0) a.tokenCount.toNat = true → acceptMask t j a.variantMask = some mask →
      a.hopBudget.toNat ≤ 63 → a.scopeId ∉ j.scopes →
    exec (.lookupPin p a) s = .next (settled s (afterPacket p (fail c .denied t)))) ∧
  (∀ (s t : State) (p : Packet) (a : IngestOpenParams) (c : Cmd) (j : Job),
      Runs (.ingestOpen p a) (opLate 0x0401) p (acceptIngestOpen a) s c t → jobOf t c = some j → j.closing = false →
      bitsOf a.ioFlags.toNat 3 5 = 0 → descsOk t j p [kindToken] = true →
      tokensAgree p 0x10 (ioFlag a 0) a.tokenCount.toNat = true → a.baseHandle = 0 → a.scopeId ∉ j.scopes →
    exec (.ingestOpen p a) s = .next (settled s (afterPacket p (sweepProfiles (fail c .denied t))))) ∧
  (∀ (s t : State) (p : Packet) (a : PurgeScopeParams) (c : Cmd) (j : Job), Runs (.purgeScope p a) (opLate 0x0704) p atOnce s c t →
      jobOf t c = some j → formOk p 8 [] true = true → a.reserved02 = 0 → a.scopeId ∉ j.scopes →
    exec (.purgeScope p a) s = .next (settled s (afterPacket p (fail c .denied t))))

/-- A WRITE in its PSN's turn, with the job's landing key and within the slots granted to it, makes every byte of its range read as
the data and leaves every other byte as it was; the job table, the index, the host windows, the configuration and what persists
are unchanged (R347, R348).
Readings and choices of the model in it: log entries 10 and 23. -/
def Obligations.LandingWritesStoreTheirBytes : Prop :=
  ∀ (s t u : State) (h : Bth) (rkey : U32) (addr : U64) (data : List Byte),
      InTurn (.rdmaWriteReceived h rkey addr data) h data.length s t → landingOk t h.qpn rkey addr.toNat data.length = true →
      exec (.rdmaWriteReceived h rkey addr data) s = .next u →
    (∀ x, memRead u.tiers.landingMem x
      = if addr.toNat ≤ x ∧ x < addr.toNat + data.length then data.getD (x - addr.toNat) 0 else memRead s.tiers.landingMem x) ∧
    u.jobs.table = s.jobs.table ∧ u.index = s.index ∧ u.host = s.host ∧ u.cfg = s.cfg ∧ u.persist = s.persist

/-- At reset both byte memories are in canonical form (addresses strictly rising, no zero byte listed); every RDMA WRITE keeps that
of the landing region and every CXL.mem write that of the windows, in whatever state they find the device.
Readings and choices of the model in it: log entries 10, 23 and 86. -/
def Obligations.MemoriesStayCanonical : Prop :=
  (Memory.wf State.reset.tiers.landingMem = true ∧ ∀ w ∈ State.reset.host.windows, Memory.wf w.mem = true) ∧
  (∀ (s t : State) (h : Bth) (rkey : U32) (addr : U64) (data : List Byte), Memory.wf s.tiers.landingMem = true →
      exec (.rdmaWriteReceived h rkey addr data) s = .next t → Memory.wf t.tiers.landingMem = true) ∧
  (∀ (s t : State) (port line : Nat) (data : List Byte) (enables : List Bool) (grant : LineState),
      (∀ w ∈ s.host.windows, Memory.wf w.mem = true) → exec (.cxlMemWrite port line data enables grant) s = .next t →
    ∀ w ∈ t.host.windows, Memory.wf w.mem = true)

/-- At reset the banks are in order. DOLLY_INSERT, DOLLY_REMOVE, DOLLY_HINT, DOLLY_REPAIR and TENANT_SWEEP keep every bank in order:
valid entries at distinct positions below 256, of non-increasing PRIORITY (R104, R105). -/
def Obligations.BanksStayInOrder : Prop :=
  BanksOrdered State.reset.marr.entries ∧
  ∀ (s t : State) (sect : Nat) (tenant : BitVec 12), BanksOrdered s.marr.entries →
    ∀ i ∈ [Instr.dollyInsert sect, .dollyRemove sect, .dollyHint sect, .dollyRepair sect, .tenantSweep tenant],
      exec i s = .next t → BanksOrdered t.marr.entries

/-- After an insertion that its bank has room for, the bank holds the entry asked for; valid entries before it have no lower
PRIORITY, those behind it a lower one; and no entry of another bank changed (R104, R105).
Readings and choices of the model in it: log entry 53. -/
def Obligations.InsertionSplitsItsBank : Prop :=
  ∀ (s t : State) (sect : Nat) (x : Section) (ptr : Nat) (lo : U64) (tenant pri hint : Nat), BanksOrdered s.marr.entries →
      findSection s sect = some x → dollyNext x.requests = some (.insert ptr lo tenant pri hint) →
      s.marr.absent.contains (bankOf lo) = false → insertPos s.marr.entries (bankOf lo) pri < 256 →
      exec (.dollyInsert sect) s = .next t →
    ∃ e ∈ t.marr.entries, e.valid = true ∧ e.bank = bankOf lo ∧ e.keyLo = lo ∧ e.tenant = tenant ∧ e.priority = pri ∧
      e.nodePtr = ptr ∧ e.tierHint = hint ∧
      (∀ y ∈ t.marr.entries, y.valid = true → y.bank = bankOf lo → y.pos < e.pos → pri ≤ y.priority) ∧
      (∀ y ∈ t.marr.entries, y.valid = true → y.bank = bankOf lo → e.pos < y.pos → y.priority < pri) ∧
      (∀ y, y.bank ≠ bankOf lo → (y ∈ t.marr.entries ↔ y ∈ s.marr.entries))

/-- In ordered banks a search answers an entry that matches the probe and that no matching entry exceeds in PRIORITY or, at equal
PRIORITY, precedes; it answers none only where no entry matches (R101, R104). -/
def Obligations.ProbesFindTheHighestPriority : Prop :=
  ∀ (s : State) (q : Probe), BanksOrdered s.marr.entries →
    (searchBank s q = none → ∀ x ∈ s.marr.entries, entryMatches q x = false) ∧
    (∀ e, searchBank s q = some e → e ∈ s.marr.entries ∧ entryMatches q e = true ∧
      ∀ x ∈ s.marr.entries, entryMatches q x = true → x.priority ≤ e.priority ∧ (x.priority = e.priority → e.pos ≤ x.pos))

/-- Each TAP instruction is loaded. IDCODE and BYPASS act at all times; SAMPLE/PRELOAD, EXTEST, INTEST, CLAMP and HIGHZ act while no
job is open and as BYPASS while one is. While one of the five is in the instruction register, a JOB_OPEN that passes the tests
before step 4 receives a plain ST_DENIED and has no other effect (R417). -/
def Obligations.TapInstructionsLoad : Prop :=
  (∀ s : State, exec .idcode s = .next (settled s (emit (.idcodeRead Config.idcode) { s with sec := { s.sec with tap := .idcode } })) ∧
    exec .bypass s = .next (settled s { s with sec := { s.sec with tap := .bypass } }) ∧
    tapActs { s with sec := { s.sec with tap := .idcode } } = .idcode ∧ tapActs { s with sec := { s.sec with tap := .bypass } } = .bypass) ∧
  (∀ s : State, ∀ x ∈ [(Instr.samplePreload, TapInstr.samplePreload), (.extest, .extest), (.intest, .intest), (.clamp, .clamp),
      (.highz, .highz)],
    exec x.1 s = .next (settled s { s with sec := { s.sec with tap := x.2 } }) ∧
    tapActs { s with sec := { s.sec with tap := x.2 } } = if s.jobs.table = [] then x.2 else .bypass) ∧
  (∀ (s t : State) (p : Packet) (a : JobOpenParams), Delivered (.jobOpen p a) p s t → p.path ≠ .mgmt → laneServed t p = true →
      framingOk p = true → paramLen p = 0x440 → descCount p = 0 → answersTransition t p = false →
      t.sec.tap ∈ [TapInstr.samplePreload, .extest, .intest, .clamp, .highz] →
    exec (.jobOpen p a) s = .next (settled s (afterPacket p (plainReply p.lane p.tag .denied noFlags 0 0 t))))

/-- With BAR0 served, DOE discovery, GET_VERSION, GET_CAPABILITIES, NEGOTIATE_ALGORITHMS, GET_DIGESTS, GET_CERTIFICATE of slot 0,
CHALLENGE of slot 0 and GET_MEASUREMENTS answer and change nothing else; CHALLENGE and GET_MEASUREMENTS answer one snapshot of
the eight registers (R408), and an ERROR Busy during a transition (R410).
Readings and choices of the model in it: log entries 94 and 144. -/
def Obligations.DoeRequestsAnswered : Prop :=
  (∀ (s : State) (port : Nat), barServed s port 0 = true →
    exec (.doeDiscovery port 0) s = .next (settled s (emit (.doeDiscovery port 0 1 0 1) s)) ∧
    exec (.doeDiscovery port 1) s = .next (settled s (emit (.doeDiscovery port 1 1 1 0) s)) ∧
    exec (.getVersion port) s = .next (settled s (emit (.spdmVersion port) s)) ∧
    exec (.getCapabilities port) s = .next (settled s (emit (.spdmCapabilities port) s)) ∧
    (∀ offers, exec (.negotiateAlgorithms port offers) s = .next (settled s (emit (.spdmAlgorithms port offers) s))) ∧
    exec (.getDigests port) s = .next (settled s (emit (.spdmDigests port) s)) ∧
    (∀ offset len, exec (.getCertificate port 0 offset len) s = .next (settled s (emit (.spdmCertificate port 0 offset len) s)))) ∧
  (∀ (s : State) (port : Nat), barServed s port 0 = true → s.sec.transition = false → s.power.flushing = none →
    (∀ nonce, exec (.challenge port 0 nonce) s = .next (settled s (emit (.spdmChallenge port nonce (measurementsOf s)) s))) ∧
    (∀ index nonce, index ≤ 8 ∨ index = 0xFF →
      exec (.getMeasurements port index nonce) s = .next (settled s (emit (.spdmMeasurements port index nonce (measurementsOf s)) s)))) ∧
  (∀ (s : State) (port : Nat) (nonce : BitVec 256), barServed s port 0 = true → s.sec.transition = true →
    exec (.challenge port 0 nonce) s = .next (settled s (emit (.spdmError port 3) s)) ∧
    (∀ index, exec (.getMeasurements port index nonce) s = .next (settled s (emit (.spdmError port 3) s))))

/-- On a port that runs CXL, each supported mailbox command answers from the host window, CLEAR_EVENT_RECORDS clears the records,
and an unsupported opcode is answered as such.
Readings and choices of the model in it: log entry 87. -/
def Obligations.MailboxCommandsAnswered : Prop :=
  ∀ (s : State) (port : Nat), barServed s port 0 = true → (findWindow s port).cxl = true →
    exec (.getPoisonList port) s = .next (settled s (emit (.poisonList port (findWindow s port).poisoned) s)) ∧
    exec (.identifyMemoryDevice port) s
      = .next (settled s (emit (.mailbox port 0x4000 (findWindow s port).granules (findWindow s port).eventRecords) s)) ∧
    exec (.getPartitionInfo port) s
      = .next (settled s (emit (.mailbox port 0x4100 (findWindow s port).granules (findWindow s port).eventRecords) s)) ∧
    exec (.getHealthInfo port) s
      = .next (settled s (emit (.mailbox port 0x4200 (findWindow s port).granules (findWindow s port).eventRecords) s)) ∧
    exec (.getEventRecords port) s
      = .next (settled s (emit (.mailbox port 0x0100 (findWindow s port).granules (findWindow s port).eventRecords) s)) ∧
    exec (.clearEventRecords port) s
      = .next (settled s (emit (.mailbox port 0x0101 (findWindow s port).granules 0) (setWindow port (fun w => { w with eventRecords := 0 }) s))) ∧
    (∀ opcode, exec (.mailboxUnsupported port opcode) s = .next (settled s (emit (.mailboxUnsupported port opcode) s)))

/-- A read of a backed, unfenced line answers its 64 bytes, or poison; a write stores its enabled bytes, clears poison when it
writes all, and completes; a BAR2 request on a CXL port is unsupported; a BIRSP and a fence timeout give the line back and end
the fence once no line is left (R378 to R383).
Readings and choices of the model in it: log entry 86. -/
def Obligations.CxlRequestsServed : Prop :=
  (∀ (s : State) (port line : Nat) (grant : LineState), cxlServed s port = true →
      lineBacked (findWindow s port) line = true → lineFenced (findWindow s port) line = false →
    exec (.cxlMemRead port line grant) s = .next (settled s (emit
      (.cxlData port line (if (findWindow s port).poisoned.contains line then none
        else some (memBytes (findWindow s port).mem (64 * line) 64)))
      (setWindow port (grantLine line grant) s)))) ∧
  (∀ (s : State) (port line : Nat) (data : List Byte) (enables : List Bool) (grant : LineState), cxlServed s port = true →
      lineBacked (findWindow s port) line = true → lineFenced (findWindow s port) line = false →
    exec (.cxlMemWrite port line data enables grant) s = .next (settled s (emit (.cxlWriteDone port line)
      (setWindow port (fun w => grantLine line grant
        { w with mem := writeLine line data enables w.mem,
                 poisoned := if (List.range 64).all (fun i => enables.getD i false) then w.poisoned.filter (fun l => l != line)
                   else w.poisoned }) s)))) ∧
  (∀ (s : State) (port offset : Nat), hostUp s port 0 = true →
    exec (.cxlIoBar2Request port offset) s = .next (settled s (emit (.unsupportedRequest port) s))) ∧
  (∀ (s : State) (port line : Nat),
    exec (.birsp port line) s = .next (settled s (goOn (fenceDone port (setWindow port (grantLine line .inv) s))))) ∧
  (∀ (s : State) (port line : Nat), lineFenced (findWindow s port) line = true →
      ((findWindow s port).lines.any fun l => l.1 == line) = true →
    exec (.fenceTimeout port line) s = .next (settled s (goOn (fenceDone port
      (setWindow port (fun w => grantLine line .inv { w with fenceTimeouts := w.fenceTimeouts + 1 }) s)))))

/-- After a write to a backed, unfenced line, a byte of the window reads as the data where it lies in the line and is enabled, and
as before everywhere else; the other port's window, the tiers, the index and the configuration are unchanged.
Readings and choices of the model in it: log entries 10 and 86. -/
def Obligations.CxlWriteStoresEnabledBytes : Prop :=
  ∀ (s t : State) (port line : Nat) (data : List Byte) (enables : List Bool) (grant : LineState), cxlServed s port = true →
      lineBacked (findWindow s port) line = true → lineFenced (findWindow s port) line = false →
      exec (.cxlMemWrite port line data enables grant) s = .next t →
    (∀ a, memRead (findWindow t port).mem a
      = if 64 * line ≤ a ∧ a < 64 * line + 64 ∧ enables.getD (a - 64 * line) false = true then data.getD (a - 64 * line) 0
        else memRead (findWindow s port).mem a) ∧
    (∀ p, p ≠ port → findWindow t p = findWindow s p) ∧ t.tiers = s.tiers ∧ t.index = s.index ∧ t.cfg = s.cfg

/-- Configuration requests, function-level resets of a VF and of the PF, VF Enable changes, link-down, PERST assert and release, and
link training of both links of a port have the effects of Table 13.12.
Readings and choices of the model in it: log entries 85 and 88. -/
def Obligations.HostLinksAndFunctionsReset : Prop :=
  (∀ (s : State) (port link fn : Nat), hostUp s port link = true →
    exec (.pcieConfigRequest port link fn) s = .next (settled s (emit (.configResponse port link fn (decide (s.power.step < 5))) s))) ∧
  (∀ (s : State) (port link fn : Nat), hostUp s port link = true → fn ≠ 0 →
    exec (.functionLevelReset port link fn) s = .next (settled s (goOn (resetFunction port link fn s)))) ∧
  (∀ (s : State) (port link : Nat), hostUp s port link = true →
    exec (.functionLevelReset port link 0) s = .next (settled s (goOn
      (setFunctions port link 0 (setLink port link (fun l => { l with vfs := 0 }) (resetLink port link s)))))) ∧
  (∀ (s : State) (port link numVfs : Nat), barServed s port link = true → numVfs ≤ 127 →
    exec (.vfEnableChange port link true numVfs) s = .next (settled s (goOn
      (setFunctions port link numVfs (setLink port link (fun l => { l with vfs := numVfs }) (resetLink port link s)))))) ∧
  (∀ (s : State) (port link numVfs : Nat), barServed s port link = true →
    exec (.vfEnableChange port link false numVfs) s = .next (settled s (goOn
      (setFunctions port link 0 (setLink port link (fun l => { l with vfs := 0 }) (resetLink port link s)))))) ∧
  (∀ (s : State) (port link : Nat), hostUp s port link = true →
    exec (.hostLinkDown port link) s = .next (settled s (goOn (loseLink port link 1 s))) ∧
    exec (.perstAssert port link) s
      = .next (settled s (goOn (setLink port link (fun l => { l with perst := true }) (loseLink port link 1 s))))) ∧
  (∀ (s : State) (port link : Nat),
    exec (.perstRelease port link) s = .next (settled s (setLink port link (fun l => { l with perst := false }) s))) ∧
  (∀ (s : State) (port : Nat) (acceptsCxl : Bool) (l : HostLink), findLink s port 0 = some l → l.up = false → l.perst = false →
      3 ≤ s.power.step → (hostCfg s port).adminDown = false →
    exec (.hostLinkTrained port 0 acceptsCxl) s = .next (settled s (portUp 2 port (hostCfg s port).mode
      (setWindow port (fun w => { w with cxl := (hostCfg s port).cxlEnable && (hostCfg s port).mode == 0 && acceptsCxl })
        (setFunctions port 0 0 (setLink port 0 (fun l => { l with up := true, vfs := 0 }) s)))))) ∧
  (∀ (s : State) (port : Nat) (acceptsCxl : Bool) (l : HostLink), findLink s port 1 = some l → l.up = false → l.perst = false →
      3 ≤ s.power.step → (hostCfg s port).adminDown = false → (hostCfg s port).mode = 1 →
    exec (.hostLinkTrained port 1 acceptsCxl) s = .next (settled s (portUp 2 port 1
      (setFunctions port 1 0 (setLink port 1 (fun l => { l with up := true, vfs := 0 }) s)))))

/-- Both doorbells move their pointer and fetch; enabling a ring checks its configuration and sets the ring or its fault; disabling
one unbinds its lane; EVENT_STATUS clears by writing ones, the mask and vector are written; and a coalescing expiry sends the
interrupt that waits (R363 to R375).
Readings and choices of the model in it: log entries 9, 44, 84 and 89. -/
def Obligations.RingRegistersWritten : Prop :=
  (∀ (s : State) (port link ring : Nat) (value : U64) (entries : List SqEntry), doorbellServed s port link ring = true →
      bitOf value.toNat 62 = true → bitOf value.toNat 63 = false →
    exec (.doorbellSqTail port link ring value entries) s = .next (settled s (goOn (fetchRing port ring
      (setRing port ring (fun r =>
        { r with sqTail := bitsOf value.toNat 0 16 % sqSize r,
                 waitingEntries := r.waitingEntries ++ entries.take ((bitsOf value.toNat 0 16 % sqSize r + sqSize r - r.sqTail) % sqSize r) })
        s))))) ∧
  (∀ (s : State) (port link ring : Nat) (value : U64), doorbellServed s port link ring = true → bitOf value.toNat 63 = true →
    exec (.doorbellCqHead port link ring value) s = .next (settled s (goOn (fetchRing port ring
      (setRing port ring (fun r => { r with cqHead := bitsOf value.toNat 32 16 % cqSize r }) s))))) ∧
  (∀ (s : State) (port link ring : Nat) (control : U32) (r : RingPair), ringExists s port link ring = true →
      findRing s port ring = some r → r.enable = false →
      ringConfigOk s { withControl control (clearRing r) with enable := true } = true →
    exec (.rpEnable port link ring control) s = .next (settled s
      (putRing port link ring (fun _ => { withControl control (clearRing r) with enable := true }) s))) ∧
  (∀ (s : State) (port link ring : Nat) (control : U32) (r : RingPair), ringExists s port link ring = true →
      findRing s port ring = some r → r.enable = false →
      ringConfigOk s { withControl control (clearRing r) with enable := true } = false →
    exec (.rpEnable port link ring control) s = .next (settled s
      (putRing port link ring (fun _ => { withControl control (clearRing r) with enable := true, fault := true, faultCause := 1 }) s))) ∧
  (∀ (s : State) (port link ring : Nat) (r : RingPair), ringExists s port link ring = true →
      findRing s port ring = some r → r.enable = true →
    exec (.rpDisable port link ring) s = .next (settled s (goOn (unbindLane (ringLane port ring)
      (setRing port ring (fun r => { clearRing r with enable := false }) s))))) ∧
  (∀ (s : State) (port link fn : Nat) (value : U64), barServed s port link = true → (findFunc s port link fn).isSome = true →
    exec (.registerWrite port link fn 0x08 4 value) s = .next (settled s (goOn
      (setFunc port link fn (fun f => { f with events := f.events &&& (0x3F ^^^ (value.toNat &&& 0x3F)) }) s))) ∧
    exec (.registerWrite port link fn 0x0C 4 value) s = .next (settled s (goOn
      (setFunc port link fn (fun f => { f with mask := value.toNat % 64 }) s))) ∧
    exec (.registerWrite port link fn 0x10 4 value) s = .next (settled s (goOn
      (setFunc port link fn (fun f => { f with vector := value.toNat % 256 }) s)))) ∧
  (∀ (s : State) (port ring : Nat) (r : RingPair), findRing s port ring = some r → r.coalescing = true → r.coalescePending = true →
    exec (.msixCoalesceExpiry port ring) s = .next (settled s
      (setRing port ring (fun r => { r with coalescePending := false }) (sendMsix port r.link r.fn r.vector s)))) ∧
  (∀ (s : State) (port ring : Nat) (r : RingPair), findRing s port ring = some r → r.coalescing = true → r.coalescePending = false →
    exec (.msixCoalesceExpiry port ring) s = .next (settled s (setRing port ring (fun r => { r with coalescing := false }) s)))

/-- An ARP request, a neighbour solicitation and an echo request for an address that the port holds are answered; other frames are
counted and dropped; a DHCP reply and a router advertisement give the port an address, and an expiry takes it away.
Readings and choices of the model in it: log entries 32, 103 and 136. -/
def Obligations.AddressResolutionAnswered : Prop :=
  (∀ (s : State) (lport : Nat) (target : U32) (l : LogicalPort), lportServed s lport = true → findLport s lport = some l →
      l.ipv4 = some target →
    exec (.arpRequest lport target) s = .next (settled s (emit (.arpReply lport target) s))) ∧
  (∀ (s : State) (lport : Nat) (target : BitVec 128), lportServed s lport = true → holdsAddress s lport target = true →
    exec (.neighborDiscovery lport target) s = .next (settled s (emit (.neighborAdvert lport target) s))) ∧
  (∀ (s : State) (lport : Nat) (ip : U32) (l : LogicalPort), lportServed s lport = true → findLport s lport = some l →
      l.ipv4 = some ip →
    exec (.icmpEcho lport (mappedV4 ip) false) s = .next (settled s (emit (.echoReply lport) s))) ∧
  (∀ (s : State) (lport : Nat) (target : BitVec 128) (l : LogicalPort), lportServed s lport = true → findLport s lport = some l →
      l.ipv4.map mappedV4 ≠ some target → (l.ipv6.contains target = true ∨ linkLocal l.num = target) →
    exec (.icmpEcho lport target true) s = .next (settled s (emit (.echoReply lport) s))) ∧
  (∀ (s : State) (lport : Nat), lportServed s lport = true →
    exec (.rxOtherDrop lport) s = .next (settled s (countPort lport 0 1 s))) ∧
  (∀ (s : State) (port : Nat) (ip : U32), linkOf s port = true →
    exec (.dhcpReply port ip) s = .next (settled s (setAddresses port (fun _ => some ip) id s))) ∧
  (∀ (s : State) (port : Nat) (pfx : U64), linkOf s port = true →
    exec (.routerAdvertisement port pfx) s = .next (settled s (setAddresses port id (fun l =>
      if l.contains (slaacAddress port pfx) then l else l ++ [slaacAddress port pfx]) s))) ∧
  (∀ (s : State) (port : Nat) (ip : BitVec 128),
    exec (.addressLifetimeExpiry port true ip) s = .next (settled s (setAddresses port id (fun l => l.filter fun a => a != ip) s))) ∧
  (∀ (s : State) (port : Nat) (ip : BitVec 128),
    exec (.addressLifetimeExpiry port false ip) s
      = .next (settled s (setAddresses port (fun o => if o.map mappedV4 == some ip then none else o) id s)))

/-- A PFC frame pauses or resumes an enabled priority, its expiry resumes it; the receive buffer asks for a pause above 6 MiB and
for a resume below 4 MiB; a due CNP reduces the rate and raises alpha, and each tick recovers the rate, by the rules of R336 and
R338.
Readings and choices of the model in it: log entries 29 and 31. -/
def Obligations.PauseAndRateControl : Prop :=
  (∀ (s : State) (port prio quanta : Nat), (ethCfg s port).pfcEnable = true → bitOf (ethCfg s port).priorities.toNat prio = true →
    quanta ≠ 0 →
    exec (.pfcFrameReceived port prio quanta) s = .next (settled s (countPort (4 * port) 5 1
      (setEport port (fun e => { e with paused := prio :: e.paused.filter fun p => p != prio }) s)))) ∧
  (∀ (s : State) (port prio : Nat), (ethCfg s port).pfcEnable = true → bitOf (ethCfg s port).priorities.toNat prio = true →
    exec (.pfcFrameReceived port prio 0) s
      = .next (settled s (setEport port (fun e => { e with paused := e.paused.filter fun p => p != prio }) s))) ∧
  (∀ (s : State) (port prio : Nat),
    exec (.pfcPauseTimeExpiry port prio) s
      = .next (settled s (setEport port (fun e => { e with paused := e.paused.filter fun p => p != prio }) s))) ∧
  (∀ (s : State) (port occupancy : Nat) (e : EthPort), s.net.eports.find? (fun e => e.num == port) = some e →
      (ethCfg s port).pfcEnable = true → 6291456 < occupancy →
    exec (.pfcPauseRefresh port occupancy) s = .next (settled s (countPort (4 * port) 4 1
      (emit (.pfc port (ethCfg s port).priorities true) (setEport port (fun e => { e with xoff := true })
        (setEport port (fun e => { e with rxBytes := min occupancy 8388608 }) s)))))) ∧
  (∀ (s : State) (port occupancy : Nat) (e : EthPort), s.net.eports.find? (fun e => e.num == port) = some e →
      (ethCfg s port).pfcEnable = true → e.xoff = true → occupancy < 4194304 →
    exec (.pfcPauseRefresh port occupancy) s = .next (settled s
      (emit (.pfc port (ethCfg s port).priorities false) (setEport port (fun e => { e with xoff := false })
        (setEport port (fun e => { e with rxBytes := min occupancy 8388608 }) s))))) ∧
  (∀ (s : State) (qpn : Nat) (q : Qp), findQp s qpn = some q → (ethCfg s (q.lport / 4)).ecnEnable = true →
    exec (.cnpReceived qpn true) s = .next (settled s (setQp qpn (fun q =>
        { q with rt := q.rc, rc := max 65536 (q.rc * (131072 - q.alpha) / 131072), alpha := q.alpha * 15 / 16 + 4096, increases := 0 })
      (countPort q.lport 8 1 s))) ∧
    exec (.cnpReceived qpn false) s = .next (settled s (countPort q.lport 8 1 s))) ∧
  (∀ (s : State) (qpn : Nat) (q : Qp), findQp s qpn = some q → q.increases < 5 →
    exec (.rateLimiterTick qpn) s = .next (settled s (setQp qpn (fun x =>
        { x with alpha := x.alpha * 15 / 16, rt := q.rt, rc := max 65536 (min (portRate s q.lport) ((x.rc + q.rt) / 2)),
                 increases := x.increases + 1 }) s))) ∧
  (∀ (s : State) (qpn : Nat) (q : Qp), findQp s qpn = some q → 5 ≤ q.increases →
    exec (.rateLimiterTick qpn) s = .next (settled s (setQp qpn (fun x =>
        { x with alpha := x.alpha * 15 / 16, rt := min (portRate s q.lport) (q.rt + 5 * 65536),
                 rc := max 65536 (min (portRate s q.lport) ((x.rc + min (portRate s q.lport) (q.rt + 5 * 65536)) / 2)),
                 increases := x.increases + 1 }) s)))

/-- An Ethernet link-up raises EV_PORT_UP and asks for an address; a link-down raises EV_PORT_DOWN; a management link trial takes or
alternates the mode; a splice PHY that trains starts its bring-up, and a splice link-down loses the link.
Readings and choices of the model in it: log entries 32, 99 and 100. -/
def Obligations.LinksComeUpAndDown : Prop :=
  (∀ (s : State) (lport : Nat), lportUp s lport = true →
    exec (.ethLinkDown lport) s = .next (settled s (portDown 1 lport 1
      { s with net := { s.net with lports := updWhere (fun l => l.num == lport) (fun l => { l with up := false }) s.net.lports } }))) ∧
  (∀ (s : State) (lport : Nat) (l : LogicalPort), findLport s lport = some l → l.present = true → l.up = false →
      (ethCfg s (lport / 4)).adminDown = false → 4 ≤ s.power.step → s.power.flushing = none →
    exec (.ethLinkUp lport) s = .next (settled s (emit (.dhcpRequest lport) (portUp 1 lport (ethCfg s (lport / 4)).mode
      { s with net := { s.net with lports := updWhere (fun l => l.num == lport) (fun l => { l with up := true }) s.net.lports } })))) ∧
  (∀ (s : State), s.mgmt.linkUp = false → 4 ≤ s.power.step → s.mgmt.recordLoaded = false →
    exec (.mgmtLinkTrial true) s = .next (settled s (emit (.dhcpRequest 16) (portUp 4 0 s.mgmt.trialMode
      { s with mgmt := { s.mgmt with linkUp := true } }))) ∧
    exec (.mgmtLinkTrial false) s = .next (settled s { s with mgmt := { s.mgmt with trialMode := 1 - s.mgmt.trialMode } })) ∧
  (∀ (s : State) (port : Nat), 4 ≤ s.power.step → s.power.flushing = none → (portCfg s 3 port).adminDown = false →
    exec (.splicePhyTrained port) s = .next (settled s (startBringUp port (setSplice port (fun p => { p with phy := true }) s)))) ∧
  (∀ (s : State) (port : Nat), exec (.spliceLinkDown port) s = .next (settled s (goOn (loseSplice port s))))

/-- A REQ that passes is answered with a REP and takes a context, one that fails with a REJ; RTU makes a waiting pair ready; REJ, a
response timeout, DREQ, DREP and the free timeout end it; and a ready pair that no job binds within 256 windows is disconnected,
after the messages formed on it before, if any, have left (R341 to R343, R356).
Readings and choices of the model in it: log entries 16, 25, 27, 28, 30, 44 and 103. -/
def Obligations.ConnectionsMadeAndEnded : Prop :=
  (∀ (s : State) (r : CmReq) (context g : Nat) (pool : IndexPool), lportServed s r.lport = true → reqRejected s r = none →
      s.net.qpPool.take = some (context, g, pool) →
    exec (.cmReq r) s = .next (settled s (emit (.cmRep ((g + 1) * 2 ^ 17 + context) (BitVec.ofNat 24 (Config.drbg s.free)))
      { s with free := s.free + 1,
               net := { s.net with qps := s.net.qps ++ [newQp s r context (g + 1) (BitVec.ofNat 24 (Config.drbg s.free))],
                                   qpPool := pool } }))) ∧
  (∀ (s : State) (r : CmReq) (why : RejReason), lportServed s r.lport = true → reqRejected s r = some why →
    exec (.cmReq r) s = .next (settled s (emit (.cmRej r.lport why) s))) ∧
  (∀ (s : State) (qpn : Nat),
    exec (.cmRtu qpn) s = .next (settled s (setQp qpn (fun q =>
      if q.state == .awaitingRtu then { q with state := .ready, readySince := s.clk.window } else q) s)) ∧
    exec (.cmMra qpn) s = .next (settled s s)) ∧
  (∀ (s : State) (qpn : Nat) (q : Qp), findQp s qpn = some q → q.state = .awaitingRtu →
    exec (.cmRej qpn) s = .next (settled s (freeLeaving (leaveQp qpn (endQp qpn (fun _ t => t) s)))) ∧
    exec (.cmResponseTimeout qpn) s = .next (settled s (freeLeaving (leaveQp qpn (endQp qpn (fun _ t => t) s))))) ∧
  (∀ (s : State) (qpn : Nat) (q : Qp), findQp s qpn = some q →
    exec (.cmDreq qpn) s
      = .next (settled s (freeLeaving (leaveQp qpn (endQp qpn (fun _ t => t) (emit (.cmDrep qpn) s)))))) ∧
  (∀ (s : State) (qpn : Nat) (q : Qp), findQp s qpn = some q → q.state = .error ∨ q.state = .disconnecting →
    exec (.cmDrep qpn) s = .next (settled s (freeLeaving (leaveQp qpn s))) ∧
    exec (.contextFreeTimeout qpn) s = .next (settled s (freeLeaving (leaveQp qpn s)))) ∧
  (∀ (s : State) (qpn : Nat) (q : Qp), findQp s qpn = some q → q.state = .ready → q.readySince + 256 ≤ s.clk.window →
      findLane s qpn = none →
    (formsOf s qpn = [] → exec (.qpUnboundTimeout qpn) s = .next (settled s (emit (.cmDreq qpn)
      (setQp qpn (fun x => { x with state := .disconnecting, leaveDue := false, pinnedInCache := false }) s)))) ∧
    (formsOf s qpn ≠ [] → exec (.qpUnboundTimeout qpn) s = .next (settled s
      (setQp qpn (fun x => { x with leaveDue := true, pinnedInCache := false }) s))))

/-- In turn, a WRITE places its data, a WRITE with immediate also consumes its slot, whose record is read from the slot's bytes, a
SEND with immediate is taken as a cue, a READ answers the landing bytes, a request outside the grant gets a remote access NAK
and an unsupported one an invalid request NAK; a due acknowledgement is sent by its timer (R347, R348, R354).
Readings and choices of the model in it: log entries 16, 23, 26 and 146. -/
def Obligations.RdmaRequestsInTurn : Prop :=
  (∀ (s t : State) (h : Bth) (rkey : U32) (addr : U64) (data : List Byte),
      InTurn (.rdmaWriteReceived h rkey addr data) h data.length s t → landingOk t h.qpn rkey addr.toNat data.length = true →
    exec (.rdmaWriteReceived h rkey addr data) s
      = .next (settled s (placeData addr.toNat data (advancePsn h.qpn (rcPackets t h.qpn data.length) t)))) ∧
  (∀ (s t : State) (h : Bth) (rkey : U32) (addr : U64) (data : List Byte),
      InTurn (.rdmaWriteReceived h rkey addr data) h data.length s t → landingOk t h.qpn rkey addr.toNat data.length = false →
    exec (.rdmaWriteReceived h rkey addr data) s = .next (settled s (sendNak h h.psn .remoteAccess t))) ∧
  (∀ (s t : State) (h : Bth) (rkey : U32) (addr : U64) (data : List Byte) (imm : U32) (o : ReadOutcome),
      InTurn (.slotConsume h rkey addr data imm o) h data.length s t → landingOk t h.qpn rkey addr.toNat data.length = true →
    exec (.slotConsume h rkey addr data imm o) s
      = .next (settled s (consumeSlot h.qpn imm (addr.toNat + data.length - 1) o
          (placeData addr.toNat data (advancePsn h.qpn (rcPackets t h.qpn data.length) t))))) ∧
  (∀ (s t : State) (h : Bth) (imm : U32) (j : Job), InTurn (.cue h imm) h 0 s t → qpJob (advancePsn h.qpn 1 t) h.qpn = some j →
    exec (.cue h imm) s = .next (settled s (applyCue imm (cueTarget (advancePsn h.qpn 1 t) h.qpn) (some j.index)
      (tick (advancePsn h.qpn 1 t))))) ∧
  (∀ (s t : State) (h : Bth) (rkey : U32) (addr : U64) (len : Nat),
      InTurn (.rdmaReadRequest h rkey addr len) h 0 s t → landingOk t h.qpn rkey addr.toNat len = true →
    exec (.rdmaReadRequest h rkey addr len) s
      = .next (settled s (readBytes h addr.toNat len (advancePsn h.qpn (rcPackets t h.qpn len) t)))) ∧
  (∀ (s t : State) (h : Bth), InTurn (.rdmaInvalidRequest h) h 0 s t →
    exec (.rdmaInvalidRequest h) s = .next (settled s (sendNak h h.psn .invalidRequest t))) ∧
  (∀ (s : State) (qpn : Nat) (q : Qp), findQp s qpn = some q → 0 < q.ackDue → qpCarries s qpn = true →
    exec (.ackSendTimer qpn) s = .next (settled s (emit (.rdmaAck qpn (q.expectedPsn - 1))
      (setQp qpn (fun x => { x with ackDue := 0 }) s))))

/-- ACKs, sequence NAKs, RNR NAKs and fatal NAKs release, repeat, pause or end what the pair has sent; timeouts retry up to the
limit and then fail the pair; READ responses reach the command that asked; a fetched context runs the packets that waited (R349
to R352, Table 12.4).
Readings and choices of the model in it: log entries 22, 23, 25, 26, 30 and 33. -/
def Obligations.RequesterAnswers : Prop :=
  (∀ (s t : State) (h : Bth), Enters (.ackReceived h) h 0 s t → qpCarries t h.qpn = true →
    exec (.ackReceived h) s = .next (settled s (goOn (ackUpTo h.qpn h.psn t)))) ∧
  (∀ (s t : State) (h : Bth), Enters (.nakSequenceReceived h) h 0 s t → qpCarries t h.qpn = true →
    exec (.nakSequenceReceived h) s = .next (settled s (goOn (retryQp h.qpn (ackUpTo h.qpn (h.psn - 1) t))))) ∧
  (∀ (s t : State) (h : Bth) (timer : BitVec 5) (q : Qp), Enters (.rnrNakReceived h timer) h 0 s t → qpCarries t h.qpn = true →
      findQp (ackUpTo h.qpn (h.psn - 1) t) h.qpn = some q → q.rnrMax = 7 ∨ q.rnrRetries < q.rnrMax →
    exec (.rnrNakReceived h timer) s = .next (settled s (goOn (setQp h.qpn (fun x =>
      { x with rnrWaiting := true, rnrRetries := x.rnrRetries + 1 }) (ackUpTo h.qpn (h.psn - 1) t))))) ∧
  (∀ (s t : State) (h : Bth) (timer : BitVec 5) (q : Qp), Enters (.rnrNakReceived h timer) h 0 s t → qpCarries t h.qpn = true →
      findQp (ackUpTo h.qpn (h.psn - 1) t) h.qpn = some q → q.rnrMax ≠ 7 → q.rnrMax ≤ q.rnrRetries →
    exec (.rnrNakReceived h timer) s = .next (settled s (goOn (qpError h.qpn 2 (ackUpTo h.qpn (h.psn - 1) t))))) ∧
  (∀ (s t : State) (h : Bth) (kind : Nat), Enters (.nakFatalReceived h kind) h 0 s t →
    exec (.nakFatalReceived h kind) s = .next (settled s (goOn (qpError h.qpn kind (ackUpTo h.qpn (h.psn - 1) t))))) ∧
  (∀ (s : State) (qpn : Nat) (q : Qp), findQp s qpn = some q → q.sent ≠ [] → qpCarries s qpn = true →
      q.retryMax = 7 ∨ q.retries < q.retryMax →
    exec (.ackTimeout qpn) s = .next (settled s (goOn (goBack qpn (setQp qpn (fun x => { x with retries := x.retries + 1 }) s))))) ∧
  (∀ (s : State) (qpn : Nat) (q : Qp), findQp s qpn = some q → q.sent ≠ [] → qpCarries s qpn = true →
      q.retryMax ≠ 7 → q.retryMax ≤ q.retries →
    exec (.ackTimeout qpn) s = .next (settled s (goOn (qpError qpn 1 s)))) ∧
  (∀ (s : State) (qpn : Nat) (q : Qp), findQp s qpn = some q → q.rnrWaiting = true →
    exec (.rnrTimerExpiry qpn) s = .next (settled s (goBack qpn (setQp qpn (fun x => { x with rnrWaiting := false }) s)))) ∧
  (∀ (s t : State) (h : Bth) (slot : Nat) (data : ReadData) (last : Bool) (q : Qp) (m : Sent),
      Enters (.readResponseReceived h slot data last) h 0 s t → findQp t h.qpn = some q → readOf q slot = some m →
    exec (.readResponseReceived h slot data last) s = .next (settled s (doReadResponse h slot data last t)) ∧
    (data = .descriptors → last = false →
      exec (.readResponseReceived h slot data last) s = .next (settled s (ackUpTo h.qpn (m.firstPsn - 1) t))) ∧
    (∀ (rkey : U32) (address : Nat), data = .descriptors → last = true → m.what = .readDesc slot rkey address →
      exec (.readResponseReceived h slot data last) s = .next (settled s (readArrived slot
        (setQp h.qpn (fun x => { x with sent := x.sent.erase m, retries := 0, rnrRetries := 0 })
          (ackUpTo h.qpn (m.firstPsn - 1) t)))))) ∧
  (∀ (s : State) (qpn : Nat) (q : Qp), findQp s qpn = some q → q.fetching = true →
    exec (.contextFetchDone qpn true) s = .next (settled s (goOn
      (heldPackets qpn q.held (makeResident qpn (setQp qpn (fun x => { x with held := [] }) s))))) ∧
    exec (.contextFetchDone qpn false) s = .next (settled s (goOn
      (qpError qpn 7 (setQp qpn (fun x => { x with held := [], fetching := false }) s)))))

/-- When a unit of each kind of work ends and passes its check, its instance is free, its link credits return, and its result goes
to its storyboard, batch, command, run, record, ingest page, weights copy or move.
Readings and choices of the model in it: log entries 12, 13, 49, 54 and 64. -/
def Obligations.ComputeUnitsEnd : Prop :=
  (∀ (s : State) (inst b h x g : Nat) (u : EUnit), runningUnit s .tile inst = some u → u.work = .span b h x g →
    exec (.attentionUnitEnd inst .passed) s = .next (settled s (spanUnitEnd inst b h x g (endUnit .tile inst u s)))) ∧
  (∀ (s : State) (inst : Nat) (u : EUnit), runningUnit s .tile inst = some u →
    (∀ sb l tile part, u.work = .project sb l tile part →
      exec (.projectionUnitEnd inst .passed) s = .next (settled s (sbTileUnitEnd sb l tile part u (endUnit .tile inst u s)))) ∧
    (∀ b h x part, u.work = .projectSpan b h x part →
      exec (.projectionUnitEnd inst .passed) s = .next (settled s (stagedUnitEnd b h x part u (endUnit .tile inst u s)))) ∧
    (∀ b h g step, u.work = .merge b h g step →
      exec (.mergeUnitEnd inst .passed) s = .next (settled s (mergeUnitStep b h g step (endUnit .tile inst u s))))) ∧
  (∀ (s : State) (inst : Nat) (u : EUnit), runningUnit s .codec inst = some u →
    (∀ sb l tile part, u.work = .decode sb l tile part →
      exec (.codecUnitEnd inst .passed) s = .next (settled s (sbTileUnitEnd sb l tile part u (endUnit .codec inst u s)))) ∧
    (∀ b h x part, u.work = .decodeSpan b h x part →
      exec (.codecUnitEnd inst .passed) s = .next (settled s (stagedUnitEnd b h x part u (endUnit .codec inst u s)))) ∧
    (∀ id part, u.work = .encode id part →
      exec (.codecUnitEnd inst .passed) s = .next (settled s (recordEncoded id part u (endUnit .codec inst u s)))) ∧
    (∀ id, u.work = .moveCode id →
      exec (.codecUnitEnd inst .passed) s = .next (settled s (stepUnitEnd id (endUnit .codec inst u s)))) ∧
    (u.work = .discard →
      exec (.codecUnitEnd inst .passed) s = .next (settled s (giveSlots u.held (endUnit .codec inst u s))))) ∧
  (∀ (s : State) (inst : Nat) (u : EUnit), runningUnit s .crypto inst = some u →
    (∀ sb l tile part, u.work = .crypt sb l tile part →
      exec (.cryptoUnitEnd inst .passed) s = .next (settled s (sbCryptUnitEnd sb l tile part u (endUnit .crypto inst u s)))) ∧
    (∀ slot part, u.work = .sealResult slot part →
      exec (.cryptoUnitEnd inst .passed) s = .next (settled s (sealResultEnd slot part u (endUnit .crypto inst u s)))) ∧
    (∀ id, u.work = .openRecord id →
      exec (.cryptoUnitEnd inst .passed) s = .next (settled s (recordOpened id u (endUnit .crypto inst u s)))) ∧
    (∀ i block layer part, u.work = .sealIngest i block layer part →
      exec (.cryptoUnitEnd inst .passed) s = .next (settled s (pageSealed i block layer part (endUnit .crypto inst u s)))) ∧
    (∀ id part, u.work = .moveCrypt id part →
      exec (.cryptoUnitEnd inst .passed) s = .next (settled s (moveCrypted id part u (endUnit .crypto inst u s)))) ∧
    (∀ slot layer src dst left, u.work = .weightsCrypt slot layer src dst left →
      exec (.cryptoUnitEnd inst .passed) s = .next (settled s (advanceAttention (advanceAll
        (weightsCrypted slot layer src dst left (endUnit .crypto inst u s))))))) ∧
  (∀ (s : State) (hasher inst slot blocks : Nat) (u : EUnit), inst < 8 → runningUnit s (.hasher hasher) inst = some u →
      u.work = .hash slot blocks →
    exec (.keyHasherUnitEnd (8 * hasher + inst) .passed) s
      = .next (settled s (hashDone slot blocks hasher (endUnit (.hasher hasher) inst u s))))

/-- For every engine kind: a unit that fails its check or overruns its bound for the first time runs again on another instance; at
the second failure its input is taken as bad (R440, R441). The commands of units that end complete so, and so does
ENGINE_UNIT_OVERRUN: for every kind of engine that runs units, and whatever unit runs there, it answers the next state in which
the overrun is counted, the unit is discarded and runs again or its input is bad. A codec unit whose input or whose codec
weights fail their check is not run again: its input is bad, or the weights are restored (R155, R156).
Readings and choices of the model in it: log entries 49, 60, 64 and 127. -/
def Obligations.FailedUnitsRunAgain : Prop :=
  (∀ (s : State) (inst : Nat) (u : EUnit), runningUnit s .tile inst = some u → isSpan u.work = true →
    (u.reruns = 0 → exec (.attentionUnitEnd inst .failed) s = .next (settled s (rerunUnit .tile inst u s))) ∧
    (u.reruns ≠ 0 → exec (.attentionUnitEnd inst .failed) s = .next (settled s (inputBad u (endUnit .tile inst u s))))) ∧
  (∀ (s : State) (inst : Nat) (u : EUnit), runningUnit s .tile inst = some u → isProject u.work = true →
    (u.reruns = 0 → exec (.projectionUnitEnd inst .failed) s = .next (settled s (rerunUnit .tile inst u s))) ∧
    (u.reruns ≠ 0 → exec (.projectionUnitEnd inst .failed) s = .next (settled s (inputBad u (endUnit .tile inst u s))))) ∧
  (∀ (s : State) (inst : Nat) (u : EUnit), runningUnit s .tile inst = some u → isMerge u.work = true →
    (u.reruns = 0 → exec (.mergeUnitEnd inst .failed) s = .next (settled s (rerunUnit .tile inst u s))) ∧
    (u.reruns ≠ 0 → exec (.mergeUnitEnd inst .failed) s = .next (settled s (inputBad u (endUnit .tile inst u s))))) ∧
  (∀ (s : State) (inst : Nat) (u : EUnit), runningUnit s .codec inst = some u →
    (u.reruns = 0 → exec (.codecUnitEnd inst .failed) s = .next (settled s (rerunUnit .codec inst u s))) ∧
    (u.reruns ≠ 0 → exec (.codecUnitEnd inst .failed) s = .next (settled s (inputBad u (endUnit .codec inst u s)))) ∧
    exec (.codecUnitEnd inst .inputFailed) s = .next (settled s (inputBad u (endUnit .codec inst u s))) ∧
    exec (.codecUnitEnd inst .weightsFailed) s = .next (settled s (weightsFailed u (endUnit .codec inst u s)))) ∧
  (∀ (s : State) (inst : Nat) (u : EUnit), runningUnit s .crypto inst = some u →
    (u.reruns = 0 → exec (.cryptoUnitEnd inst .failed) s = .next (settled s (rerunUnit .crypto inst u s))) ∧
    (u.reruns ≠ 0 → exec (.cryptoUnitEnd inst .failed) s = .next (settled s (inputBad u (endUnit .crypto inst u s))))) ∧
  (∀ (s : State) (inst : Nat) (o : ReadOutcome) (u : EUnit), runningUnit s .mover inst = some u →
    (u.reruns = 0 → exec (.moverUnitEnd inst .failed o) s = .next (settled s (rerunUnit .mover inst u s))) ∧
    (u.reruns ≠ 0 → exec (.moverUnitEnd inst .failed o) s = .next (settled s (inputBad u (endUnit .mover inst u s))))) ∧
  (∀ (s : State) (kind inst i : Nat) (k : EngineKind) (u : EUnit), overrunUnit kind inst = some (k, i) →
      runningUnit s k i = some u →
    (u.reruns = 0 → exec (.engineUnitOverrun kind inst) s = .next (settled s (rerunUnit k i u (countFault 9 1 s)))) ∧
    (u.reruns ≠ 0 → exec (.engineUnitOverrun kind inst) s
      = .next (settled s (inputBad u (endUnit k i u (countFault 9 1 s))))))

/-- A mover's unit carries on its move, its weights move, its tile or its ingest page; an RDMA engine's segment is sent; a host
port's segment is sent, continued after 64 KiB, or faults its ring; a host read returns its bytes; and a splice message leaves
sealed under its link counter.
Readings and choices of the model in it: log entries 49, 64 and 145. -/
def Obligations.MoversAndPortEnginesEnd : Prop :=
  (∀ (s : State) (inst : Nat) (o : ReadOutcome) (u : EUnit), runningUnit s .mover inst = some u →
    (∀ id, u.work = .move id →
      exec (.moverUnitEnd inst .passed o) s
        = .next (settled s (advanceAttention (advanceAll (moveUnitEnd id o (endUnit .mover inst u s)))))) ∧
    (∀ slot layer src dst left, u.work = .weightsMove slot layer src dst left →
      exec (.moverUnitEnd inst .passed o) s
        = .next (settled s (advanceAttention (advanceAll (weightsCarried slot layer src dst left o (endUnit .mover inst u s)))))) ∧
    (∀ sb l tile part, u.work = .stageTile sb l tile part → readBad o = false →
      exec (.moverUnitEnd inst .passed o) s
        = .next (settled s (sbTileUnitEnd sb l tile part u (countRead .t1 o (endUnit .mover inst u s))))) ∧
    (∀ i block layer part, u.work = .storeIngest i block layer part → readBad o = false →
      exec (.moverUnitEnd inst .passed o) s = .next (settled s (pageStored i block layer part (endUnit .mover inst u s))))) ∧
  (∀ (s : State) (port qpn : Nat) (u : EUnit), runningUnit s (.rdma port) 0 = some u →
    (∀ what left, u.work = .send qpn what left →
      exec (.rdmaUnitEnd port .passed) s = .next (settled s (rdmaEnd port u (endUnit (.rdma port) 0 u s)))) ∧
    (∀ psn what left, u.work = .resend qpn psn what left →
      exec (.rdmaUnitEnd port .passed) s = .next (settled s (rdmaEnd port u (endUnit (.rdma port) 0 u s))))) ∧
  (∀ (s : State) (port lane : Nat) (what : SentWhat) (left : Nat) (recs : List IngestRecord) (u : EUnit),
      runningUnit s (.host port) 0 = some u → u.work = .hostSend lane what left →
      messageWanted (endUnit (.host port) 0 u s) what = true →
      leavesRegion (endUnit (.host port) 0 u s) lane what left = false →
    (left ≤ 65536 →
      exec (.hostPortUnitEnd port true recs) s = .next (settled s (messageSent 0 what (endUnit (.host port) 0 u s)))) ∧
    (65536 < left →
      exec (.hostPortUnitEnd port true recs) s = .next (settled s (queueUnit (.host port)
        (newUnit u.cls (.hostSend lane what (left - 65536)) 0 (unitCredits (left - 65536))) (endUnit (.host port) 0 u s)))) ∧
    exec (.hostPortUnitEnd port false recs) s
      = .next (settled s (settleOf what (faultRing (laneRing lane).1 (laneRing lane).2 3 (endUnit (.host port) 0 u s))))) ∧
  (∀ (s : State) (port lane slot offset left : Nat) (recs : List IngestRecord) (u : EUnit),
      runningUnit s (.host port) 0 = some u → u.work = .hostRead lane slot offset left →
    exec (.hostPortUnitEnd port true recs) s
      = .next (settled s (hostReadEnd port u lane slot offset left recs (endUnit (.host port) 0 u s))) ∧
    exec (.hostPortUnitEnd port false recs) s
      = .next (settled s (faultRing (laneRing lane).1 (laneRing lane).2 3 (endUnit (.host port) 0 u s)))) ∧
  (∀ (s : State) (port src dst relays probes left regGen : Nat) (b : SpliceBody) (u : EUnit) (p : SplicePort),
      runningUnit s (.splice port) 0 = some u → u.work = .spliceMsg src dst relays probes regGen b left → left ≤ 65536 →
      spliceUp (endUnit (.splice port) 0 u s) port = true → findSplice (endUnit (.splice port) 0 u s) port = some p →
    exec (.spliceUnitEnd port) s = .next (settled s
      (emit (.splice port src dst relays probes regGen (u.cls == .be) (higherIdentity p.peerDevice) (p.txCounter + 1) b)
        (setSplice port (fun x => { x with txCounter := p.txCounter + 1, frameRetries := 0 }) (endUnit (.splice port) 0 u s)))))

/-- The core of a sliver takes its next request and answers it: a confirm and a pin resolve the block and answer the run, a score
updates the node, a drop lowers the pin count and removes an unkeyed node, a commit changes the presence of an extent, a hint, a
purge, a dropped copy and a dropped node change their node, an insert that finds room writes its node, one that must wait for room
goes back to the head of its queue, and a skip is checked; the last answer ends the commit.
Readings and choices of the model in it: log entries 36, 38, 40, 55, 58, 65 and 151. -/
def Obligations.ReelCoresServeRequests : Prop :=
  (∀ (s : State) (n run block tenant mask : Nat) (key : BlockKey) (hit : Option Hit) (e : SliverEntry) (v : Sliver),
      sliverNext s n = some (e, v) → e.req = .confirm run block key tenant mask hit →
    exec (.sliverConfirm n) s = .next (settled s (coreAnswer run block key (resolveBlock key tenant mask hit (putSliver v s)).1
      (resolveBlock key tenant mask hit (putSliver v s)).2))) ∧
  (∀ (s s1 : State) (n run block tenant mask : Nat) (key : BlockKey) (hit : Option Hit) (e : SliverEntry) (v : Sliver),
      sliverNext s n = some (e, v) → e.req = .pin run block key tenant mask hit →
    (resolveBlock key tenant mask hit (putSliver v s) = (none, s1) →
      exec (.sliverPin n) s = .next (settled s (coreAnswer run block key none s1))) ∧
    (∀ ptr h, resolveBlock key tenant mask hit (putSliver v s) = (some (ptr, h), s1) →
      (wantsPin (takePin ptr e.seq s1) run block key = true →
        exec (.sliverPin n) s = .next (settled s (coreAnswer run block key (some (ptr, h)) (takePin ptr e.seq s1)))) ∧
      (wantsPin (takePin ptr e.seq s1) run block key = false →
        exec (.sliverPin n) s = .next (settled s (dropPin ptr (takePin ptr e.seq s1)))))) ∧
  (∀ (s t : State) (n ptr : Nat) (e : SliverEntry) (v : Sliver), sliverNext s n = some (e, v) → e.req = .score ptr →
      t = readNode ptr (putSliver v s) →
    exec (.sliverScore n) s = .next (settled s (setNode ptr (fun m => { scoreUse (window16 t) m with lastReq := e.seq }) t))) ∧
  (∀ (s u t : State) (n ptr : Nat) (m : Node) (e : SliverEntry) (v : Sliver), sliverNext s n = some (e, v) → e.req = .pinDrop ptr →
      u = readNode ptr (putSliver v s) →
      t = setNode ptr (fun m => { m with pinCount := pinCountOf u m - 1, pinGen := u.sec.resetGen, lastReq := e.seq })
        { u with index := { u.index with dropsInFlight := u.index.dropsInFlight - 1 } } →
      findNode t ptr = some m →
    ((m.keyed = true ∨ m.pinCount ≠ 0 ∨ m.dying = true) → exec (.sliverPinDrop n) s = .next (settled s t)) ∧
    (m.keyed = false → m.pinCount = 0 → m.dying = false →
      exec (.sliverPinDrop n) s = .next (settled s (retireNode ptr (dropAll ptr t))))) ∧
  (∀ (s : State) (n : Nat) (e : SliverEntry) (v : Sliver), sliverNext s n = some (e, v) →
    (∀ id m, e.req = .stateCommit id → findMove s id = some m →
      exec (.sliverStateCommit n) s = .next (settled s (goOn (commitMove id e.seq (readNode m.ptr (putSliver v s)))))) ∧
    (∀ ptr slot arg, e.req = .hint ptr slot arg →
      exec (.sliverStateCommit n) s = .next (settled s (answered (some slot) false
        (setNode ptr (fun m => { hintNode arg m with lastReq := e.seq }) (readNode ptr (putSliver v s)))))) ∧
    (∀ ptr slot m, e.req = .purge ptr slot → findNode (readNode ptr (putSliver v s)) ptr = some m → m.purged = false → m.dying = false →
      exec (.sliverStateCommit n) s = .next (settled s (goOn (answered slot true
        (purgeNode ptr (noteReq ptr e.seq (readNode ptr (putSliver v s)))))))) ∧
    (∀ ptr g tier slot, e.req = .dropCopy ptr g tier slot →
      exec (.sliverStateCommit n) s = .next (settled s (goOn (applyDropCopy ptr g tier slot e.seq (putSliver v s))))) ∧
    (∀ ptr, e.req = .dropNode ptr →
      exec (.sliverStateCommit n) s = .next (settled s (goOn (applyDropNode ptr e.seq (putSliver v s)))))) ∧
  (∀ (s t : State) (n slot block : Nat) (g : Ingest) (j : Job) (pr : Profile) (e : SliverEntry) (v : Sliver),
      sliverNext s n = some (e, v) → unanswered (putSliver v s) slot block = some (g, j, pr) →
    (e.req = .insert slot block → applyInsert g j pr block e.seq (putSliver v s) = (true, t) →
      exec (.sliverInsert n) s = .next (settled s (answersIn g.index slot t))) ∧
    (e.req = .insert slot block → applyInsert g j pr block e.seq (putSliver v s) = (false, t) →
      exec (.sliverInsert n) s = .next (settled s (untake n e s t))) ∧
    (e.req = .skip slot block →
      exec (.sliverInsert n) s = .next (settled s (answersIn g.index slot (applySkip g j block e.seq (putSliver v s))))))

/-- A drop offer evicts the offered nodes; a visit to a node that reads well leaves a young one, asks for the removal of the
entry of one aged 1,024 windows and clears the score at 4,096; a silent core is replaced by a spare, which replays the log rings
of its slivers (R87, R88, R111, R94).
Readings and choices of the model in it: log entries 57, 58, 59 and 65. -/
def Obligations.ReelCoresActUnasked : Prop :=
  (∀ (s : State) (n want : Nat), exec (.sliverDropOffer n want) s
    = .next (settled s (((offered s fun m => sliverOf m.key == n && pinCountOf s m == 0 && m.keyed && !m.evicting && !m.dying
        && nodeUnheld s m && dropWanted s m).take want).foldl (fun t m => evictNode m.ptr t) s))) ∧
  (∀ (s t : State) (ptr : Nat) (n : Node), t = readNode ptr s → findNode t ptr = some n →
    (ageOf t n < 1024 → exec (.sliverNodeVisit ptr) s = .next (settled s t)) ∧
    (1024 ≤ ageOf t n → ageOf t n < 4096 → n.entryPresent = true → removeDue t ptr = false →
      exec (.sliverNodeVisit ptr) s = .next (settled s (askRemove n t))) ∧
    (4096 ≤ ageOf t n → n.entryPresent = false →
      exec (.sliverNodeVisit ptr) s = .next (settled s (setNode ptr (fun m => { m with score := 0 }) t)))) ∧
  (∀ (s : State) (core : Nat), unitActive s 2 core = true →
    exec (.reelCoreWatchdog core) s = .next (settled s (goOn
      ((sliversOf s core).foldl (fun t n => replaySliver n t) (mapSpare 2 2 core (countFault 9 1 s))))))

/-- The next dolly request of a section has its effect on the entries and reports, after which the requests that wait in the cores'
outboxes move up; a probe answers the winner, or a miss where the bank is absent, nothing matches or a half of the winner fails its
parity, which asks for a repair; a sweep invalidates every entry of its tenant.
Readings and choices of the model in it: log entries 53, 56, 152 and 153. -/
def Obligations.MatchArrayServesRequests : Prop :=
  (∀ (s : State) (sect : Nat) (x : Section) (r : DollyReq), findSection s sect = some x → dollyNext x.requests = some r →
    let t := { s with marr := { s.marr with
      sections := updWhere (fun y : Section => y.num == sect) (fun y => { y with requests := y.requests.erase r }) s.marr.sections } }
    (∀ ptr lo tenant pri hint, r = .insert ptr lo tenant pri hint →
      exec (.dollyInsert sect) s = .next (settled s (drainOutboxes (insertEntry ptr lo tenant pri hint t)))) ∧
    (∀ ptr lo tenant, r = .remove ptr lo tenant →
      exec (.dollyRemove sect) s = .next (settled s (drainOutboxes (dollyReport (.invalidated ptr) (setEntries (updWhere
        (fun e => e.valid && e.nodePtr == ptr && e.keyLo == lo && e.tenant == tenant) clearEntry s.marr.entries) t))))) ∧
    (∀ ptr lo h, r = .hint ptr lo h →
      exec (.dollyHint sect) s = .next (settled s (drainOutboxes (setEntries (updWhere
        (fun e => e.valid && e.nodePtr == ptr && e.keyLo == lo) (fun e => writeEntry { e with tierHint := h }) s.marr.entries) t)))) ∧
    (∀ bank pos e u, r = .repair bank pos → entryAtPos s.marr.entries bank pos = some e →
      u = countFault 7 1 { t with marr := { t.marr with
        repaired := (physBank s bank, pos) :: s.marr.repaired,
        entries := updWhere (fun x => x.bank == bank && x.pos == pos) rewriteEntry s.marr.entries } } →
      exec (.dollyRepair sect) s = .next (settled s (drainOutboxes
        (if halfBOk e then dollyReport (.repaired e.nodePtr bank (tagLo e.keyLo)) u else u))))) ∧
  (∀ (s : State) (sect : Nat) (x : Section) (q : Probe) (rest : List Probe), s.marr.sections.find? (fun x => x.num == sect) = some x →
      x.probes = q :: rest → ∀ (upsetsA upsetsB : List (Nat × Nat)) (t : State),
      t = upsetBank (bankOf q.keyLo) (halfUpsets upsetsA upsetsB) { s with marr := { s.marr with
        sections := updWhere (fun y : Section => y.num == sect) (fun y => { y with probes := rest }) s.marr.sections } } →
    (t.marr.absent.contains (bankOf q.keyLo) = true ∨ searchBank t q = none →
      exec (.matchProbeResult sect upsetsA upsetsB) s = .next (settled s (advanceRuns (probeResult q.run q.block none t)))) ∧
    (∀ e, t.marr.absent.contains (bankOf q.keyLo) = false → searchBank t q = some e →
      (halfAOk e = true → halfBOk e = true →
        exec (.matchProbeResult sect upsetsA upsetsB) s = .next (settled s (advanceRuns
          (probeResult q.run q.block (some { ptr := e.nodePtr, priority := e.priority, hint := e.tierHint }) t)))) ∧
      (halfAOk e = false ∨ halfBOk e = false →
        exec (.matchProbeResult sect upsetsA upsetsB) s
          = .next (settled s (advanceRuns (probeResult q.run q.block none (parityError e.bank e.pos t))))))) ∧
  (∀ (s : State) (tenant : BitVec 12), (s.marr.sections.any fun x => x.requests.contains (.sweep tenant.toNat)) = true →
    ∃ u, exec (.tenantSweep tenant) s = .next u ∧
      u.marr.entries = updWhere (fun e : MatchEntry => e.tenant == tenant.toNat) clearEntry s.marr.entries ∧
      u.index.nodes = updWhere (fun m : Node => m.tenant == tenant.toNat) (fun m => { m with entryPresent := false }) s.index.nodes)

/-- Each kind of dolly report changes its node; a refill asks once per clear for the usable nodes of its sliver in order of value; a
scan checks its position in every bank and goes on to the next (R112 to R119).
Readings and choices of the model in it: log entries 52, 142, 153, 154 and 158. -/
def Obligations.MatchArrayKeepsItself : Prop :=
  (∀ (s : State) (r : DollyReport) (rest : List DollyReport), s.marr.reports = r :: rest →
    let t := { s with marr := { s.marr with reports := rest } }
    (∀ ptr, r = .valid ptr → exec .dollyReport s = .next (settled s (setNode ptr (fun n => { n with entryPresent := true }) t))) ∧
    (∀ ptr, r = .declined ptr ∨ r = .cancelled ptr → exec .dollyReport s = .next (settled s t)) ∧
    (∀ ptr, r = .displaced ptr → exec .dollyReport s = .next (settled s (setNode ptr (fun n => { n with entryPresent := false }) t))) ∧
    (∀ ptr n u, r = .invalidated ptr → u = setNode ptr (fun n => { n with entryPresent := false }) t → findNode u ptr = some n →
      (n.dying = false ∨ removeDue u ptr = true → exec .dollyReport s = .next (settled s u)) ∧
      (n.dying = true → removeDue u ptr = false → exec .dollyReport s = .next (settled s (freeNode ptr u)))) ∧
    (∀ ptr bank tag, r = .repaired ptr bank tag → exec .dollyReport s = .next (settled s (reinsert ptr bank tag t)))) ∧
  (∀ (s : State) (n : Nat) (asked : List Node), 3 ≤ deviceState s → s.sec.transition = false → s.marr.refilled.contains n = false →
      asked = sortBy (fun a b => decide (valueOf s b < valueOf s a) || (valueOf s a == valueOf s b && decide (a.insertSeq < b.insertSeq)))
        (s.index.nodes.filter fun m => sliverOf m.key == n && usable s m.tenant 15 m && !m.dying && !entryDue s m) →
      asked.length ≤ 256 - (findSliver s n).refills →
    ∃ t, exec (.matchArrayRefill n) s = .next t ∧ t.marr.refilled = n :: s.marr.refilled ∧
      t.marr.sections = (asked.foldl (fun t m => askInsert m t) s).marr.sections ∧
      (findSliver t n).refills = (findSliver s n).refills + asked.length ∧
      (findSliver t n).outbox = (findSliver (asked.foldl (fun t m => askInsert m t) s) n).outbox) ∧
  (∀ (s t : State) (upsets : List (Nat × Nat × Nat)), 9 ≤ s.power.step →
      t = (badAt (upsetAll upsets s) s.marr.scanPos).foldl (fun u e => scanError e u) (upsetAll upsets s) →
    exec (.continuityScan upsets) s
      = .next (settled s { t with marr := { t.marr with scanPos := (s.marr.scanPos + 1) % 256 } }))

/-- A Skomet watchdog fails the core that hung and performs a stop-all, and each control core fault performs one, but for a lost
memory channel without control tables in it; which core hung and which channels hold control tables are free values. The restart
ends a stop-all; a root-of-trust fault or an entropy failure decides a full-chip reset; SRAM scrubbing counts and loses what its
victims held. The ARG_A of an entropy failure is a free value.
Readings and choices of the model in it: log entries 90, 110, 117, 118, 119, 120 and 170. -/
def Obligations.StopAllsAndResetFaults : Prop :=
  (∀ (s : State), 5 ≤ s.power.step →
    exec .skometWatchdog s = .next (settled s
      (stopAll 1 0 (loseCore (Config.hungCore s.free % 16) (countFault 9 1 { s with free := s.free + 1 })))) ∧
    (∀ (source : Nat) (detail : U32), source ≠ 1 → source ≠ 6 →
      exec (.controlCoreFault source detail) s = .next (settled s (stopAll source detail.toNat s))) ∧
    (∀ (detail : U32), exec (.controlCoreFault 1 detail) s
      = .next (settled s (stopAll 1 detail.toNat (loseCore detail.toNat s)))) ∧
    (∀ (detail : U32), exec (.controlCoreFault 6 detail) s
      = .next (settled s (if Config.channelTables detail.toNat then stopAll 6 detail.toNat (loseChannel detail.toNat s)
          else goOn (loseChannel detail.toNat s))))) ∧
  (∀ (s : State), s.sec.transition = true →
    exec .stopAllRestart s = .next (settled s (finishActivation (finishCompute s)))) ∧
  (∀ (s : State) (unitKind : Nat) (cause : U32), s.power.step ≠ 0 →
    exec (.rootOfTrustFault unitKind cause) s
      = .next (settled s (decideReset 7 (fatalEvent unitKind cause.toNat (countFault 14 1 s)))) ∧
    exec .entropyHealthFail s = .next (settled s (decideReset 7 (fatalEvent 1 Config.entropyCause (countFault 14 1 s))))) ∧
  (∀ (s : State) (corrected uncorrectable : Nat) (victims : List Nat), s.power.clocksOn = true →
    exec (.sramScrub corrected uncorrectable victims false) s
      = .next (settled s (goOn (victims.foldl (fun t v => loseUnitOf v t) (countFault 1 uncorrectable (countFault 0 corrected s))))) ∧
    exec (.sramScrub corrected uncorrectable victims true) s
      = .next (settled s (stopAll 2 0
          (victims.foldl (fun t v => loseUnitOf v t) (countFault 1 uncorrectable (countFault 0 corrected s))))))

/-- Each tier evicts; a patrol finding is counted, scrubbed or taken as a data error; a node of an old generation that nothing holds
is removed; the copies of a node sealed under an old epoch are re-sealed, each by a transfer within its tier; an epoch that nothing
uses is retired with its key.
Readings and choices of the model in it: log entries 36, 58, 66, 76, 155 and 167. -/
def Obligations.TierManagerWorks : Prop :=
  (∀ (s : State),
    exec (.tierEviction .t1) s = .next (settled s (goOn (evictionT1 s))) ∧
    exec (.tierEviction .t2) s = .next (settled s (goOn (evictionT2 s))) ∧
    exec (.tierEviction .t3) s = .next (settled s (goOn (flashReclaim s)))) ∧
  (∀ (s : State) (tier : Tier) (node grp row : Nat),
    exec (.patrolScrub tier node grp row .good) s = .next (settled s s) ∧
    exec (.patrolScrub .t1 node grp row .corrected) s = .next (settled s (countFault 2 1 s)) ∧
    exec (.patrolScrub .t2 node grp row .corrected) s = .next (settled s (goOn (scrubRow row (countFault 4 1 s)))) ∧
    exec (.patrolScrub .t3 node grp row .corrected) s = .next (settled s s) ∧
    (∀ n, node < weightsName → findNode s node = some n → grp < n.groups.length →
      exec (.patrolScrub .t1 node grp row .uncorrectable) s = .next (settled s (goOn (dataError node grp .t1 (countFault 3 1 s)))) ∧
      exec (.patrolScrub .t2 node grp row .uncorrectable) s = .next (settled s (goOn (dataError node grp .t2 (countFault 5 1 s)))) ∧
      exec (.patrolScrub .t3 node grp row .uncorrectable) s = .next (settled s (goOn (dataError node grp .t3 s))) ∧
      exec (.patrolScrub tier node grp row .sealFailed) s = .next (settled s (goOn (dataError node grp tier (countFault 10 1 s))))) ∧
    (weightsName ≤ node → exec (.patrolScrub tier node grp row .sealFailed) s
      = .next (settled s (goOn (weightsBad ((node - weightsName) / 256) ((node - weightsName) % 256) tier (countFault 10 1 s)))))) ∧
  (∀ (s : State) (ptr : Nat) (n : Node), findNode s ptr = some n → n.regGen ≠ regGenOf s n.tenant → pinCountOf s n = 0 →
      nodeUnheld s n = true → n.dying = false →
    exec (.oldGenerationRemoval ptr) s = .next (settled s (retireNode ptr (dropAll ptr (abandonMovesOf ptr s))))) ∧
  (∀ (s t : State) (ptr : Nat) (n : Node) (copies : List (Nat × Tier)), findNode s ptr = some n → resealable s n = true →
      copies = (List.range n.groups.length).flatMap (fun g =>
        ([Tier.t1, .t2, .t3].filter fun x => ((groupAt n g).bind fun y => copyIn y x).isSome).map fun x => (g, x)) →
    (copies = [] → exec (.resealNode ptr) s = .next (settled s (commitReseal ptr s))) ∧
    (copies ≠ [] → copies.foldl (fun (o : Option State) x => o.bind fun u => match x.2 with
          | .t3 => placeExtent n x.1 .t3 .reseal .be u
          | y => moveWithin ptr x.1 y .reseal u) (some s) = some t →
      exec (.resealNode ptr) s = .next (settled s t))) ∧
  (∀ (s : State) (tenant : BitVec 12) (epoch : U32), epoch.toNat = (epochsOf s tenant.toNat).oldest →
      (epochsOf s tenant.toNat).oldest < (epochsOf s tenant.toNat).newest →
      epochPages s tenant.toNat ((epochsOf s tenant.toNat).oldest % 4) = 0 →
      (s.eng.profiles.all fun p => !(p.tenant == tenant.toNat && hasWeights p.desc && p.sealEpoch == epoch.toNat)) = true →
      (s.persist.weights.all fun w => !(w.tenant == tenant.toNat && w.sealEpoch == epoch.toNat)) = true →
      resealUnflushed s = false → s.index.recovering = false → 9 ≤ s.power.step →
    ∃ t, exec (.epochRetire tenant epoch) s = .next t ∧
      epochsOf t tenant.toNat = { epochsOf s tenant.toNat with oldest := epoch.toNat + 1 } ∧
      t.sec.memKeys = s.sec.memKeys.filter fun k => k != (tenant.toNat, epoch.toNat))

/-- A program that runs and ends completes its page, one that fails retires its block and is placed again; a read that runs delivers
its extent to its transfer or loses a slot; an erase that runs frees its band, or retires a block; a silent die is dead. Which slot
of an unreadable extent is lost is a free value.
Readings and choices of the model in it: log entries 8, 34, 35, 67, 77, 78, 80 and 169. -/
def Obligations.FlashProgramsAndReadsEnd : Prop :=
  (∀ (s : State) (id : Nat) (p : Program), findProgram s id = some p → nandRuns s (.program id) = true →
    exec (.nandProgramDone id) s
      = .next (settled s (retryPrograms (flashReclaim (programDone p (chargeProgram 1 (dropProgram id s)))))) ∧
    exec (.nandProgramFail id) s = .next (settled s (checkDie p.place.1
      (copyAway (fun q => q.1 == p.place.1 && q.2.1 == p.place.2.1 && indexOfPage s q == indexOfPage s p.place)
        (placeProgram { p with held := { lc := 0, shared := 0 } }
          (retireBlock p.place.1 p.place.2.1 (indexOfPage s p.place) 1 (dropProgram id s))))))) ∧
  (∀ (s t : State) (node grp retries : Nat) (rain : Bool) (r : Nat × Nat × List (Nat × Nat)),
      s.flash.reads.find? (fun r => r.1 == node && r.2.1 == grp) = some r → nandRuns s (.read node grp) = true →
      t = countFlash 4 (flagBit rain 0) (countFlash 3 retries (dropRead node grp { s with flash := { s.flash with
        bands := s.flash.bands.map fun b => if r.2.2.contains (b.row, b.index) then { b with reads := b.reads + 1 } else b } })) →
    (∀ m, s.tiers.moves.find? (fun m => m.ptr == node && m.group == grp && m.src == .t3) = some m →
      exec (.nandReadDone node grp retries rain true) s = .next (settled s (startStep m.id .carry t))) ∧
    (∀ n run rest x, findNode s node = some n → flashRun n grp = run :: rest →
      (runSlots run.1 run.2)[Config.lostSlot s.free % max (runSlots run.1 run.2).length 1]? = some x →
      exec (.nandReadDone node grp retries rain false) s
        = .next (settled s (goOn (loseSlot x.1 { t with free := s.free + 1 }))))) ∧
  (∀ (s : State) (band : Nat) (b : Band), findBand s (band / 65536) (band % 65536) = b → b.state = .erasing →
      nandRuns s (.erase b.row b.index) = true →
    exec (.nandEraseDone band) s = .next (settled s (retryPrograms (journalRec (.band b.row b.index b.stream .free 0)
      (putBand { b with state := .free, writePtr := 0, eraseCount := b.eraseCount + 1, reads := 0,
                        absent := stillAbsent (geomOf s) s.flash.retired s.flash.bands b, weak := false,
                        reservedFlushed := false } (endNand (.erase b.row b.index) s)))))) ∧
  (∀ (s : State) (die plane block : Nat), (findBand s (die / 32) block).state = .erasing →
      nandRuns s (.erase (die / 32) block) = true →
    exec (.nandEraseFail die plane block) s = .next (settled s (checkDie die (retireBlock die plane block 2 s)))) ∧
  (∀ (s : State) (die : Nat), ftlRuns s = true → die < (geomOf s).dies →
    exec (.dieReadyTimeout die) s = .next (settled s (deadDie die s)))

/-- A journal flush that is due takes the pending and buffered records and the counters and asks for their programs; their end
applies them; a segment, directory or chunk image is written and replaces what it covers (R89 to R92, R266 to R270).
Readings and choices of the model in it: log entries 68, 79 and 133. -/
def Obligations.JournalAndImagesReachFlash : Prop :=
  (∀ (s t : State), ftlRuns s = true → s.flash.flushing = none → flushDue s = true →
      t = (s.flash.bands.filter fun b => b.state == .openBand).foldl (fun u b => reserveBand b.row b.stream u) s →
    ∃ u, exec .journalFlush s = .next u ∧ u.index.journalBuf = [] ∧ u.flash.pendingRecs = [] ∧
      u.flash.mapRecs = 0 ∧ u.flash.markerDue = false ∧
      (u.flash.ops.any fun o => o.job == .flush) = true ∧
      u.flash.flushing = some (t.flash.pendingRecs ++ t.index.journalBuf.map JournalRec.index
        ++ [.counters t.flash.writeSeq t.tiers.writeNo t.persist.credit t.persist.theta])) ∧
  (∀ (s : State) (recs : List JournalRec), s.flash.flushing = some recs → nandRuns s .flush = true →
    exec .journalFlushDone s = .next (settled s (flushDone recs (endNand .flush s)))) ∧
  (∀ (s : State) (segment : Nat), ftlRuns s = true → s.flash.dirtySegs.contains segment = true →
    exec (.mapSegmentImage segment) s = .next (settled s (journalRec (.segment segment) (imagePages 1
      { s with flash := { s.flash with dirtySegs := s.flash.dirtySegs.filter fun x => x != segment } })))) ∧
  (∀ (s : State), ftlRuns s = true →
    exec .directoryImage s = .next (settled s (imagePages (directoryPages s) { s with persist := { s.persist with
      directory := some { replayFtl s with slate := s.clk.slate, window := s.clk.window, writeSeq := s.flash.writeSeq },
      journal := s.persist.journal.filter notInImage } }))) ∧
  (∀ (s : State) (chunk : Nat), ftlRuns s = true → s.power.step = 9 →
      (s.index.nodes.any fun n => chunkOf n.ptr == chunk && n.changed) = true →
    ∃ u, exec (.indexCheckpoint chunk) s = .next u ∧
      u.persist.checkpoint = s.persist.checkpoint.filter (fun n => chunkOf n.ptr != chunk)
        ++ s.persist.checkpoint.filter (fun n => chunkOf n.ptr == chunk && indexPending s n.ptr)
        ++ ((s.index.nodes.filter fun n => chunkOf n.ptr == chunk).filter fun n => !indexPending s n.ptr && !n.dying).map ckptNode)

/-- Collection starts on the band with the fewest valid slots when free bands fall below 2 %, or on one that must move; a collected
band is erased once its copies and records are written; a patrol read counts and marks a weak band (R272 to R280).
Readings and choices of the model in it: log entry 142. -/
def Obligations.GarbageIsCollected : Prop :=
  (∀ (s : State) (b : Band), ftlRuns s = true → s.flash.gcVictim = none → freeBands s * 100 < bandCount s * 2 →
      fullestVictim s = some b →
    exec .gcStart s = .next (settled s (gcNext (validSlots s b).length { s with flash := { s.flash with
      gcVictim := some (b.row, b.index), gcLeft := validSlots s b, gcInFlush := false, gcFlushed := false } }))) ∧
  (∀ (s : State) (b : Band), ftlRuns s = true → s.flash.gcVictim = none → bandCount s * 2 ≤ freeBands s * 100 →
      s.flash.bands.find? (mustMove s) = some b →
    exec .gcStart s = .next (settled s (gcNext (validSlots s b).length { s with flash := { s.flash with
      gcVictim := some (b.row, b.index), gcLeft := validSlots s b, gcInFlush := false, gcFlushed := false } }))) ∧
  (∀ (s : State) (v : Nat × Nat), ftlRuns s = true → s.flash.gcVictim = some v → s.flash.gcFlushed = true → s.flash.gcLeft = [] →
      validSlots s (findBand s v.1 v.2) = [] → copiesFrom s v = false →
      (s.flash.reads.all fun r => !r.2.2.contains v) = true →
    exec .gcErase s = .next (settled s (queueNand (.erase (findBand s v.1 v.2).row (findBand s v.1 v.2).index)
      (eraseDies s (findBand s v.1 v.2)) (putBand { findBand s v.1 v.2 with state := .erasing }
        { s with flash := { s.flash with gcVictim := none, gcFlushed := false } })))) ∧
  (∀ (s : State) (band retrySteps : Nat) (b : Band), ftlRuns s = true → findBand s (band / 65536) (band % 65536) = b →
      b.state = .closed →
    exec (.patrolRead band retrySteps) s = .next (settled s (countFlash 3 retrySteps
      (putBand { b with reads := b.reads + 1, weak := b.weak || decide (4 ≤ retrySteps) } s))))

/-- Each marker takes one slate number and opens the next window; from start-up step 7 it also takes the snapshots and does what is
due at a marker.
Readings and choices of the model in it: log entries 41, 111 and 124. -/
def Obligations.CutMarkerClosesWindow : Prop :=
  (∀ (s : State), s.power.clocksOn = true → 7 ≤ s.power.step → s.power.flushing = none →
    exec .cutMarker s = .next (settled s (atMarker
      { takeSnapshots (countThrottle (tick s)) with
        clk := { (takeSnapshots (countThrottle (tick s))).clk with window := s.clk.window + 1 } }))) ∧
  (∀ (s : State), s.power.clocksOn = true → s.power.step < 7 →
    ∃ t, exec .cutMarker s = .next t ∧ t.clk.window = s.clk.window + 1 ∧ t.clk.slate = s.clk.slate + 1)

/-- A wake runs the parked command's own run again when its wait may end; one that waited for a completion entry is accepted again;
where other commands of LC are ready too, or the control complex holds steps, the steps go through its queues, LC first (R18). A
command whose wait goes on stays parked.
Readings and choices of the model in it: log entries 21, 135 and 170. -/
def Obligations.ParkedCommandsGoOn : Prop :=
  (∀ (s : State) (slot : Nat) (c : Cmd) (x : CommandParts), findCmd s slot = some c → partsOf c.instr = some x →
      s.eng.control.lcq = [] → s.eng.control.beq = [] → idleInst s.eng.control ≠ none → readyLc s c = [] →
    (c.wait ≠ .cqEntry → wakeDue s c = true →
      exec (.parkedCommandWake slot) s = .next (settled s (fetchAll (goOn (x.run c s))))) ∧
    (c.wait = .cqEntry →
      exec (.parkedCommandWake slot) s = .next (settled s (fetchAll (goOn (runAccepted c x.run s)))))) ∧
  (∀ (s : State) (slot : Nat) (c : Cmd), findCmd s slot = some c →
    (returns s c = true → exec (.parkedCommandWake slot) s = .next (settled s (runControl ((readyLc s c).length + 1)
      ((readyLc s c ++ [slot]).foldl (fun t i =>
        queueUnit .control (newUnit (((findCmd t i).map (·.cls)).getD .be) (.step i) 0 0) t) s)))) ∧
    (returns s c = false → exec (.parkedCommandWake slot) s = .next (settled s (fetchAll (goOn s)))))

/-- Power, PLL lock, boot, memory training, FTL recovery, index load and journal replay each lead to the next step, or to a stop
with its cause, or to the recovery service (Table 17.8).
Readings and choices of the model in it: log entries 83, 107, 108, 109, 115 and 116. -/
def Obligations.StartUpStepsFollow : Prop :=
  (∀ (s : State) (vinMv : Nat) (sel : Bool), s.power.step = 0 → s.power.overVolt = false ∨ vinMv < 65000 →
      s.power.resetIn = false → s.power.thermTrip = false →
    ∃ t, exec (.startup vinMv sel) s = .next t ∧ t.power.step = 2 ∧ t.power.sagArmed = true ∧ t.power.overVolt = false ∧
      t.power.nandVcc = some (s.power.nandVcc.getD sel) ∧ t.power.fullChipStarts = s.power.fullChipStarts + 1) ∧
  (∀ (s : State) (strapHigh : Bool), s.power.step = 2 →
    ∃ t, exec (.pllLock strapHigh) s = .next t ∧ t.power.step = 3 ∧ t.power.clocksOn = true ∧
      t.boot.strapLow = if s.boot.strapSampled then s.boot.strapLow else !strapHigh) ∧
  (∀ (s : State) (n : Nat) (b : Boot), s.power.step = 3 → s.boot.strapLow = false → bootSlot s.boot = some (n, b) →
    exec .bootVerifyDone s = .next (settled s
      { s with power := { s.power with step := 5, stopCause := 0 }, boot := { b with running := some n } })) ∧
  (∀ (s : State), s.power.step = 3 → s.boot.strapLow = true ∨ bootSlot s.boot = none →
    exec .bootVerifyDone s = .next (settled s { s with power := { s.power with step := 4 }, boot := { s.boot with recovery := true } })) ∧
  (∀ (s : State) (pop : Population), s.power.step = 5 → s.power.stopCause = 0 → trainingCause pop = 0 →
    exec (.memoryTrainingDone pop) s
      = .next (settled s (fetchAll { trainMemory pop s with power := { (trainMemory pop s).power with step := 6 } }))) ∧
  (∀ (s : State) (pop : Population), s.power.step = 5 → s.power.stopCause = 0 → trainingCause pop ≠ 0 →
    ∃ t, exec (.memoryTrainingDone pop) s = .next t ∧ t.power.stopCause = trainingCause pop ∧ t.power.trained = none) ∧
  (∀ (s : State), s.power.step = 6 → s.power.flushing = none → s.persist.formatted = true ∨ s.persist.erased = true →
    exec .ftlRecoveryDone s = .next (settled s { recoverDevice s with power := { (recoverDevice s).power with step := 7 } })) ∧
  (∀ (s : State), s.power.step = 7 → s.power.flushing = none →
    exec .indexLoadDone s = .next (settled s (bringUpAll { s with
      power := { s.power with step := 8 },
      index := { s.index with capacity := nodeCapacity s, nodes := loadedNodes s, recovering := true,
                              replayLeft := liveRecords (indexRecords s) },
      tiers := { s.tiers with t1Total := t1Pool (nodeCapacity s), t1Free := t1Pool (nodeCapacity s) } }))) ∧
  (∀ (s : State), s.power.step = 8 → s.power.flushing = none →
    exec .journalReplayDone s
      = .next (settled s (goOn (tick { replayIndex s with power := { (replayIndex s).power with step := 9 } }))))

/-- A sag warning flushes; the end of a flush resets; V_RST resets at once; over-voltage and reference loss decide a reset with
their event; PLL loss resets at once; RESET_IN_N flushes and resets, and its release samples the strap (R461 to R463, R472,
R475).
Readings and choices of the model in it: log entries 50, 108, 109, 110, 117 and 126. -/
def Obligations.PowerEventsReset : Prop :=
  (∀ (s : State) (vinMv : Nat), s.power.sagArmed = true → 6 ≤ s.power.step →
    exec (.sagWarn vinMv) s = .next (settled s (flushOrReset 2 (setFuncEvent 0 (raise 0x0006 0 0 vinMv 0
      { s with power := { s.power with vinMv := vinMv, sagWarn := true, sagArmed := false } }))))) ∧
  (∀ (s : State) (cause : Nat), s.power.flushing = some cause →
    exec .holdupFlushEnd s = .next (settled s (fullChipReset (writeFlush s)))) ∧
  (∀ (s : State) (vinMv : Nat),
    exec (.vinBelowReset vinMv) s
      = .next (settled s (fullChipReset { s with power := { s.power with vinMv := vinMv, nandVcc := none } }))) ∧
  (∀ (s : State) (vinMv : Nat), s.power.step ≠ 0 →
    exec (.vinOverVoltage vinMv) s = .next (settled s (decideReset 4 (fatalEvent 3 2
      { s with power := { s.power with vinMv := vinMv, overVolt := true } })))) ∧
  (∀ (s : State), s.power.clocksOn = true → s.power.refclkOk = true →
    exec .refclkLoss s = .next (settled s (decideReset 5 (fatalEvent 3 3 { s with power := { s.power with refclkOk := false } }))) ∧
    exec .pllLockLoss s = .next (settled s (fullChipReset s))) ∧
  (∀ (s : State), s.power.resetIn = false →
    (s.power.flushing ≠ none ∨ s.power.step < 6 →
      exec .resetInAssert s = .next (settled s (fullChipReset { s with power := { s.power with resetIn := true } }))) ∧
    (s.power.flushing = none → 6 ≤ s.power.step →
      exec .resetInAssert s = .next (settled s (beginFlush 1 { s with power := { s.power with resetIn := true } })))) ∧
  (∀ (s : State) (strapHigh : Bool), s.power.resetIn = true →
    exec (.resetInRelease strapHigh) s = .next (settled s (enterClocks
      { s with power := { s.power with resetIn := false }, boot := { s.boot with strapLow := !strapHigh, strapSampled := true } })))

/-- Each tick raises, keeps or lowers the skipped pulses by the junction temperature, at most 12; a tick beyond the trip points
trips; cooling below the release points restarts the clocks (R468, R469).
Readings and choices of the model in it: log entry 116. -/
def Obligations.TemperatureThrottlesAndTrips : Prop :=
  (∀ (s : State) (sensor tj hbm : Nat), s.power.clocksOn = true → tj < 1100 → hbm < 1050 →
    (1000 ≤ tj → ∃ t, exec (.thermalTick sensor tj hbm) s = .next t ∧ t.power.skip = min 12 (s.power.skip + 1)) ∧
    (tj < 980 → ∃ t, exec (.thermalTick sensor tj hbm) s = .next t ∧ t.power.skip = s.power.skip - 1) ∧
    (980 ≤ tj → tj < 1000 → ∃ t, exec (.thermalTick sensor tj hbm) s = .next t ∧ t.power.skip = s.power.skip)) ∧
  (∀ (s : State) (sensor tj hbm : Nat), s.power.clocksOn = true → 1100 ≤ tj ∨ 1050 ≤ hbm → s.power.thermTrip = false →
      s.power.skip = 12 → 1000 ≤ tj →
    exec (.thermalTick sensor tj hbm) s = .next (settled s (thermalTrip sensor tj
      { s with power := { s.power with skip := 12, throttledNow := true } }))) ∧
  (∀ (s : State) (tj hbm : Nat), tj < 900 → hbm < 900 →
    exec (.thermalTripRelease tj hbm) s = .next (settled s (enterClocks { s with power := { s.power with thermTrip := false } })))

/-- REC_STATUS answers, REC_RESET resets, REC_WRITE_SLOT stores a valid image, REC_FORMAT and REC_ANCHOR_CLEAR are denied without
the strap and otherwise format the media or clear the anchor.
Readings and choices of the model in it: log entries 92, 112, 113 and 126. -/
def Obligations.RecoveryServiceAnswers : Prop :=
  (∀ (s : State), recServed s = true →
    exec .recStatus s = .next (settled s (emit (.recovery (.status
      (if slotValid s.boot 0 || slotValid s.boot 1 then s.power.stopCause else 6) s.boot.fuses (slotValid s.boot 0) (slotValid s.boot 1)
      s.boot.strapLow)) s)) ∧
    exec .recReset s = .next (settled s (fullChipReset (emit (.recovery (.done .ok)) s)))) ∧
  (∀ (s : State) (image : Image), recServed s = true → imageForm image = true → imageFailure s.boot.fuses image = none →
    exec (.recWriteSlot image) s = .next (settled s (emit (.recovery (.done .ok))
      { s with boot := writeBootRecord (inactiveSlot s.boot) false
                         (withSlot (inactiveSlot s.boot) (some image) (withSlot (inactiveSlot s.boot) none s.boot)) }))) ∧
  (∀ (s : State) (pop : Population), recServed s = true → s.boot.strapLow = false →
    (∀ op r, exec (.recFormat op r pop) s = .next (settled s (emit (.recovery (.done .denied)) s))) ∧
    exec (.recAnchorClear pop) s = .next (settled s (emit (.recovery (.done .denied)) s))) ∧
  (∀ (s : State) (op : Byte) (pop : Population), recServed s = true → s.boot.strapLow = true → op.toNat ≤ 2 →
      s.power.trained ≠ none → s.persist.formatted = true →
    exec (.recFormat op 0 pop) s = .next (settled s (emit (.recovery (.done .ok))
      { (formatMedia op.toNat (resumeMedia s)) with
        flash := { (formatMedia op.toNat (resumeMedia s)).flash with map := [], bands := [], pendingRecs := [], dirtySegs := [] } }))) ∧
  (∀ (s : State) (pop : Population), recServed s = true → s.boot.strapLow = true → s.power.trained ≠ none →
      s.persist.formatted = true → s.persist.erased = false →
    ∃ t, exec (.recAnchorClear pop) s = .next t ∧ t.persist.config.anchor = 0 ∧ t.out = s.out ++ [.recovery (.done .ok)])

/-- TCP_CONNECT, TLS_HANDSHAKE_DONE and TLS_SESSION_END complete: a connection is accepted below 8 sessions and reset at 8; a
handshake gives the role its certificate carries, the first operator sets the anchor, and any other certificate is refused; a
session that ends is gone (R483 to R487).
Readings and choices of the model in it: log entries 75 and 104. -/
def Obligations.ManagementSessionsOpenAndClose : Prop :=
  (∀ (s : State), s.mgmt.linkUp = true → s.mgmt.sessions.length < Config.maxSessions →
    exec .tcpConnect s = .next (settled s (emit (.tcpAccept (sessionNumber s)) { s with mgmt := { s.mgmt with
      sessions := s.mgmt.sessions ++ [{ num := sessionNumber s, role := none, provisional := false }] } }))) ∧
  (∀ (s : State), s.mgmt.linkUp = true → Config.maxSessions ≤ s.mgmt.sessions.length →
    exec .tcpConnect s = .next (settled s (emit .tcpReset s))) ∧
  (∀ (s : State) (n : Nat) (cert : ClientCert), (s.mgmt.sessions.any fun m => m.num == n && m.role.isNone) = true →
    (cert.profileOk = false → exec (.tlsHandshakeDone n cert) s = .next (settled s (emit (.tlsAlert n) (endSession n s)))) ∧
    (cert.profileOk = true → s.mgmt.recordLoaded = false →
      exec (.tlsHandshakeDone n cert) s
        = .next (settled s (setSession n (fun m => { m with role := some .auditor, provisional := true }) s))) ∧
    (∀ r, cert.profileOk = true → s.mgmt.recordLoaded = true → roleOf cert = some r → s.cfg.anchor ≠ 0 →
      cert.anchorDigest = s.cfg.anchor →
      exec (.tlsHandshakeDone n cert) s = .next (settled s (setSession n (fun m => { m with role := some r }) s))) ∧
    (cert.profileOk = true → s.mgmt.recordLoaded = true → roleOf cert = some .operator → s.cfg.anchor = 0 → cert.selfSigned = true →
      exec (.tlsHandshakeDone n cert) s = .next (settled s (setSession n (fun m => { m with role := some .operator })
        (commitRecord (fun c => { c with anchor := cert.anchorDigest }) s)))) ∧
    (cert.profileOk = true → s.mgmt.recordLoaded = true → s.cfg.anchor ≠ 0 → cert.anchorDigest ≠ s.cfg.anchor →
      exec (.tlsHandshakeDone n cert) s = .next (settled s (emit (.tlsAlert n) (endSession n s))))) ∧
  (∀ (s : State) (n : Nat),
    exec (.tlsSessionEnd n) s
      = .next (settled s { s with mgmt := { s.mgmt with sessions := s.mgmt.sessions.filter fun m => m.num != n } }))

/-- Each bring-up message in its step leads to the next step or to a failed link; retries start again; a frame that fails is
repeated up to its limit and then loses the link (Table 15.1).
Readings and choices of the model in it: log entries 99, 100, 101 and 102. -/
def Obligations.SpliceLinksBringUp : Prop :=
  (∀ (s : State) (port : Nat) (device : U16) (gen : U32) (nonce : BitVec 256) (root : Digest) (p : SplicePort),
      findSplice s port = some p → p.step = .hello →
    exec (.hello port device gen nonce root) s = .next (settled s (sendBringUp port
      (.report nonce (s.clk.slate + 1) (s.cfg.debugState != 0) (measurementsOf (tick s)))
      (setSplice port (fun x => { x with step := .report, peerDevice := device.toNat, peerGen := gen.toNat, peerRoot := root }) (tick s))))) ∧
  (∀ (s : State) (port : Nat) (r : PeerReport) (p : SplicePort), findSplice s port = some p → p.step = .report → peerPasses s p r = true →
    exec (.report port r) s = .next (settled s (sendKey port (Config.drbg s.free) p
      (setSplice port (fun x => { x with step := .key }) { s with free := s.free + 1 })))) ∧
  (∀ (s : State) (port : Nat) (r : PeerReport) (p : SplicePort), findSplice s port = some p → p.step = .report → peerPasses s p r = false →
    exec (.report port r) s
      = .next (settled s (portDown 3 port 4 (countSplice 0 (setSplice port (fun x => { x with step := .failed }) s))))) ∧
  (∀ (s : State) (port : Nat) (p : SplicePort), findSplice s port = some p →
    (p.step = .failed → exec (.spliceAttestRetry port) s = .next (settled s (startBringUp port (spliceDown port 1 s)))) ∧
    (p.step = .held → exec (.spliceDomainRetry port) s = .next (settled s (goOn (domainStep port s)))) ∧
    (∀ contribution root, p.step = .key ∨ p.step = .held →
      exec (.key port contribution root) s = .next (settled s (goOn (domainStep port (setSplice port (fun x =>
        { x with peerContribution := contribution, offeredRoot := root,
                 peerRoot := if root.isSome then domainDigest root else p.peerRoot }) s))))) ∧
    (p.phy = true → p.frameRetries < 7 →
      exec (.spliceFrameRetry port) s = .next (settled s (setSplice port (fun x => { x with frameRetries := x.frameRetries + 1 }) s))) ∧
    (p.phy = true → 7 ≤ p.frameRetries → exec (.spliceFrameRetry port) s = .next (settled s (goOn (loseSplice port s)))))

/-- A message for this device is taken, one for another is relayed with its relays counted, one with a bad tag or too many relays is
counted and dropped; a frame leaves on its port; a continuation that expires replies with what it has (R429 to R434).
Readings and choices of the model in it: log entries 102 and 103. -/
def Obligations.SpliceMessagesTaken : Prop :=
  (∀ (s : State) (port : Nat) (env : Envelope), spliceUp s port = true → env.tagOk = true → env.dstDevice.toNat = s.cfg.deviceNumber →
    (∀ body, exec (.matchIn port env body) s = .next (settled s (goOn (takeMatchIn env body s)))) ∧
    (∀ body, exec (.matchOut port env body) s = .next (settled s (goOn (takeMatchOut body s)))) ∧
    (∀ lport bytes, lportUp s lport = true →
      exec (.frame port env lport true bytes) s = .next (settled s (emit (.ethFrame lport bytes) s)))) ∧
  (∀ (s : State) (port : Nat) (env : Envelope), spliceUp s port = true → env.tagOk = true → env.dstDevice.toNat ≠ s.cfg.deviceNumber →
      env.relays < 63 →
    (∀ body, exec (.matchIn port env body) s = .next (settled s (sendSplice env.srcDevice.toNat env.dstDevice.toNat (env.relays + 1)
      env.probes env.regGen.toNat (if bitOf env.spFlags.toNat 0 then .be else .lc) (.matchIn body) s).2)) ∧
    (∀ body, exec (.matchOut port env body) s = .next (settled s (sendSplice env.srcDevice.toNat env.dstDevice.toNat (env.relays + 1)
      env.probes env.regGen.toNat (if bitOf env.spFlags.toNat 0 then .be else .lc) (.matchOut body) s).2))) ∧
  (∀ (s : State) (port : Nat) (env : Envelope) (body : MatchInBody), spliceUp s port = true →
    (env.tagOk = false → exec (.matchIn port env body) s = .next (settled s (countSplice 3 s))) ∧
    (env.tagOk = true → env.dstDevice.toNat ≠ s.cfg.deviceNumber → 63 ≤ env.relays →
      exec (.matchIn port env body) s = .next (settled s (countSplice 4 s)))) ∧
  (∀ (s : State) (id : U64) (k : Continuation), findCont s id = some k →
    exec (.continuationExpiry id) s = .next (settled s (goOn (replyCont k true s))))

/-- A packet with an opcode the device does not know goes through the tests of Table 10.9 and, on the management path, is answered
ST_BAD_OPCODE.
Readings and choices of the model in it: log entries 9, 20, 22 and 24. -/
def Obligations.UnknownOpcodeRefused : Prop :=
  (∀ (s s0 : State) (p : Packet), Delivered (.unknownOpcode p) p s s0 →
    exec (.unknownOpcode p) s = .next (settled s (afterPacket p (intake (.unknownOpcode p) (opEarly 0) p s0).1))) ∧
  (∀ (s : State) (p : Packet), p.path = .mgmt → laneServed s p = true → framingOk p = true → answersTransition s p = false →
    exec (.unknownOpcode p) s = .next (settled s (reject none p .badOpcode 0 0 s)))

/-- A JOB_OPEN that passes every check opens its job and replies; JOB_CLOSE closes and waits for the job to drain; the drained job
is freed; JOB_QUERY answers.
Readings and choices of the model in it: log entries 9, 17, 20, 22, 24 and 69. -/
def Obligations.JobCommandsComplete : Prop :=
  (∀ (s t : State) (p : Packet) (a : JobOpenParams), Delivered (.jobOpen p a) p s t → p.path ≠ .mgmt → laneServed t p = true →
      framingOk p = true → paramLen p = 0x440 → descCount p = 0 → answersTransition t p = false → openDenied t p = false →
      a.reportGen.toNat = t.sec.resetGen → openAuthentic p a = true → openFailure t p a = none →
    exec (.jobOpen p a) s = .next (settled s (afterPacket p (openJob (.jobOpen p a) p a t)))) ∧
  (∀ (s t : State) (p : Packet) (c : Cmd), Runs (.jobClose p 0) (opEarly 0x0102) p (closeAccept p 0) s c t → formOk p 8 [] true = true →
    exec (.jobClose p 0) s = .next (settled s (afterPacket p (park c.slot .jobDrain t)))) ∧
  (∀ (s : State) (job : Nat) (j : Job), findJob s job = some j → closeDue s j = true →
    exec (.jobCloseFinish job) s = .next (settled s (finishJob j s))) ∧
  (∀ (s t : State) (p : Packet) (c : Cmd) (j : Job), Runs (.jobQuery p 0) (opEarly 0x0103) p atOnce s c t → formOk p 8 [] true = true →
      jobOf t c = some j →
    exec (.jobQuery p 0) s = .next (settled s (afterPacket p (done c (queryResult0 t j) (queryResult1 t j) t))))

/-- A load finds its loaded variant, its persisted copy with records that all check, or its new records, and takes its profile; an
unload drops its profile when nothing uses it, and its data with the purge flag; a query answers its variant.
Readings and choices of the model in it: log entry 51. -/
def Obligations.ModelCommandsComplete : Prop :=
  (∀ (s t u : State) (p : Packet) (a : ModelLoadParams) (c : Cmd) (j : Job), Runs (.modelLoad p a) (opEarly 0x0201) p atOnce s c t →
      u = freeEntries t → jobOf u c = some j → paramLen p = 0x290 → descsOk u j p [kindWeights] = true → a.profile.modelId = j.modelId →
      loadFormOk u j p a = true → keyFailure u j a = none →
    (∀ x, loadedVariant u j a.profile = some x → x.lost = false → a.profile.weightsDigest = 0 →
      exec (.modelLoad p a) s
        = .next (settled s (afterPacket p (done c (BitVec.ofNat 32 (loadResult x.slot x.variant x.preference)) 0 u)))) ∧
    (∀ x r rs, loadedVariant u j a.profile = some x → x.lost = false → a.profile.weightsDigest ≠ 0 → a.blob = .opened (r :: rs) →
      r.tagOk = true →
      exec (.modelLoad p a) s = .next (settled s (afterPacket p (reading c p kindWeights (recordSize a.profile + 16)
        (done c (BitVec.ofNat 32 (loadResult x.slot x.variant x.preference)) 0) u)))) ∧
    (∀ v, loadedVariant u j a.profile = none → loadVariant u j a.profile = some v → u.eng.profiles.length < Config.maxProfiles →
      (a.profile.weightsDigest = 0 → u.tiers.weightsT1 ≤ 2 ^ 25 →
        exec (.modelLoad p a) s = .next (settled s (afterPacket p (takeProfile c j a v [] false u)))) ∧
      (a.profile.weightsDigest ≠ 0 →
        u.tiers.weightsT1 + a.profile.layers.toNat * recordSize a.profile / 512 ≤ 2 ^ 25 →
        (∀ w r rs, persistedCopy u j a = some w → a.blob = .opened (r :: rs) → r.tagOk = true → w.records.head? = some r.plain →
          ((List.range w.records.length).all fun l => ((w.records[l]?).map (recordOk a.profile l)).getD false) = true →
          exec (.modelLoad p a) s = .next (settled s (afterPacket p
            (reading c p kindWeights (recordSize a.profile + 16) (takeProfile c j a v w.records true) u)))) ∧
        (∀ rs, persistedCopy u j a = none → a.blob = .opened rs → rs.length = a.profile.layers.toNat →
          rs.all (fun r => r.tagOk) = true → a.digestOk = true →
          ((List.range a.profile.layers.toNat).all fun l => ((rs[l]?).map fun r => recordOk a.profile l r.plain).getD false) = true →
          exec (.modelLoad p a) s = .next (settled s (afterPacket p (reading c p kindWeights (descBytes kindWeights p)
            (takeProfile c j a v (rs.map fun r => r.plain) false) u))))))) ∧
  (∀ (s t : State) (p : Packet) (a : ModelNameParams) (c : Cmd) (j : Job) (x : Profile),
      Runs (.modelUnload p a) (opEarly 0x0202) p atOnce s c t → jobOf t c = some j → formOk p 8 [] true = true → a.modelId = j.modelId →
      a.reserved = 0 → bitsOf a.ulFlags.toNat 1 7 = 0 → a.variant.toNat < 4 →
      variantProfile t j.tenant a.modelId a.variant.toNat = some x →
    (bitOf a.ulFlags.toNat 0 = false →
      exec (.modelUnload p a) s = .next (settled s (afterPacket p (freeEntries (dropProfileIfDone x.slot (done c 0 0
        (setProfile x.slot (fun x => { x with unloading := true }) t))))))) ∧
    (bitOf a.ulFlags.toNat 0 = true →
      exec (.modelUnload p a) s = .next (settled s (afterPacket p (freeEntries (purgeVariant j.tenant a.modelId a.variant.toNat
        (dropProfileIfDone x.slot (done c 0 0 { setProfile x.slot (fun x => { x with unloading := true }) t with
          persist := { t.persist with weights := t.persist.weights.filter fun w =>
            !(w.tenant == j.tenant && w.desc.modelId == a.modelId && w.variant == a.variant.toNat) } })))))))) ∧
  (∀ (s t : State) (p : Packet) (a : ModelNameParams) (c : Cmd) (j : Job) (e : VariantEntry),
      Runs (.modelQuery p a) (opEarly 0x0203) p atOnce s c t → jobOf (freeEntries t) c = some j → formOk p 8 [] true = true →
      a.modelId = j.modelId → a.reserved = 0 → a.ulFlags = 0 →
      (variantEntries (freeEntries t) j.tenant a.modelId).find? (fun e => e.variant == a.variant.toNat) = some e →
    exec (.modelQuery p a) s = .next (settled s (afterPacket p (done c (modelResults (freeEntries t) j e).1
      (modelResults (freeEntries t) j e).2 (freeEntries t)))))

/-- A lookup that passes its checks starts its run with the keys of its tokens; a pin run also within its quotas; an extension from
its record's last key, in its turn behind what grows the record; UNPIN releases its record at its acceptance, replies, and
frees the record once nothing refers to it.
Readings and choices of the model in it: log entries 45, 46 and 61. -/
def Obligations.LookupCommandsStart : Prop :=
  (∀ (s t : State) (p : Packet) (a : LookupParams) (c : Cmd) (j : Job) (mask : Nat) (inl : Bool),
      Runs (.lookup p a) (opLate 0x0301) p atOnce s c t → jobOf t c = some j → lookupForm t j p a false = true →
      bitOf a.lkFlags.toNat 0 = inl → tokensAgree p 0x10 inl a.tokenCount.toNat = true → acceptMask t j a.variantMask = some mask →
      a.hopBudget.toNat ≤ 63 → scopeAllowed j a.scopeId = true →
    exec (.lookup p a) s = .next (settled s (afterPacket p (withTokens c p inl a.tokenCount.toNat a.tokens (fun ts u =>
      startRun c .lookup j a.scopeId mask a.hopBudget.toNat 1 (modelBlockSize u j) (inputBlocks t j mask 0 a.tokenCount.toNat)
        (inputBlocks t j mask 0 a.tokenCount.toNat) (seedKey u j.tenant j.modelId a.scopeId) ts u) t)))) ∧
  (∀ (s t : State) (p : Packet) (a : LookupParams) (c : Cmd) (j : Job) (mask bound : Nat) (inl : Bool),
      Runs (.lookupPin p a) (opLate 0x0302) p atOnce s c t → jobOf t c = some j → lookupForm t j p a true = true →
      bitOf a.lkFlags.toNat 0 = inl → tokensAgree p 0x10 inl a.tokenCount.toNat = true → acceptMask t j a.variantMask = some mask →
      a.hopBudget.toNat ≤ 63 → scopeAllowed j a.scopeId = true →
      bound = pinBound (inputBlocks t j mask 0 a.tokenCount.toNat) a.maxBlocks → pinShortage t j bound bound none = none →
    exec (.lookupPin p a) s = .next (settled s (afterPacket p (withTokens c p inl a.tokenCount.toNat a.tokens (fun ts u =>
      startRun c .lookupPin j a.scopeId mask a.hopBudget.toNat 1 (modelBlockSize u j) (inputBlocks t j mask 0 a.tokenCount.toNat)
        bound (seedKey u j.tenant j.modelId a.scopeId) ts u) t)))) ∧
  (∀ (s t : State) (p : Packet) (a : ExtendParams) (c : Cmd) (j : Job) (mask bound : Nat) (r : PinRecord) (inl fork : Bool),
      Runs (.lookupExtend p a) (opLate 0x0303) p atOnce s c t → jobOf t c = some j → bitsOf a.lkFlags.toNat 2 6 = 0 →
      a.reserved0B = 0 → a.reserved14 = 0 → descsOk t j p [kindToken, kindReplyPayload] = true → bitOf a.lkFlags.toNat 0 = inl →
      bitOf a.lkFlags.toNat 1 = fork →
      tokensAgree p 0x18 inl a.tokenCount.toNat = true → acceptMask t j a.variantMask = some mask → a.hopBudget.toNat ≤ 63 →
      resolvePin t j a.pinHandle = .ok r → (if fork then growing t r.record else extending t r.record) = false →
      bound = pinBound (inputBlocks t j mask r.blocks a.tokenCount.toNat) a.maxBlocks →
      pinShortage t j (if fork then r.blocks + bound else bound) bound (if fork then none else some r.record) = none →
    exec (.lookupExtend p a) s = .next (settled s (afterPacket p (withTokens c p inl a.tokenCount.toNat a.tokens (fun ts u =>
      startRun c (.extend r.record fork) j r.scope mask a.hopBudget.toNat (r.blocks + 1) (modelBlockSize u j)
        (inputBlocks t j mask r.blocks a.tokenCount.toNat) bound r.lastKey ts u) t)))) ∧
  (∀ (s t : State) (p : Packet) (a : UnpinParams) (c : Cmd) (j : Job),
      Runs (.unpin p a) (opLate 0x0304) p (acceptUnpin p a) s c t → jobOf t c = some j → formOk p 16 [] true = true → a.reserved08 = 0 →
      c.phase = 1 →
    exec (.unpin p a) s = .next (settled s (afterPacket p (settleRecord (bitsOf a.pinHandle.toNat 24 20) (done c 0 0 t))))) ∧
  (∀ (s : State) (p : Packet) (a : UnpinParams) (c : Cmd) (j : Job) (r : PinRecord), jobOf s c = some j →
      formOk p 16 [] true = true → a.reserved08 = 0 → resolvePin s j a.pinHandle = .ok r →
    acceptUnpin p a c s = setRecord r.record (fun x => { x with released := true }) (setCmd c.slot (fun c => { c with phase := 1 }) s))

/-- An ingest that passes its checks starts its skip run; a pull starts its reads; a push takes landing slots, as many as its count,
its reply, the job's limit and the pool allow, and replies with their addresses; a commit sends its inserts; an abort replies.
Readings and choices of the model in it: log entries 37, 45, 63, 95, 130, 131 and 140. -/
def Obligations.IngestCommandsComplete : Prop :=
  (∀ (s t : State) (p : Packet) (a : IngestOpenParams) (c : Cmd) (j : Job) (base : Option PinRecord) (pr : Profile) (b : Nat),
      Runs (.ingestOpen p a) (opLate 0x0401) p (acceptIngestOpen a) s c t → jobOf t c = some j → j.closing = false →
      bitsOf a.ioFlags.toNat 3 5 = 0 → descsOk t j p [kindToken] = true →
      tokensAgree p 0x10 (ioFlag a 0) a.tokenCount.toNat = true → ingestBase t j a = .ok base → openProfile t j a c.holds = some pr →
      pr.lost = false → b = a.tokenCount.toNat / blockSize pr.desc → 1 ≤ b → b ≤ 4096 →
      (base.map (·.blocks)).getD 0 + b ≤ maxBlock pr.desc → ioFlag a 1 = false ∨ pinShortage t j b b (base.map (·.record)) = none →
      c.phase = 0 → ingestSpent t j.tenant = false → Config.ingestHeadroom < t.tiers.ingestPool.free →
      c.cls = .lc ∨ t.tiers.aboveMark = false →
    exec (.ingestOpen p a) s = .next (settled s (afterPacket p (sweepProfiles
      (withTokens c p (ioFlag a 0) a.tokenCount.toNat a.tokens (fun toks u => startRun c .ingestOpen j
        (match base with
          | some r => r.scope
          | none => a.scopeId) (2 ^ a.variant.toNat) 0 ((base.map (·.blocks)).getD 0 + 1) (blockSize pr.desc) b b
        (ingestPrev u j a base) toks u) t))))) ∧
  (∀ (s t : State) (p : Packet) (a : IngestParams) (c : Cmd) (j : Job) (g : Ingest) (pr : Profile),
      Runs (.ingestPull p a) (opLate 0x0402) p (acceptOnIngest a) s c t → jobOf t c = some j → paramLen p = 16 → a.reserved0C = 0 →
      ingestFor t j c a.ingestHandle = .ok g → ingestProfile t g = some pr → descsOk t j p [kindRemoteBuffer] = true →
      pullKeysOk p a = true → pr.lost = false → ingestSpent t j.tenant = false →
    exec (.ingestPull p a) s = .next (settled s (afterPacket p (startPull c p t)))) ∧
  (∀ (s t : State) (p : Packet) (a : IngestParams) (c : Cmd) (j : Job) (g : Ingest) (pr : Profile) (cap n : Nat),
      Runs (.ingestPushSlots p a) (opLate 0x0403) p (acceptOnIngest a) s c t → jobOf t c = some j → p.path ≠ .pcie → paramLen p = 16 →
      a.reserved0C = 0 → a.rkey = 0 → descsOk t j p [kindReplyPayload] = true → c.payloadCap = some cap → 40 ≤ cap → a.count ≠ 0 →
      a.count.toNat ≤ 4096 → ingestFor t j c a.ingestHandle = .ok g → ingestProfile t g = some pr → pr.lost = false →
      ingestSpent t j.tenant = false →
      n = min (min a.count.toNat ((cap - 32) / 8)) (min (Config.jobLandingSlots - jobSlots t j.index) (landingFree t c.cls)) → n ≠ 0 →
    exec (.ingestPushSlots p a) s = .next (settled s (afterPacket p (completeWith c (8 * n) 0 8
      (.addresses ((lowestSlots t n).map landingAddr)) noFlags (BitVec.ofNat 32 n) (BitVec.ofNat 64 j.landingKey.toNat)
      (takeLanding c.cls (lowestSlots t n) j.index (.ingest g.index) t))))) ∧
  (∀ (s t : State) (p : Packet) (a : IngestParams) (c : Cmd) (j : Job) (g : Ingest) (pr : Profile),
      Runs (.ingestCommit p a) (opLate 0x0404) p (commitAccept p a) s c t → jobOf t c = some j → endForm p a = true → c.phase = 1 →
      findIngest t (bitsOf a.ingestHandle.toNat 0 12) = some g → ingestProfile t g = some pr → pr.lost = false →
      (t.jobs.cmds.any fun x => pullOf g x && decide (x.acceptSlate < c.acceptSlate)) = false → ingestBusy t g = false →
      purgeBefore t j.tenant g.scope c.acceptSlate = false → baseBusy t g = false →
    exec (.ingestCommit p a) s = .next (settled s (afterPacket p (sendInserts c g pr.desc t)))) ∧
  (∀ (s t : State) (p : Packet) (a : IngestParams) (c : Cmd) (j : Job),
      Runs (.ingestAbort p a) (opLate 0x0405) p (abortAccept p a) s c t → jobOf t c = some j → endForm p a = true → c.phase = 1 →
    exec (.ingestAbort p a) s = .next (settled s (afterPacket p (done c 0 0 t))))

/-- A delivery reads its block table and opens its storyboard, a cancel aborts it and waits for its end, a status replies, and a raw
fallback turns the layer that may turn.
Readings and choices of the model in it: log entries 70, 71, 129, 132 and 135. -/
def Obligations.DeliverCommandsComplete : Prop :=
  (∀ (s t : State) (p : Packet) (a : DeliverParams) (c : Cmd) (b : Storyboard) (bt : List U64),
      Runs (.deliver p a) (opLate 0x0501) p (acceptDeliver p a) s c t → ownSb t c = some b → b.opened = false → a.blockTable = .opened bt →
    exec (.deliver p a) s = .next (settled s (afterPacket p
      (reading c p kindBlockTable (descBytes kindBlockTable p) (withTable c a b bt) t)))) ∧
  (∀ (s : State) (p : Packet) (a : DeliverParams) (c : Cmd) (b : Storyboard) (j : Job) (bt : List U64), findCmd s c.slot = some c →
      c.instr = .deliver p a → c.wait = .descRead → c.fetched = true → ownSb s c = some b → b.opened = false → a.blockTable = .opened bt →
      findJob s b.job = some j → bt.length = a.blockCount.toNat → toHost a = false → b.state ≠ .draining → lostAmong s b.ptrs = false →
      s.eng.control.lcq = [] → s.eng.control.beq = [] → idleInst s.eng.control ≠ none → readyLc s c = [] →
    exec (.parkedCommandWake c.slot) s = .next (settled s (fetchAll (goOn (advanceSb b.id
      (setCmd c.slot (fun c => { c with wait := .storyboard, phase := 1 })
        (setSb b.id (fun b => { b with opened := true, blockTable := bt }) s))))))) ∧
  (∀ (s t : State) (p : Packet) (a : DeliveryNameParams) (c : Cmd) (j : Job) (b : Storyboard),
      Runs (.deliverCancel p a) (opLate 0x0502) p atOnce s c t → jobOf t c = some j → deliveryForm p a = true → namedSb t j a = some b →
    exec (.deliverCancel p a) s = .next (settled s (afterPacket p (abortSb b.id .cancelled
      (setSb b.id (fun b => { b with cancels := b.cancels ++ [c.slot] }) (park c.slot .storyboardEnd t)))))) ∧
  (∀ (s t : State) (p : Packet) (a : DeliveryNameParams) (c : Cmd) (j : Job) (b : Storyboard),
      Runs (.deliverStatus p a) (opLate 0x0503) p atOnce s c t → jobOf t c = some j → deliveryForm p a = true → namedSb t j a = some b →
    exec (.deliverStatus p a) s = .next (settled s (afterPacket p
      (done c (BitVec.ofNat 32 (sbStatus b)) (BitVec.ofNat 64 (b.ackedBytes % 2 ^ 48)) t)))) ∧
  (∀ (s : State) (id l : Nat) (b : Storyboard), findSb s id = some b → mayTurnRaw s b l = true →
    exec (.rawFallbackTimeout id l) s = .next (settled s (turnRaw id l s)))

/-- A session that passes its checks, its query slots' addresses fitting the reply, is opened; a query is read and joins its batch;
a close waits for its session to drain; and an expired gather window closes its batch.
Readings and choices of the model in it: log entries 43, 74, 130 and 132. -/
def Obligations.AttendCommandsComplete : Prop :=
  (∀ (s t : State) (p : Packet) (a : AttendOpenParams) (c : Cmd) (j : Job) (r : PinRecord) (ps : List Profile)
      (d : ProfileDesc) (layers : Nat × Nat),
      Runs (.attendOpen p a) (opLate 0x0601) p (acceptAttendOpen a) s c t → jobOf t c = some j → j.closing = false →
      heldRecord t j c a.pinHandle = .ok r → attendOpenForm p a = true → descsOk t j p [kindReplyPayload] = true →
      1 ≤ a.firstBlock.toNat → a.firstBlock.toNat + a.blockCount.toNat - 1 ≤ r.blocks →
      blockProfiles t j c.holds (rangePtrs t r.record a.firstBlock.toNat a.blockCount.toNat) = some ps → ps.head?.map (·.desc) = some d →
      attendLayers d a = some layers → a.maxEntries.toNat * queryHeads d * d.headDim.toNat * 2 ≤ 2097152 →
      (if attendHost a then (primaryLane t j).isSome else addressesFit c a && qpOfJob t j (bitsOf a.qpn.toNat 0 24)) = true →
      ps.any (·.lost) = false → (t.eng.memberships.filter fun m => m.job == j.index).length < Config.jobMemberships →
      jobSlots t j.index + (if attendHost a then 0 else a.querySlots.toNat * querySlotUnits d a.maxEntries.toNat) ≤ Config.jobLandingSlots →
      c.cls = .lc ∨ Config.membershipHeadroom < t.eng.memberPool.free →
    exec (.attendOpen p a) s = .next (settled s (afterPacket p (sweepProfiles
      (openMember c j a r layers d (ps.map (·.slot)) (rangePtrs t r.record a.firstBlock.toNat a.blockCount.toNat) t))))) ∧
  (∀ (s t : State) (p : Packet) (a : AttendParams) (c : Cmd) (j : Job) (m : Membership) (d : ProfileDesc),
      Runs (.attend p a) (opLate 0x0602) p atOnce s c t → jobOf t c = some j → resolveSession t j a.session = .ok m →
      memberDesc t m = some d →
      ((closeSlate t m).map fun x => decide (x < c.acceptSlate)).getD false = false → attendForm t j p a m d c.slot = true →
    (attendHost m.prm = true → c.fetched = false → exec (.attend p a) s = .next (settled s (afterPacket p (readQuery c j a d t)))) ∧
    (attendHost m.prm = false ∨ c.fetched = true → a.query.tagOk = true → bitOf a.query.nonce.toNat 95 = false → queryOk m d a = true →
      m.broken = false → lostAmong t m.ptrs = false → (m.slots.any fun x => ((findProfile t x).map (·.lost)).getD false) = false →
      attendSpent t j.tenant = false →
      exec (.attend p a) s = .next (settled s (afterPacket p (joinBatch c m a t))))) ∧
  (∀ (s t : State) (p : Packet) (a : AttendCloseParams) (c : Cmd) (j : Job) (m : Membership),
      Runs (.attendClose p a) (opLate 0x0603) p atOnce s c t → jobOf t c = some j → formOk p 8 [] true = true → a.reserved04 = 0 →
      resolveSession t j a.session = .ok m → m.closeSlot = none →
    exec (.attendClose p a) s = .next (settled s (afterPacket p (finishClose m.index
      (setMember m.index (fun m => { m with closeSlot := some c.slot }) (park c.slot .attendDrain t)))))) ∧
  (∀ (s : State) (batch : Nat) (b : Batch), findBatch s batch = some b → b.isOpen = true →
    exec (.gatherWindowExpiry batch) s = .next (settled s (closeBatch batch s)))

/-- Each cache control command that passes its checks acts on the blocks of its range, scope or tenant: EVICT asks the cores for
what leaves T1, and at depth 2 also T2, or purges at depth 3; PROMOTE moves what the tier lacks; HINT and the purges ask the
cores. Each replies at once or when its moves and the answers of the cores have come.
Readings and choices of the model in it: log entries 73 and 168. -/
def Obligations.CacheControlCommandsComplete : Prop :=
  (∀ (s t : State) (p : Packet) (a : RangeParams) (c : Cmd) (j : Job) (ptrs : List Nat),
      Runs (.evict p a) (opLate 0x0701) p atOnce s c t → jobOf t c = some j → formOk p 0x18 [] true = true → a.reserved16 = 0 →
      a.firstLayer = 0 → a.layerCount = 0 → a.opFlags = 0 → namedRange t j a = .ok ptrs →
    (a.opArg.toNat = 3 → exec (.evict p a) s = .next (settled s (afterPacket p (askEach c ptrs (fun x => .purge x (some c.slot)) t)))) ∧
    (∀ u v, 1 ≤ a.opArg.toNat → a.opArg.toNat ≤ 2 → u = (evictTodo t ptrs).foldl (fun w x => evictOne c.slot c.cls x w) t →
      v = (evictTodo2 u a.opArg.toNat ptrs).foldl (fun w x => evictOne2 c.slot c.cls x w) u →
      (evictTodo v ptrs = [] → evictTodo2 v a.opArg.toNat ptrs = [] → exec (.evict p a) s = .next (settled s (afterPacket p
        (done c (BitVec.ofNat 32 (((findCmd v c.slot).map (·.moved.length)).getD 0)) 0 v)))) ∧
      (evictTodo v ptrs ≠ [] ∨ evictTodo2 v a.opArg.toNat ptrs ≠ [] → exec (.evict p a) s = .next (settled s (afterPacket p
        (setCmd c.slot (fun c => { c with wait := .moves }) v)))))) ∧
  (∀ (s t : State) (p : Packet) (a : RangeParams) (c : Cmd) (j : Job) (ptrs : List Nat) (f n : Nat) (target : Tier) (todo : List (Nat × Nat)),
      Runs (.promote p a) (opLate 0x0702) p atOnce s c t → jobOf t c = some j → formOk p 0x18 [] true = true → a.reserved16 = 0 →
      bitsOf a.opFlags.toNat 1 7 = 0 → (a.opArg.toNat = 1 ∧ target = .t1) ∨ (a.opArg.toNat = 2 ∧ target = .t2) →
      namedRange t j a = .ok ptrs → promoteLayers a (((ptrs.head?.bind (findNode t)).map (·.layers)).getD 0) = some (f, n) →
      todo = promoteTodo t target f n ptrs →
    (bitOf a.opFlags.toNat 0 = true → exec (.promote p a) s = .next (settled s (afterPacket p (startPromotions (done c 0 0
      { t with tiers := { t.tiers with promoteQueue := t.tiers.promoteQueue ++ todo.map fun x => (x.1, x.2, target) } }))))) ∧
    (bitOf a.opFlags.toNat 0 = false → todo = [] → exec (.promote p a) s = .next (settled s (afterPacket p (done c 0 0 t)))) ∧
    (bitOf a.opFlags.toNat 0 = false → todo ≠ [] → exec (.promote p a) s = .next (settled s (afterPacket p
      (park c.slot .moves (promoteAll target (some c.slot) c.cls todo t)))))) ∧
  (∀ (s t : State) (p : Packet) (a : RangeParams) (c : Cmd) (j : Job) (ptrs : List Nat),
      Runs (.hint p a) (opLate 0x0703) p atOnce s c t → jobOf t c = some j → formOk p 0x18 [] true = true → a.reserved16 = 0 →
      a.firstLayer = 0 → a.layerCount = 0 → a.opFlags = 0 → a.opArg.toNat < 8 → a.opArg.toNat ≠ 0 →
      (bitOf a.opArg.toNat 0 && bitOf a.opArg.toNat 1) = false → namedRange t j a = .ok ptrs →
    exec (.hint p a) s = .next (settled s (afterPacket p (askEach c ptrs (fun x => .hint x c.slot a.opArg.toNat) t)))) ∧
  (∀ (s t : State) (p : Packet) (a : PurgeScopeParams) (c : Cmd) (j : Job),
      Runs (.purgeScope p a) (opLate 0x0704) p atOnce s c t → jobOf t c = some j → formOk p 8 [] true = true → a.reserved02 = 0 →
      scopeAllowed j a.scopeId = true →
    exec (.purgeScope p a) s = .next (settled s (afterPacket p (purge c (some a.scopeId) t)))) ∧
  (∀ (s t : State) (p : Packet) (c : Cmd), Runs (.purgeTenant p 0) (opLate 0x0705) p atOnce s c t → formOk p 8 [] true = true →
    exec (.purgeTenant p 0) s = .next (settled s (afterPacket p (purge c none t))))

/-- With fewer than 4 live epochs, a rotation opens the next epoch with its key and replies; a query replies with the live
epochs. -/
def Obligations.KeyRotationCompletes : Prop :=
  (∀ (s t : State) (p : Packet) (a : KeyRotateParams) (c : Cmd), Runs (.keyRotateOpen p a) (opEarly 0x0802) p atOnce s c t →
      formOk p 8 [] true = true → a.reserved01 = 0 → (epochsOf t c.tenant).newest + 1 - (epochsOf t c.tenant).oldest < 4 →
      (epochsOf t c.tenant).newest ≠ 0xFFFFFFFF →
    ∀ u, u = { tick (putEpochs { epochsOf t c.tenant with newest := (epochsOf t c.tenant).newest + 1 } t) with
               sec := { t.sec with memKeys := t.sec.memKeys ++ [(c.tenant, (epochsOf t c.tenant).newest + 1)] } } →
    exec (.keyRotateOpen p a) s
      = .next (settled s (afterPacket p (done c (rotateResults u c.tenant).1 (rotateResults u c.tenant).2 u)))) ∧
  (∀ (s t : State) (p : Packet) (a : KeyRotateParams) (c : Cmd), Runs (.keyRotateQuery p a) (opEarly 0x0802) p atOnce s c t →
      formOk p 8 [] true = true → a.reserved01 = 0 →
    exec (.keyRotateQuery p a) s
      = .next (settled s (afterPacket p (done c (rotateResults t c.tenant).1 (rotateResults t c.tenant).2 t))))

/-- A report, the counters of a set and the events asked for are answered with their payload; a valid token unlocks its scopes. The
window of the statistics before the first marker and RESULT1 of an empty ring are the model's own (log entries 41, 5).
Readings and choices of the model in it: log entries 91, 93, 95 and 104. -/
def Obligations.ReportsAndCountersRead : Prop :=
  (∀ (s t : State) (p : Packet) (a : AttestParams) (c : Cmd) (cap : Nat), Runs (.attest p a) (opBoth 0x0801) p atOnce s c t →
      formOk p 0x28 [kindReplyPayload] true = true → a.reserved21 = 0 → bitsOf a.atFlags.toNat 2 6 = 0 → reportsRefused t = false →
      (atJobClaims a && p.path == .mgmt) = false → c.payloadCap = some cap → 32 + attestLen a ≤ cap →
    exec (.attest p a) s = .next (settled s (afterPacket p (completeWith c (attestLen a) (attestLen a) 1
      (.report (reportOf (tick t) a (jobOf (tick t) c))) noFlags (BitVec.ofNat 32 (attestLen a)) (BitVec.ofNat 64 t.sec.resetGen)
      (tick t))))) ∧
  (∀ (s t : State) (p : Packet) (a : StatsParams) (c : Cmd) (rs : List CounterRec), Runs (.statsRead p a) (opBoth 0x0901) p atOnce s c t →
      formOk p 8 [kindReplyPayload] true = true → a.reserved01 = 0 → statsSet t p (jobOf t c) a.set = some rs →
    exec (.statsRead p a) s = .next (settled s (afterPacket p (completeWith c (16 + 16 * rs.length) 16 16
      (.stats (t.clk.window - 1) rs) noFlags (BitVec.ofNat 32 rs.length) 0 { t with free := t.free + 1 })))) ∧
  (∀ (s t : State) (p : Packet) (a : EventsParams) (c : Cmd) (e : EventRec), Runs (.eventsRead p a) (opBoth 0x0902) p atOnce s c t →
      formOk p 16 [kindReplyPayload] true = true → a.reserved0A = 0 → a.maxRecords ≠ 0 → a.maxRecords.toNat ≤ 4096 →
      t.clk.events.head? = some e →
    exec (.eventsRead p a) s = .next (settled s (afterPacket p (completeWith c (16 + 32 * (eventsFor t (jobOf t c) a).length) 16 32
      (.events (eventsFor t (jobOf t c) a)) noFlags (BitVec.ofNat 32 (entriesFit c (eventsFor t (jobOf t c) a).length 32))
      (BitVec.ofNat 64 e.slate) { t with free := t.free + 1 })))) ∧
  (∀ (s t : State) (p : Packet) (a : DebugUnlockParams) (c : Cmd), Runs (.debugUnlock p a) (opMgmt 0x0A0D false) p atOnce s c t →
      TurnHasCome t c →
      formOk p 1160 [] true = true → a.reserved02 = 0 → t.sec.transition = false → tokenFailure t a = none →
    exec (.debugUnlock p a) s = .next (settled s (afterPacket p (done c 0 0
      (commitRecord (fun r => { r with debugState := r.debugState ||| a.token.debugScope.toNat }) t)))))

/-- HOST_WINDOW_SET, TENANT_QUOTA_SET, CLASS_SET, WEAR_BUDGET_SET, SPLICE_ROUTE_SET in both forms and PORT_CONFIG write the record
and take effect (Table 18.4).
Readings and choices of the model in it: log entries 96, 100 and 104. -/
def Obligations.SettingsAreRecorded : Prop :=
  (∀ (s t : State) (p : Packet) (a : HostWindowParams) (c : Cmd), Runs (.hostWindowSet p a) (opMgmt 0x0A01 false) p atOnce s c t →
      formOk p 16 [] true = true → a.reserved01 = 0 → a.reserved08 = 0 → a.port.toNat ≤ 1 → a.granules.toNat ≤ 2048 →
      (findWindow t a.port.toNat).waitSlot = none → (findWindow t a.port.toNat).fenceFrom = none →
    (a.granules.toNat = (findWindow t a.port.toNat).granules →
      exec (.hostWindowSet p a) s = .next (settled s (afterPacket p (done c (BitVec.ofNat 32 a.granules.toNat) 0 t)))) ∧
    (a.granules.toNat < (findWindow t a.port.toNat).granules →
      exec (.hostWindowSet p a) s = .next (settled s (afterPacket p (shrinkWindow c a.port.toNat a.granules.toNat t)))) ∧
    ((findWindow t a.port.toNat).granules < a.granules.toNat →
      exec (.hostWindowSet p a) s = .next (settled s (afterPacket p (growWindow c a.port.toNat a.granules.toNat t))))) ∧
  (∀ (s t : State) (p : Packet) (a : QuotaSetParams) (c : Cmd), Runs (.tenantQuotaSet p a) (opMgmt 0x0A02 false) p atOnce s c t →
      formOk p 0x30 [] true = true → quotaForm a = true → findTenant t a.tenant.toNat ≠ none →
    exec (.tenantQuotaSet p a) s = .next (settled s (afterPacket p (done c 0 0
      (commitRecord (withTenant a.tenant.toNat fun e => { e with quotas := a.quotas }) t))))) ∧
  (∀ (s t : State) (p : Packet) (a : ClassSetParams) (c : Cmd), Runs (.classSet p a) (opMgmt 0x0A03 false) p atOnce s c t →
      formOk p 8 [] true = true → classForm a = true →
    (a.tenant = 0 → exec (.classSet p a) s = .next (settled s (afterPacket p (done c 0 0
      (commitRecord (fun r => { r with beFloor := a.beFloor.toNat, lcReserve := a.lcReserve.toNat }) t))))) ∧
    (a.tenant ≠ 0 → findTenant t a.tenant.toNat ≠ none → exec (.classSet p a) s = .next (settled s (afterPacket p (done c 0 0
      (commitRecord (withTenant a.tenant.toNat fun e => { e with policy := a.classPolicy.toNat }) t)))))) ∧
  (∀ (s t : State) (p : Packet) (a : WearBudgetParams) (c : Cmd), Runs (.wearBudgetSet p a) (opMgmt 0x0A08 false) p atOnce s c t →
      formOk p 8 [] true = true →
    exec (.wearBudgetSet p a) s = .next (settled s (afterPacket p (done c 0 0
      (commitRecord (fun r => { r with dailyBudget := a.dailyBudget.toNat }) t))))) ∧
  (∀ (s t : State) (p : Packet) (a : SpliceRouteParams) (c : Cmd), Runs (.spliceRouteWrite p a) (opMgmt 0x0A09 false) p atOnce s c t →
      formOk p 8 [] true = true → a.reserved06 = 0 → bitsOf a.rsFlags.toNat 1 7 = 0 → a.entry.toNat ≤ 63 → a.outPort.toNat ≤ 3 →
    exec (.spliceRouteWrite p a) s = .next (settled s (afterPacket p (done c 0 0 (commitRecord (fun x => { x with
      routes := x.routes.set a.entry.toNat
        { dest := a.destDevice.toNat, outPort := a.outPort.toNat, valid := bitOf a.rsFlags.toNat 0 } }) t))))) ∧
  (∀ (s t : State) (p : Packet) (a : SpliceRouteParams) (c : Cmd), Runs (.spliceDeviceNumberSet p a) (opMgmt 0x0A09 false) p atOnce s c t →
      formOk p 8 [] true = true → a.reserved06 = 0 → bitsOf a.rsFlags.toNat 1 7 = 0 → a.entry = 0 → a.outPort = 0 →
      a.destDevice.toNat ≠ 0 → a.destDevice.toNat ≠ 0xFFFF → a.destDevice.toNat ≠ t.cfg.deviceNumber →
    exec (.spliceDeviceNumberSet p a) s = .next (settled s (afterPacket p (done c 0 0 (bringUpAll
      ((List.range 4).foldl (fun u i => spliceDown i 1 u) (commitRecord (fun r => { r with deviceNumber := a.destDevice.toNat }) t))))))) ∧
  (∀ (s t : State) (p : Packet) (a : PortConfigParams) (c : Cmd), Runs (.portConfig p a) (opMgmt 0x0A07 false) p atOnce s c t →
      formOk p 8 [] true = true → portForm a = true →
    (portCfg t a.portKind.toNat a.port.toNat = portBlock a →
      exec (.portConfig p a) s = .next (settled s (afterPacket p (done c 0 0 t)))) ∧
    (portCfg t a.portKind.toNat a.port.toNat ≠ portBlock a → a.portKind.toNat ≠ 4 →
      exec (.portConfig p a) s = .next (settled s (afterPacket p (done c 0 0 (resetPort a.portKind.toNat a.port.toNat
        (if a.pcFlags.toNat % 2 == 1 then 2 else 3)
        (commitRecord (fun r => { r with ports := r.ports.set (portIndex a.portKind.toNat a.port.toNat) (portBlock a) }) t)))))) ∧
    (portCfg t a.portKind.toNat a.port.toNat ≠ portBlock a → a.portKind.toNat = 4 →
      exec (.portConfig p a) s = .next (settled s (afterPacket p (resetPort 4 a.port.toNat (if a.pcFlags.toNat % 2 == 1 then 2 else 3)
        (done c 0 0 (commitRecord (fun r => { r with ports := r.ports.set (portIndex 4 a.port.toNat) (portBlock a) }) t)))))))

/-- SPARE_MAP in both forms, FW_STAGE, FW_ACTIVATE, DEVICE_RESET in its three forms, TENANT_REGISTER and TENANT_REMOVE act when
their turn has come (R488), and the last removal ends when its jobs have gone.
Readings and choices of the model in it: log entries 50, 56, 57, 65, 69, 90, 92, 95, 97, 98, 104 and 110. -/
def Obligations.MaintenanceCommandsComplete : Prop :=
  (∀ (s t : State) (p : Packet) (a : SpareMapParams) (c : Cmd), Runs (.spareMapRead p a) (opMgmt 0x0A04 true) p atOnce s c t →
      formOk p 16 [kindReplyPayload] true = true → a.reserved02 = 0 → a.reserved08 = 0 → a.unitKind = 0 → a.unit = 0 →
    exec (.spareMapRead p a) s = .next (settled s (afterPacket p (completeWith c (16 + 16 * t.faults.spareMap.length) 16 16
      (.spareMap ((List.range 5).map fun k => sparesLeft t (k + 1)) t.faults.spareMap) noFlags
      (BitVec.ofNat 32 (entriesFit c t.faults.spareMap.length 16)) 0 t)))) ∧
  (∀ (s t : State) (p : Packet) (a : SpareMapParams) (c : Cmd) (u : State), Runs (.spareMapRetire p a) (opMgmt 0x0A04 false) p atOnce s c t →
      TurnHasCome t c →
      formOk p 16 [] true = true → a.reserved02 = 0 → a.reserved08 = 0 → 1 ≤ a.unitKind.toNat → a.unitKind.toNat ≤ 5 →
      unitActive t a.unitKind.toNat a.unit.toNat = true → u = mapSpare a.unitKind.toNat 3 a.unit.toNat t →
    exec (.spareMapRetire p a) s = .next (settled s (afterPacket p (done c
      (BitVec.ofNat 32 ((u.faults.spareMap.getLast?.bind fun l => l.spare).getD 0xFFFFFFFF))
      (BitVec.ofNat 64 (sparesLeft u a.unitKind.toNat)) u)))) ∧
  (∀ (s t : State) (p : Packet) (a : FwStageParams) (c : Cmd), Runs (.fwStage p a) (opMgmt 0x0A05 false) p atOnce s c t →
      TurnHasCome t c →
      formOk p 0x48 [kindFirmware] true = true → a.reserved04 = 0 → a.imageLen.toNat ≤ slotBytes →
      a.imageLen.toNat = descBytes kindFirmware p →
      a.image.imageDigest = a.imageDigest → imageForm a.image = true → imageFailure t.boot.fuses a.image = none →
    exec (.fwStage p a) s = .next (settled s (afterPacket p (done c (BitVec.ofNat 32 (inactiveSlot t.boot)) 0
      { t with boot := { withSlot (inactiveSlot t.boot) (some a.image) (withSlot (inactiveSlot t.boot) none t.boot) with
        staged := some (inactiveSlot t.boot, a.imageDigest) } })))) ∧
  (∀ (s t : State) (p : Packet) (a : FwActivateParams) (c : Cmd) (d : Digest), Runs (.fwActivate p a) (opMgmt 0x0A06 false) p atOnce s c t →
      TurnHasCome t c →
      formOk p 8 [] true = true → a.reserved02 = 0 → bitsOf a.faFlags.toNat 1 7 = 0 → t.boot.staged = some (a.slot.toNat, d) →
      t.sec.transition = false →
    exec (.fwActivate p a) s = .next (settled s (afterPacket p (clearCompute (setFuncEvent 4
      (park c.slot .reset { t with sec := { t.sec with activation := some c.slot } })))))) ∧
  (∀ (s t : State) (p : Packet) (a : DeviceResetParams) (c : Cmd),
      TurnHasCome t c →
      formOk p 8 [] true = true → a.reserved03 = 0 →
    (Runs (.deviceResetCompute p a) (opMgmt 0x0A0A false) p atOnce s c t → a.portKind = 0 → a.port = 0 → t.sec.transition = false →
      exec (.deviceResetCompute p a) s = .next (settled s (afterPacket p (finishCompute (clearCompute (setFuncEvent 4
        { t with sec := { t.sec with resetSlots := t.sec.resetSlots ++ [c.slot] } })))))) ∧
    (Runs (.deviceResetFull p a) (opMgmt 0x0A0A false) p atOnce s c t → a.portKind = 0 → a.port = 0 →
      exec (.deviceResetFull p a) s = .next (settled s (afterPacket p (flushOrReset 6 (done c 0 0 t))))) ∧
    (Runs (.deviceResetPort p a) (opMgmt 0x0A0A false) p atOnce s c t → portExists a.portKind.toNat a.port.toNat = true →
      exec (.deviceResetPort p a) s = .next (settled s (afterPacket p (done c 0 0 (resetPort a.portKind.toNat a.port.toNat 3 t)))))) ∧
  (∀ (s t : State) (p : Packet) (a : TenantRegisterParams) (c : Cmd), Runs (.tenantRegister p a) (opMgmt 0x0A0B false) p atOnce s c t →
      TurnHasCome t c →
      c.phase = 0 → formOk p 0x208 [] true = true → registerForm a = true → tenantJobs t a.tenant.toNat = 0 →
      regGenOf t a.tenant.toNat ≠ 0xFFFFFFFF →
    ∀ u, u = commitRecord (fun r => withTenant a.tenant.toNat
        (fun e => { e with registered := true, regGen := e.regGen + 1, keyDigest := modulusDigest a.modulus a.pubExponent })
        (addTenant a.tenant.toNat r)) t →
    exec (.tenantRegister p a) s = .next (settled s (afterPacket p (endRegister c a.tenant.toNat (setCmd c.slot (fun c => { c with phase := 1 })
      (if ((findTenant t a.tenant.toNat).map (·.registered)).getD false then askSweep a.tenant.toNat u else u)))))) ∧
  (∀ (s t : State) (p : Packet) (a : TenantRemoveParams) (c : Cmd),
      Runs (.tenantRemove p a) (opMgmt 0x0A0C false) p (removeAccept p a) s c t →
      TurnHasCome t c →
      c.phase = 0 → removeForm t p a = true →
    (tenantJobs t a.tenant.toNat = 0 →
      exec (.tenantRemove p a) s = .next (settled s (afterPacket p (removeTenant c a.tenant.toNat t)))) ∧
    (tenantJobs t a.tenant.toNat ≠ 0 → forced a = true →
      exec (.tenantRemove p a) s = .next (settled s (afterPacket p (goOn
        ((t.jobs.table.filter fun j => j.tenant == a.tenant.toNat && !j.closing).foldl (fun u j => startClose j.index none u)
          (park c.slot .jobDrain t))))))) ∧
  (∀ (s : State) (tenant : BitVec 12) (c : Cmd), removalOf s tenant.toNat = some c → tenantJobs s tenant.toNat = 0 →
    exec (.tenantRemoveComplete tenant) s = .next (settled s (removeTenant c tenant.toNat s)))

end
end

