-- ==== Sys2Proof/Laws/State.lean ====
section
/-! SUPPORT. What each named update of the state leaves as it was: one lemma a field, so that no proof unfolds a record update. -/
namespace Sys2Proof.Machine

/-! ## emit -/

@[simp] theorem emit_pending (o : Output) (s : State) : (emit o s).pending = s.pending := rfl
@[simp] theorem emit_free (o : Output) (s : State) : (emit o s).free = s.free := rfl
@[simp] theorem emit_clk (o : Output) (s : State) : (emit o s).clk = s.clk := rfl
@[simp] theorem emit_power (o : Output) (s : State) : (emit o s).power = s.power := rfl
@[simp] theorem emit_boot (o : Output) (s : State) : (emit o s).boot = s.boot := rfl
@[simp] theorem emit_sec (o : Output) (s : State) : (emit o s).sec = s.sec := rfl
@[simp] theorem emit_cfg (o : Output) (s : State) : (emit o s).cfg = s.cfg := rfl
@[simp] theorem emit_persist (o : Output) (s : State) : (emit o s).persist = s.persist := rfl
@[simp] theorem emit_jobs (o : Output) (s : State) : (emit o s).jobs = s.jobs := rfl
@[simp] theorem emit_index (o : Output) (s : State) : (emit o s).index = s.index := rfl
@[simp] theorem emit_marr (o : Output) (s : State) : (emit o s).marr = s.marr := rfl
@[simp] theorem emit_tiers (o : Output) (s : State) : (emit o s).tiers = s.tiers := rfl
@[simp] theorem emit_eng (o : Output) (s : State) : (emit o s).eng = s.eng := rfl
@[simp] theorem emit_flash (o : Output) (s : State) : (emit o s).flash = s.flash := rfl
@[simp] theorem emit_net (o : Output) (s : State) : (emit o s).net = s.net := rfl
@[simp] theorem emit_host (o : Output) (s : State) : (emit o s).host = s.host := rfl
@[simp] theorem emit_mgmt (o : Output) (s : State) : (emit o s).mgmt = s.mgmt := rfl
@[simp] theorem emit_splice (o : Output) (s : State) : (emit o s).splice = s.splice := rfl
@[simp] theorem emit_faults (o : Output) (s : State) : (emit o s).faults = s.faults := rfl

/-! ## tick -/

@[simp] theorem tick_pending (s : State) : (tick s).pending = s.pending := rfl
@[simp] theorem tick_out (s : State) : (tick s).out = s.out := rfl
@[simp] theorem tick_free (s : State) : (tick s).free = s.free := rfl
@[simp] theorem tick_power (s : State) : (tick s).power = s.power := rfl
@[simp] theorem tick_boot (s : State) : (tick s).boot = s.boot := rfl
@[simp] theorem tick_sec (s : State) : (tick s).sec = s.sec := rfl
@[simp] theorem tick_cfg (s : State) : (tick s).cfg = s.cfg := rfl
@[simp] theorem tick_persist (s : State) : (tick s).persist = s.persist := rfl
@[simp] theorem tick_jobs (s : State) : (tick s).jobs = s.jobs := rfl
@[simp] theorem tick_index (s : State) : (tick s).index = s.index := rfl
@[simp] theorem tick_marr (s : State) : (tick s).marr = s.marr := rfl
@[simp] theorem tick_tiers (s : State) : (tick s).tiers = s.tiers := rfl
@[simp] theorem tick_eng (s : State) : (tick s).eng = s.eng := rfl
@[simp] theorem tick_flash (s : State) : (tick s).flash = s.flash := rfl
@[simp] theorem tick_net (s : State) : (tick s).net = s.net := rfl
@[simp] theorem tick_host (s : State) : (tick s).host = s.host := rfl
@[simp] theorem tick_mgmt (s : State) : (tick s).mgmt = s.mgmt := rfl
@[simp] theorem tick_splice (s : State) : (tick s).splice = s.splice := rfl
@[simp] theorem tick_faults (s : State) : (tick s).faults = s.faults := rfl
@[simp] theorem tick_clk_window (s : State) : (tick s).clk.window = s.clk.window := rfl
@[simp] theorem tick_clk_events (s : State) : (tick s).clk.events = s.clk.events := rfl
@[simp] theorem tick_clk_overwritten (s : State) : (tick s).clk.overwritten = s.clk.overwritten := rfl
@[simp] theorem tick_clk_stats (s : State) : (tick s).clk.stats = s.clk.stats := rfl

/-! ## setPower -/

@[simp] theorem setPower_pending (f : Power → Power) (s : State) : (setPower f s).pending = s.pending := rfl
@[simp] theorem setPower_out (f : Power → Power) (s : State) : (setPower f s).out = s.out := rfl
@[simp] theorem setPower_free (f : Power → Power) (s : State) : (setPower f s).free = s.free := rfl
@[simp] theorem setPower_clk (f : Power → Power) (s : State) : (setPower f s).clk = s.clk := rfl
@[simp] theorem setPower_boot (f : Power → Power) (s : State) : (setPower f s).boot = s.boot := rfl
@[simp] theorem setPower_sec (f : Power → Power) (s : State) : (setPower f s).sec = s.sec := rfl
@[simp] theorem setPower_cfg (f : Power → Power) (s : State) : (setPower f s).cfg = s.cfg := rfl
@[simp] theorem setPower_persist (f : Power → Power) (s : State) : (setPower f s).persist = s.persist := rfl
@[simp] theorem setPower_jobs (f : Power → Power) (s : State) : (setPower f s).jobs = s.jobs := rfl
@[simp] theorem setPower_index (f : Power → Power) (s : State) : (setPower f s).index = s.index := rfl
@[simp] theorem setPower_marr (f : Power → Power) (s : State) : (setPower f s).marr = s.marr := rfl
@[simp] theorem setPower_tiers (f : Power → Power) (s : State) : (setPower f s).tiers = s.tiers := rfl
@[simp] theorem setPower_eng (f : Power → Power) (s : State) : (setPower f s).eng = s.eng := rfl
@[simp] theorem setPower_flash (f : Power → Power) (s : State) : (setPower f s).flash = s.flash := rfl
@[simp] theorem setPower_net (f : Power → Power) (s : State) : (setPower f s).net = s.net := rfl
@[simp] theorem setPower_host (f : Power → Power) (s : State) : (setPower f s).host = s.host := rfl
@[simp] theorem setPower_mgmt (f : Power → Power) (s : State) : (setPower f s).mgmt = s.mgmt := rfl
@[simp] theorem setPower_splice (f : Power → Power) (s : State) : (setPower f s).splice = s.splice := rfl
@[simp] theorem setPower_faults (f : Power → Power) (s : State) : (setPower f s).faults = s.faults := rfl

/-! ## setJob -/

@[simp] theorem setJob_pending (j : Nat) (f : Job → Job) (s : State) : (setJob j f s).pending = s.pending := rfl
@[simp] theorem setJob_out (j : Nat) (f : Job → Job) (s : State) : (setJob j f s).out = s.out := rfl
@[simp] theorem setJob_free (j : Nat) (f : Job → Job) (s : State) : (setJob j f s).free = s.free := rfl
@[simp] theorem setJob_clk (j : Nat) (f : Job → Job) (s : State) : (setJob j f s).clk = s.clk := rfl
@[simp] theorem setJob_power (j : Nat) (f : Job → Job) (s : State) : (setJob j f s).power = s.power := rfl
@[simp] theorem setJob_boot (j : Nat) (f : Job → Job) (s : State) : (setJob j f s).boot = s.boot := rfl
@[simp] theorem setJob_sec (j : Nat) (f : Job → Job) (s : State) : (setJob j f s).sec = s.sec := rfl
@[simp] theorem setJob_cfg (j : Nat) (f : Job → Job) (s : State) : (setJob j f s).cfg = s.cfg := rfl
@[simp] theorem setJob_persist (j : Nat) (f : Job → Job) (s : State) : (setJob j f s).persist = s.persist := rfl
@[simp] theorem setJob_index (j : Nat) (f : Job → Job) (s : State) : (setJob j f s).index = s.index := rfl
@[simp] theorem setJob_marr (j : Nat) (f : Job → Job) (s : State) : (setJob j f s).marr = s.marr := rfl
@[simp] theorem setJob_tiers (j : Nat) (f : Job → Job) (s : State) : (setJob j f s).tiers = s.tiers := rfl
@[simp] theorem setJob_eng (j : Nat) (f : Job → Job) (s : State) : (setJob j f s).eng = s.eng := rfl
@[simp] theorem setJob_flash (j : Nat) (f : Job → Job) (s : State) : (setJob j f s).flash = s.flash := rfl
@[simp] theorem setJob_net (j : Nat) (f : Job → Job) (s : State) : (setJob j f s).net = s.net := rfl
@[simp] theorem setJob_host (j : Nat) (f : Job → Job) (s : State) : (setJob j f s).host = s.host := rfl
@[simp] theorem setJob_mgmt (j : Nat) (f : Job → Job) (s : State) : (setJob j f s).mgmt = s.mgmt := rfl
@[simp] theorem setJob_splice (j : Nat) (f : Job → Job) (s : State) : (setJob j f s).splice = s.splice := rfl
@[simp] theorem setJob_faults (j : Nat) (f : Job → Job) (s : State) : (setJob j f s).faults = s.faults := rfl
@[simp] theorem setJob_jobs_pool (j : Nat) (f : Job → Job) (s : State) : (setJob j f s).jobs.pool = s.jobs.pool := rfl
@[simp] theorem setJob_jobs_lanes (j : Nat) (f : Job → Job) (s : State) : (setJob j f s).jobs.lanes = s.jobs.lanes := rfl
@[simp] theorem setJob_jobs_cmds (j : Nat) (f : Job → Job) (s : State) : (setJob j f s).jobs.cmds = s.jobs.cmds := rfl
@[simp] theorem setJob_jobs_slotsFree (j : Nat) (f : Job → Job) (s : State) : (setJob j f s).jobs.slotsFree = s.jobs.slotsFree := rfl
@[simp] theorem setJob_jobs_use (j : Nat) (f : Job → Job) (s : State) : (setJob j f s).jobs.use = s.jobs.use := rfl
@[simp] theorem setJob_jobs_liveBeFloor (j : Nat) (f : Job → Job) (s : State) : (setJob j f s).jobs.liveBeFloor = s.jobs.liveBeFloor := rfl
@[simp] theorem setJob_jobs_scopeSnap (j : Nat) (f : Job → Job) (s : State) : (setJob j f s).jobs.scopeSnap = s.jobs.scopeSnap := rfl

/-! ## setCmd -/

@[simp] theorem setCmd_pending (c : Nat) (f : Cmd → Cmd) (s : State) : (setCmd c f s).pending = s.pending := rfl
@[simp] theorem setCmd_out (c : Nat) (f : Cmd → Cmd) (s : State) : (setCmd c f s).out = s.out := rfl
@[simp] theorem setCmd_free (c : Nat) (f : Cmd → Cmd) (s : State) : (setCmd c f s).free = s.free := rfl
@[simp] theorem setCmd_clk (c : Nat) (f : Cmd → Cmd) (s : State) : (setCmd c f s).clk = s.clk := rfl
@[simp] theorem setCmd_power (c : Nat) (f : Cmd → Cmd) (s : State) : (setCmd c f s).power = s.power := rfl
@[simp] theorem setCmd_boot (c : Nat) (f : Cmd → Cmd) (s : State) : (setCmd c f s).boot = s.boot := rfl
@[simp] theorem setCmd_sec (c : Nat) (f : Cmd → Cmd) (s : State) : (setCmd c f s).sec = s.sec := rfl
@[simp] theorem setCmd_cfg (c : Nat) (f : Cmd → Cmd) (s : State) : (setCmd c f s).cfg = s.cfg := rfl
@[simp] theorem setCmd_persist (c : Nat) (f : Cmd → Cmd) (s : State) : (setCmd c f s).persist = s.persist := rfl
@[simp] theorem setCmd_index (c : Nat) (f : Cmd → Cmd) (s : State) : (setCmd c f s).index = s.index := rfl
@[simp] theorem setCmd_marr (c : Nat) (f : Cmd → Cmd) (s : State) : (setCmd c f s).marr = s.marr := rfl
@[simp] theorem setCmd_tiers (c : Nat) (f : Cmd → Cmd) (s : State) : (setCmd c f s).tiers = s.tiers := rfl
@[simp] theorem setCmd_eng (c : Nat) (f : Cmd → Cmd) (s : State) : (setCmd c f s).eng = s.eng := rfl
@[simp] theorem setCmd_flash (c : Nat) (f : Cmd → Cmd) (s : State) : (setCmd c f s).flash = s.flash := rfl
@[simp] theorem setCmd_net (c : Nat) (f : Cmd → Cmd) (s : State) : (setCmd c f s).net = s.net := rfl
@[simp] theorem setCmd_host (c : Nat) (f : Cmd → Cmd) (s : State) : (setCmd c f s).host = s.host := rfl
@[simp] theorem setCmd_mgmt (c : Nat) (f : Cmd → Cmd) (s : State) : (setCmd c f s).mgmt = s.mgmt := rfl
@[simp] theorem setCmd_splice (c : Nat) (f : Cmd → Cmd) (s : State) : (setCmd c f s).splice = s.splice := rfl
@[simp] theorem setCmd_faults (c : Nat) (f : Cmd → Cmd) (s : State) : (setCmd c f s).faults = s.faults := rfl
@[simp] theorem setCmd_jobs_table (c : Nat) (f : Cmd → Cmd) (s : State) : (setCmd c f s).jobs.table = s.jobs.table := rfl
@[simp] theorem setCmd_jobs_pool (c : Nat) (f : Cmd → Cmd) (s : State) : (setCmd c f s).jobs.pool = s.jobs.pool := rfl
@[simp] theorem setCmd_jobs_lanes (c : Nat) (f : Cmd → Cmd) (s : State) : (setCmd c f s).jobs.lanes = s.jobs.lanes := rfl
@[simp] theorem setCmd_jobs_slotsFree (c : Nat) (f : Cmd → Cmd) (s : State) : (setCmd c f s).jobs.slotsFree = s.jobs.slotsFree := rfl
@[simp] theorem setCmd_jobs_use (c : Nat) (f : Cmd → Cmd) (s : State) : (setCmd c f s).jobs.use = s.jobs.use := rfl
@[simp] theorem setCmd_jobs_liveBeFloor (c : Nat) (f : Cmd → Cmd) (s : State) : (setCmd c f s).jobs.liveBeFloor = s.jobs.liveBeFloor := rfl
@[simp] theorem setCmd_jobs_scopeSnap (c : Nat) (f : Cmd → Cmd) (s : State) : (setCmd c f s).jobs.scopeSnap = s.jobs.scopeSnap := rfl

/-! ## setUse -/

@[simp] theorem setUse_pending (t : Nat) (f : TenantUse → TenantUse) (s : State) : (setUse t f s).pending = s.pending := rfl
@[simp] theorem setUse_out (t : Nat) (f : TenantUse → TenantUse) (s : State) : (setUse t f s).out = s.out := rfl
@[simp] theorem setUse_free (t : Nat) (f : TenantUse → TenantUse) (s : State) : (setUse t f s).free = s.free := rfl
@[simp] theorem setUse_clk (t : Nat) (f : TenantUse → TenantUse) (s : State) : (setUse t f s).clk = s.clk := rfl
@[simp] theorem setUse_power (t : Nat) (f : TenantUse → TenantUse) (s : State) : (setUse t f s).power = s.power := rfl
@[simp] theorem setUse_boot (t : Nat) (f : TenantUse → TenantUse) (s : State) : (setUse t f s).boot = s.boot := rfl
@[simp] theorem setUse_sec (t : Nat) (f : TenantUse → TenantUse) (s : State) : (setUse t f s).sec = s.sec := rfl
@[simp] theorem setUse_cfg (t : Nat) (f : TenantUse → TenantUse) (s : State) : (setUse t f s).cfg = s.cfg := rfl
@[simp] theorem setUse_persist (t : Nat) (f : TenantUse → TenantUse) (s : State) : (setUse t f s).persist = s.persist := rfl
@[simp] theorem setUse_index (t : Nat) (f : TenantUse → TenantUse) (s : State) : (setUse t f s).index = s.index := rfl
@[simp] theorem setUse_marr (t : Nat) (f : TenantUse → TenantUse) (s : State) : (setUse t f s).marr = s.marr := rfl
@[simp] theorem setUse_tiers (t : Nat) (f : TenantUse → TenantUse) (s : State) : (setUse t f s).tiers = s.tiers := rfl
@[simp] theorem setUse_eng (t : Nat) (f : TenantUse → TenantUse) (s : State) : (setUse t f s).eng = s.eng := rfl
@[simp] theorem setUse_flash (t : Nat) (f : TenantUse → TenantUse) (s : State) : (setUse t f s).flash = s.flash := rfl
@[simp] theorem setUse_net (t : Nat) (f : TenantUse → TenantUse) (s : State) : (setUse t f s).net = s.net := rfl
@[simp] theorem setUse_host (t : Nat) (f : TenantUse → TenantUse) (s : State) : (setUse t f s).host = s.host := rfl
@[simp] theorem setUse_mgmt (t : Nat) (f : TenantUse → TenantUse) (s : State) : (setUse t f s).mgmt = s.mgmt := rfl
@[simp] theorem setUse_splice (t : Nat) (f : TenantUse → TenantUse) (s : State) : (setUse t f s).splice = s.splice := rfl
@[simp] theorem setUse_faults (t : Nat) (f : TenantUse → TenantUse) (s : State) : (setUse t f s).faults = s.faults := rfl
@[simp] theorem setUse_jobs_table (t : Nat) (f : TenantUse → TenantUse) (s : State) : (setUse t f s).jobs.table = s.jobs.table := rfl
@[simp] theorem setUse_jobs_pool (t : Nat) (f : TenantUse → TenantUse) (s : State) : (setUse t f s).jobs.pool = s.jobs.pool := rfl
@[simp] theorem setUse_jobs_lanes (t : Nat) (f : TenantUse → TenantUse) (s : State) : (setUse t f s).jobs.lanes = s.jobs.lanes := rfl
@[simp] theorem setUse_jobs_cmds (t : Nat) (f : TenantUse → TenantUse) (s : State) : (setUse t f s).jobs.cmds = s.jobs.cmds := rfl
@[simp] theorem setUse_jobs_slotsFree (t : Nat) (f : TenantUse → TenantUse) (s : State) : (setUse t f s).jobs.slotsFree = s.jobs.slotsFree := rfl
@[simp] theorem setUse_jobs_liveBeFloor (t : Nat) (f : TenantUse → TenantUse) (s : State) : (setUse t f s).jobs.liveBeFloor = s.jobs.liveBeFloor := rfl
@[simp] theorem setUse_jobs_scopeSnap (t : Nat) (f : TenantUse → TenantUse) (s : State) : (setUse t f s).jobs.scopeSnap = s.jobs.scopeSnap := rfl

/-! ## setRecord -/

@[simp] theorem setRecord_pending (r : Nat) (f : PinRecord → PinRecord) (s : State) : (setRecord r f s).pending = s.pending := rfl
@[simp] theorem setRecord_out (r : Nat) (f : PinRecord → PinRecord) (s : State) : (setRecord r f s).out = s.out := rfl
@[simp] theorem setRecord_free (r : Nat) (f : PinRecord → PinRecord) (s : State) : (setRecord r f s).free = s.free := rfl
@[simp] theorem setRecord_clk (r : Nat) (f : PinRecord → PinRecord) (s : State) : (setRecord r f s).clk = s.clk := rfl
@[simp] theorem setRecord_power (r : Nat) (f : PinRecord → PinRecord) (s : State) : (setRecord r f s).power = s.power := rfl
@[simp] theorem setRecord_boot (r : Nat) (f : PinRecord → PinRecord) (s : State) : (setRecord r f s).boot = s.boot := rfl
@[simp] theorem setRecord_sec (r : Nat) (f : PinRecord → PinRecord) (s : State) : (setRecord r f s).sec = s.sec := rfl
@[simp] theorem setRecord_cfg (r : Nat) (f : PinRecord → PinRecord) (s : State) : (setRecord r f s).cfg = s.cfg := rfl
@[simp] theorem setRecord_persist (r : Nat) (f : PinRecord → PinRecord) (s : State) : (setRecord r f s).persist = s.persist := rfl
@[simp] theorem setRecord_jobs (r : Nat) (f : PinRecord → PinRecord) (s : State) : (setRecord r f s).jobs = s.jobs := rfl
@[simp] theorem setRecord_marr (r : Nat) (f : PinRecord → PinRecord) (s : State) : (setRecord r f s).marr = s.marr := rfl
@[simp] theorem setRecord_tiers (r : Nat) (f : PinRecord → PinRecord) (s : State) : (setRecord r f s).tiers = s.tiers := rfl
@[simp] theorem setRecord_eng (r : Nat) (f : PinRecord → PinRecord) (s : State) : (setRecord r f s).eng = s.eng := rfl
@[simp] theorem setRecord_flash (r : Nat) (f : PinRecord → PinRecord) (s : State) : (setRecord r f s).flash = s.flash := rfl
@[simp] theorem setRecord_net (r : Nat) (f : PinRecord → PinRecord) (s : State) : (setRecord r f s).net = s.net := rfl
@[simp] theorem setRecord_host (r : Nat) (f : PinRecord → PinRecord) (s : State) : (setRecord r f s).host = s.host := rfl
@[simp] theorem setRecord_mgmt (r : Nat) (f : PinRecord → PinRecord) (s : State) : (setRecord r f s).mgmt = s.mgmt := rfl
@[simp] theorem setRecord_splice (r : Nat) (f : PinRecord → PinRecord) (s : State) : (setRecord r f s).splice = s.splice := rfl
@[simp] theorem setRecord_faults (r : Nat) (f : PinRecord → PinRecord) (s : State) : (setRecord r f s).faults = s.faults := rfl
@[simp] theorem setRecord_index_capacity (r : Nat) (f : PinRecord → PinRecord) (s : State) : (setRecord r f s).index.capacity = s.index.capacity := rfl
@[simp] theorem setRecord_index_nodes (r : Nat) (f : PinRecord → PinRecord) (s : State) : (setRecord r f s).index.nodes = s.index.nodes := rfl
@[simp] theorem setRecord_index_nextRun (r : Nat) (f : PinRecord → PinRecord) (s : State) : (setRecord r f s).index.nextRun = s.index.nextRun := rfl
@[simp] theorem setRecord_index_recordPool (r : Nat) (f : PinRecord → PinRecord) (s : State) : (setRecord r f s).index.recordPool = s.index.recordPool := rfl
@[simp] theorem setRecord_index_slivers (r : Nat) (f : PinRecord → PinRecord) (s : State) : (setRecord r f s).index.slivers = s.index.slivers := rfl
@[simp] theorem setRecord_index_dropsInFlight (r : Nat) (f : PinRecord → PinRecord) (s : State) : (setRecord r f s).index.dropsInFlight = s.index.dropsInFlight := rfl
@[simp] theorem setRecord_index_lookups (r : Nat) (f : PinRecord → PinRecord) (s : State) : (setRecord r f s).index.lookups = s.index.lookups := rfl
@[simp] theorem setRecord_index_continuations (r : Nat) (f : PinRecord → PinRecord) (s : State) : (setRecord r f s).index.continuations = s.index.continuations := rfl
@[simp] theorem setRecord_index_nextLookup (r : Nat) (f : PinRecord → PinRecord) (s : State) : (setRecord r f s).index.nextLookup = s.index.nextLookup := rfl
@[simp] theorem setRecord_index_remote (r : Nat) (f : PinRecord → PinRecord) (s : State) : (setRecord r f s).index.remote = s.index.remote := rfl
@[simp] theorem setRecord_index_journalBuf (r : Nat) (f : PinRecord → PinRecord) (s : State) : (setRecord r f s).index.journalBuf = s.index.journalBuf := rfl
@[simp] theorem setRecord_index_recovering (r : Nat) (f : PinRecord → PinRecord) (s : State) : (setRecord r f s).index.recovering = s.index.recovering := rfl
@[simp] theorem setRecord_index_replayLeft (r : Nat) (f : PinRecord → PinRecord) (s : State) : (setRecord r f s).index.replayLeft = s.index.replayLeft := rfl

/-! ## setNode -/

@[simp] theorem setNode_pending (ptr : Nat) (f : Node → Node) (s : State) : (setNode ptr f s).pending = s.pending := rfl
@[simp] theorem setNode_out (ptr : Nat) (f : Node → Node) (s : State) : (setNode ptr f s).out = s.out := rfl
@[simp] theorem setNode_free (ptr : Nat) (f : Node → Node) (s : State) : (setNode ptr f s).free = s.free := rfl
@[simp] theorem setNode_clk (ptr : Nat) (f : Node → Node) (s : State) : (setNode ptr f s).clk = s.clk := rfl
@[simp] theorem setNode_power (ptr : Nat) (f : Node → Node) (s : State) : (setNode ptr f s).power = s.power := rfl
@[simp] theorem setNode_boot (ptr : Nat) (f : Node → Node) (s : State) : (setNode ptr f s).boot = s.boot := rfl
@[simp] theorem setNode_sec (ptr : Nat) (f : Node → Node) (s : State) : (setNode ptr f s).sec = s.sec := rfl
@[simp] theorem setNode_cfg (ptr : Nat) (f : Node → Node) (s : State) : (setNode ptr f s).cfg = s.cfg := rfl
@[simp] theorem setNode_persist (ptr : Nat) (f : Node → Node) (s : State) : (setNode ptr f s).persist = s.persist := rfl
@[simp] theorem setNode_jobs (ptr : Nat) (f : Node → Node) (s : State) : (setNode ptr f s).jobs = s.jobs := rfl
@[simp] theorem setNode_marr (ptr : Nat) (f : Node → Node) (s : State) : (setNode ptr f s).marr = s.marr := rfl
@[simp] theorem setNode_tiers (ptr : Nat) (f : Node → Node) (s : State) : (setNode ptr f s).tiers = s.tiers := rfl
@[simp] theorem setNode_eng (ptr : Nat) (f : Node → Node) (s : State) : (setNode ptr f s).eng = s.eng := rfl
@[simp] theorem setNode_flash (ptr : Nat) (f : Node → Node) (s : State) : (setNode ptr f s).flash = s.flash := rfl
@[simp] theorem setNode_net (ptr : Nat) (f : Node → Node) (s : State) : (setNode ptr f s).net = s.net := rfl
@[simp] theorem setNode_host (ptr : Nat) (f : Node → Node) (s : State) : (setNode ptr f s).host = s.host := rfl
@[simp] theorem setNode_mgmt (ptr : Nat) (f : Node → Node) (s : State) : (setNode ptr f s).mgmt = s.mgmt := rfl
@[simp] theorem setNode_splice (ptr : Nat) (f : Node → Node) (s : State) : (setNode ptr f s).splice = s.splice := rfl
@[simp] theorem setNode_faults (ptr : Nat) (f : Node → Node) (s : State) : (setNode ptr f s).faults = s.faults := rfl
@[simp] theorem setNode_index_capacity (ptr : Nat) (f : Node → Node) (s : State) : (setNode ptr f s).index.capacity = s.index.capacity := rfl
@[simp] theorem setNode_index_nextRun (ptr : Nat) (f : Node → Node) (s : State) : (setNode ptr f s).index.nextRun = s.index.nextRun := rfl
@[simp] theorem setNode_index_records (ptr : Nat) (f : Node → Node) (s : State) : (setNode ptr f s).index.records = s.index.records := rfl
@[simp] theorem setNode_index_recordPool (ptr : Nat) (f : Node → Node) (s : State) : (setNode ptr f s).index.recordPool = s.index.recordPool := rfl
@[simp] theorem setNode_index_slivers (ptr : Nat) (f : Node → Node) (s : State) : (setNode ptr f s).index.slivers = s.index.slivers := rfl
@[simp] theorem setNode_index_dropsInFlight (ptr : Nat) (f : Node → Node) (s : State) : (setNode ptr f s).index.dropsInFlight = s.index.dropsInFlight := rfl
@[simp] theorem setNode_index_lookups (ptr : Nat) (f : Node → Node) (s : State) : (setNode ptr f s).index.lookups = s.index.lookups := rfl
@[simp] theorem setNode_index_continuations (ptr : Nat) (f : Node → Node) (s : State) : (setNode ptr f s).index.continuations = s.index.continuations := rfl
@[simp] theorem setNode_index_nextLookup (ptr : Nat) (f : Node → Node) (s : State) : (setNode ptr f s).index.nextLookup = s.index.nextLookup := rfl
@[simp] theorem setNode_index_remote (ptr : Nat) (f : Node → Node) (s : State) : (setNode ptr f s).index.remote = s.index.remote := rfl
@[simp] theorem setNode_index_journalBuf (ptr : Nat) (f : Node → Node) (s : State) : (setNode ptr f s).index.journalBuf = s.index.journalBuf := rfl
@[simp] theorem setNode_index_recovering (ptr : Nat) (f : Node → Node) (s : State) : (setNode ptr f s).index.recovering = s.index.recovering := rfl
@[simp] theorem setNode_index_replayLeft (ptr : Nat) (f : Node → Node) (s : State) : (setNode ptr f s).index.replayLeft = s.index.replayLeft := rfl

/-! ## setIngest -/

@[simp] theorem setIngest_pending (i : Nat) (f : Ingest → Ingest) (s : State) : (setIngest i f s).pending = s.pending := rfl
@[simp] theorem setIngest_out (i : Nat) (f : Ingest → Ingest) (s : State) : (setIngest i f s).out = s.out := rfl
@[simp] theorem setIngest_free (i : Nat) (f : Ingest → Ingest) (s : State) : (setIngest i f s).free = s.free := rfl
@[simp] theorem setIngest_clk (i : Nat) (f : Ingest → Ingest) (s : State) : (setIngest i f s).clk = s.clk := rfl
@[simp] theorem setIngest_power (i : Nat) (f : Ingest → Ingest) (s : State) : (setIngest i f s).power = s.power := rfl
@[simp] theorem setIngest_boot (i : Nat) (f : Ingest → Ingest) (s : State) : (setIngest i f s).boot = s.boot := rfl
@[simp] theorem setIngest_sec (i : Nat) (f : Ingest → Ingest) (s : State) : (setIngest i f s).sec = s.sec := rfl
@[simp] theorem setIngest_cfg (i : Nat) (f : Ingest → Ingest) (s : State) : (setIngest i f s).cfg = s.cfg := rfl
@[simp] theorem setIngest_persist (i : Nat) (f : Ingest → Ingest) (s : State) : (setIngest i f s).persist = s.persist := rfl
@[simp] theorem setIngest_jobs (i : Nat) (f : Ingest → Ingest) (s : State) : (setIngest i f s).jobs = s.jobs := rfl
@[simp] theorem setIngest_index (i : Nat) (f : Ingest → Ingest) (s : State) : (setIngest i f s).index = s.index := rfl
@[simp] theorem setIngest_marr (i : Nat) (f : Ingest → Ingest) (s : State) : (setIngest i f s).marr = s.marr := rfl
@[simp] theorem setIngest_eng (i : Nat) (f : Ingest → Ingest) (s : State) : (setIngest i f s).eng = s.eng := rfl
@[simp] theorem setIngest_flash (i : Nat) (f : Ingest → Ingest) (s : State) : (setIngest i f s).flash = s.flash := rfl
@[simp] theorem setIngest_net (i : Nat) (f : Ingest → Ingest) (s : State) : (setIngest i f s).net = s.net := rfl
@[simp] theorem setIngest_host (i : Nat) (f : Ingest → Ingest) (s : State) : (setIngest i f s).host = s.host := rfl
@[simp] theorem setIngest_mgmt (i : Nat) (f : Ingest → Ingest) (s : State) : (setIngest i f s).mgmt = s.mgmt := rfl
@[simp] theorem setIngest_splice (i : Nat) (f : Ingest → Ingest) (s : State) : (setIngest i f s).splice = s.splice := rfl
@[simp] theorem setIngest_faults (i : Nat) (f : Ingest → Ingest) (s : State) : (setIngest i f s).faults = s.faults := rfl
@[simp] theorem setIngest_tiers_t1Total (i : Nat) (f : Ingest → Ingest) (s : State) : (setIngest i f s).tiers.t1Total = s.tiers.t1Total := rfl
@[simp] theorem setIngest_tiers_t1Free (i : Nat) (f : Ingest → Ingest) (s : State) : (setIngest i f s).tiers.t1Free = s.tiers.t1Free := rfl
@[simp] theorem setIngest_tiers_t1Reserved (i : Nat) (f : Ingest → Ingest) (s : State) : (setIngest i f s).tiers.t1Reserved = s.tiers.t1Reserved := rfl
@[simp] theorem setIngest_tiers_t2Total (i : Nat) (f : Ingest → Ingest) (s : State) : (setIngest i f s).tiers.t2Total = s.tiers.t2Total := rfl
@[simp] theorem setIngest_tiers_t2Free (i : Nat) (f : Ingest → Ingest) (s : State) : (setIngest i f s).tiers.t2Free = s.tiers.t2Free := rfl
@[simp] theorem setIngest_tiers_dirtyT1 (i : Nat) (f : Ingest → Ingest) (s : State) : (setIngest i f s).tiers.dirtyT1 = s.tiers.dirtyT1 := rfl
@[simp] theorem setIngest_tiers_dirtyT2 (i : Nat) (f : Ingest → Ingest) (s : State) : (setIngest i f s).tiers.dirtyT2 = s.tiers.dirtyT2 := rfl
@[simp] theorem setIngest_tiers_aboveMark (i : Nat) (f : Ingest → Ingest) (s : State) : (setIngest i f s).tiers.aboveMark = s.tiers.aboveMark := rfl
@[simp] theorem setIngest_tiers_suspended (i : Nat) (f : Ingest → Ingest) (s : State) : (setIngest i f s).tiers.suspended = s.tiers.suspended := rfl
@[simp] theorem setIngest_tiers_charged (i : Nat) (f : Ingest → Ingest) (s : State) : (setIngest i f s).tiers.charged = s.tiers.charged := rfl
@[simp] theorem setIngest_tiers_liveBudget (i : Nat) (f : Ingest → Ingest) (s : State) : (setIngest i f s).tiers.liveBudget = s.tiers.liveBudget := rfl
@[simp] theorem setIngest_tiers_moves (i : Nat) (f : Ingest → Ingest) (s : State) : (setIngest i f s).tiers.moves = s.tiers.moves := rfl
@[simp] theorem setIngest_tiers_nextMove (i : Nat) (f : Ingest → Ingest) (s : State) : (setIngest i f s).tiers.nextMove = s.tiers.nextMove := rfl
@[simp] theorem setIngest_tiers_promoteQueue (i : Nat) (f : Ingest → Ingest) (s : State) : (setIngest i f s).tiers.promoteQueue = s.tiers.promoteQueue := rfl
@[simp] theorem setIngest_tiers_writeNo (i : Nat) (f : Ingest → Ingest) (s : State) : (setIngest i f s).tiers.writeNo = s.tiers.writeNo := rfl
@[simp] theorem setIngest_tiers_weightsT1 (i : Nat) (f : Ingest → Ingest) (s : State) : (setIngest i f s).tiers.weightsT1 = s.tiers.weightsT1 := rfl
@[simp] theorem setIngest_tiers_ingestPool (i : Nat) (f : Ingest → Ingest) (s : State) : (setIngest i f s).tiers.ingestPool = s.tiers.ingestPool := rfl
@[simp] theorem setIngest_tiers_landing (i : Nat) (f : Ingest → Ingest) (s : State) : (setIngest i f s).tiers.landing = s.tiers.landing := rfl
@[simp] theorem setIngest_tiers_landingPool (i : Nat) (f : Ingest → Ingest) (s : State) : (setIngest i f s).tiers.landingPool = s.tiers.landingPool := rfl
@[simp] theorem setIngest_tiers_landingMem (i : Nat) (f : Ingest → Ingest) (s : State) : (setIngest i f s).tiers.landingMem = s.tiers.landingMem := rfl
@[simp] theorem setIngest_tiers_incoming (i : Nat) (f : Ingest → Ingest) (s : State) : (setIngest i f s).tiers.incoming = s.tiers.incoming := rfl
@[simp] theorem setIngest_tiers_nextIncoming (i : Nat) (f : Ingest → Ingest) (s : State) : (setIngest i f s).tiers.nextIncoming = s.tiers.nextIncoming := rfl
@[simp] theorem setIngest_tiers_badRows (i : Nat) (f : Ingest → Ingest) (s : State) : (setIngest i f s).tiers.badRows = s.tiers.badRows := rfl
@[simp] theorem setIngest_tiers_retiredRows (i : Nat) (f : Ingest → Ingest) (s : State) : (setIngest i f s).tiers.retiredRows = s.tiers.retiredRows := rfl
@[simp] theorem setIngest_tiers_evicting (i : Nat) (f : Ingest → Ingest) (s : State) : (setIngest i f s).tiers.evicting = s.tiers.evicting := rfl
@[simp] theorem setIngest_tiers_freed (i : Nat) (f : Ingest → Ingest) (s : State) : (setIngest i f s).tiers.freed = s.tiers.freed := rfl

/-! ## setProfile -/

@[simp] theorem setProfile_pending (i : Nat) (f : Profile → Profile) (s : State) : (setProfile i f s).pending = s.pending := rfl
@[simp] theorem setProfile_out (i : Nat) (f : Profile → Profile) (s : State) : (setProfile i f s).out = s.out := rfl
@[simp] theorem setProfile_free (i : Nat) (f : Profile → Profile) (s : State) : (setProfile i f s).free = s.free := rfl
@[simp] theorem setProfile_clk (i : Nat) (f : Profile → Profile) (s : State) : (setProfile i f s).clk = s.clk := rfl
@[simp] theorem setProfile_power (i : Nat) (f : Profile → Profile) (s : State) : (setProfile i f s).power = s.power := rfl
@[simp] theorem setProfile_boot (i : Nat) (f : Profile → Profile) (s : State) : (setProfile i f s).boot = s.boot := rfl
@[simp] theorem setProfile_sec (i : Nat) (f : Profile → Profile) (s : State) : (setProfile i f s).sec = s.sec := rfl
@[simp] theorem setProfile_cfg (i : Nat) (f : Profile → Profile) (s : State) : (setProfile i f s).cfg = s.cfg := rfl
@[simp] theorem setProfile_persist (i : Nat) (f : Profile → Profile) (s : State) : (setProfile i f s).persist = s.persist := rfl
@[simp] theorem setProfile_jobs (i : Nat) (f : Profile → Profile) (s : State) : (setProfile i f s).jobs = s.jobs := rfl
@[simp] theorem setProfile_index (i : Nat) (f : Profile → Profile) (s : State) : (setProfile i f s).index = s.index := rfl
@[simp] theorem setProfile_marr (i : Nat) (f : Profile → Profile) (s : State) : (setProfile i f s).marr = s.marr := rfl
@[simp] theorem setProfile_tiers (i : Nat) (f : Profile → Profile) (s : State) : (setProfile i f s).tiers = s.tiers := rfl
@[simp] theorem setProfile_flash (i : Nat) (f : Profile → Profile) (s : State) : (setProfile i f s).flash = s.flash := rfl
@[simp] theorem setProfile_net (i : Nat) (f : Profile → Profile) (s : State) : (setProfile i f s).net = s.net := rfl
@[simp] theorem setProfile_host (i : Nat) (f : Profile → Profile) (s : State) : (setProfile i f s).host = s.host := rfl
@[simp] theorem setProfile_mgmt (i : Nat) (f : Profile → Profile) (s : State) : (setProfile i f s).mgmt = s.mgmt := rfl
@[simp] theorem setProfile_splice (i : Nat) (f : Profile → Profile) (s : State) : (setProfile i f s).splice = s.splice := rfl
@[simp] theorem setProfile_faults (i : Nat) (f : Profile → Profile) (s : State) : (setProfile i f s).faults = s.faults := rfl
@[simp] theorem setProfile_eng_loadSeq (i : Nat) (f : Profile → Profile) (s : State) : (setProfile i f s).eng.loadSeq = s.eng.loadSeq := rfl
@[simp] theorem setProfile_eng_storyboards (i : Nat) (f : Profile → Profile) (s : State) : (setProfile i f s).eng.storyboards = s.eng.storyboards := rfl
@[simp] theorem setProfile_eng_nextSb (i : Nat) (f : Profile → Profile) (s : State) : (setProfile i f s).eng.nextSb = s.eng.nextSb := rfl
@[simp] theorem setProfile_eng_memberships (i : Nat) (f : Profile → Profile) (s : State) : (setProfile i f s).eng.memberships = s.eng.memberships := rfl
@[simp] theorem setProfile_eng_memberPool (i : Nat) (f : Profile → Profile) (s : State) : (setProfile i f s).eng.memberPool = s.eng.memberPool := rfl
@[simp] theorem setProfile_eng_batches (i : Nat) (f : Profile → Profile) (s : State) : (setProfile i f s).eng.batches = s.eng.batches := rfl
@[simp] theorem setProfile_eng_nextBatch (i : Nat) (f : Profile → Profile) (s : State) : (setProfile i f s).eng.nextBatch = s.eng.nextBatch := rfl
@[simp] theorem setProfile_eng_stage (i : Nat) (f : Profile → Profile) (s : State) : (setProfile i f s).eng.stage = s.eng.stage := rfl
@[simp] theorem setProfile_eng_tiles (i : Nat) (f : Profile → Profile) (s : State) : (setProfile i f s).eng.tiles = s.eng.tiles := rfl
@[simp] theorem setProfile_eng_codecs (i : Nat) (f : Profile → Profile) (s : State) : (setProfile i f s).eng.codecs = s.eng.codecs := rfl
@[simp] theorem setProfile_eng_cryptos (i : Nat) (f : Profile → Profile) (s : State) : (setProfile i f s).eng.cryptos = s.eng.cryptos := rfl
@[simp] theorem setProfile_eng_hashers (i : Nat) (f : Profile → Profile) (s : State) : (setProfile i f s).eng.hashers = s.eng.hashers := rfl
@[simp] theorem setProfile_eng_movers (i : Nat) (f : Profile → Profile) (s : State) : (setProfile i f s).eng.movers = s.eng.movers := rfl
@[simp] theorem setProfile_eng_rdma (i : Nat) (f : Profile → Profile) (s : State) : (setProfile i f s).eng.rdma = s.eng.rdma := rfl
@[simp] theorem setProfile_eng_hostEng (i : Nat) (f : Profile → Profile) (s : State) : (setProfile i f s).eng.hostEng = s.eng.hostEng := rfl
@[simp] theorem setProfile_eng_spliceEng (i : Nat) (f : Profile → Profile) (s : State) : (setProfile i f s).eng.spliceEng = s.eng.spliceEng := rfl
@[simp] theorem setProfile_eng_control (i : Nat) (f : Profile → Profile) (s : State) : (setProfile i f s).eng.control = s.eng.control := rfl
@[simp] theorem setProfile_eng_codecBufs (i : Nat) (f : Profile → Profile) (s : State) : (setProfile i f s).eng.codecBufs = s.eng.codecBufs := rfl
@[simp] theorem setProfile_eng_tileWeights (i : Nat) (f : Profile → Profile) (s : State) : (setProfile i f s).eng.tileWeights = s.eng.tileWeights := rfl
@[simp] theorem setProfile_eng_ethCredits (i : Nat) (f : Profile → Profile) (s : State) : (setProfile i f s).eng.ethCredits = s.eng.ethCredits := rfl
@[simp] theorem setProfile_eng_hostCredits (i : Nat) (f : Profile → Profile) (s : State) : (setProfile i f s).eng.hostCredits = s.eng.hostCredits := rfl
@[simp] theorem setProfile_eng_spliceCredits (i : Nat) (f : Profile → Profile) (s : State) : (setProfile i f s).eng.spliceCredits = s.eng.spliceCredits := rfl

/-! ## setSb -/

@[simp] theorem setSb_pending (id : Nat) (f : Storyboard → Storyboard) (s : State) : (setSb id f s).pending = s.pending := rfl
@[simp] theorem setSb_out (id : Nat) (f : Storyboard → Storyboard) (s : State) : (setSb id f s).out = s.out := rfl
@[simp] theorem setSb_free (id : Nat) (f : Storyboard → Storyboard) (s : State) : (setSb id f s).free = s.free := rfl
@[simp] theorem setSb_clk (id : Nat) (f : Storyboard → Storyboard) (s : State) : (setSb id f s).clk = s.clk := rfl
@[simp] theorem setSb_power (id : Nat) (f : Storyboard → Storyboard) (s : State) : (setSb id f s).power = s.power := rfl
@[simp] theorem setSb_boot (id : Nat) (f : Storyboard → Storyboard) (s : State) : (setSb id f s).boot = s.boot := rfl
@[simp] theorem setSb_sec (id : Nat) (f : Storyboard → Storyboard) (s : State) : (setSb id f s).sec = s.sec := rfl
@[simp] theorem setSb_cfg (id : Nat) (f : Storyboard → Storyboard) (s : State) : (setSb id f s).cfg = s.cfg := rfl
@[simp] theorem setSb_persist (id : Nat) (f : Storyboard → Storyboard) (s : State) : (setSb id f s).persist = s.persist := rfl
@[simp] theorem setSb_jobs (id : Nat) (f : Storyboard → Storyboard) (s : State) : (setSb id f s).jobs = s.jobs := rfl
@[simp] theorem setSb_index (id : Nat) (f : Storyboard → Storyboard) (s : State) : (setSb id f s).index = s.index := rfl
@[simp] theorem setSb_marr (id : Nat) (f : Storyboard → Storyboard) (s : State) : (setSb id f s).marr = s.marr := rfl
@[simp] theorem setSb_tiers (id : Nat) (f : Storyboard → Storyboard) (s : State) : (setSb id f s).tiers = s.tiers := rfl
@[simp] theorem setSb_flash (id : Nat) (f : Storyboard → Storyboard) (s : State) : (setSb id f s).flash = s.flash := rfl
@[simp] theorem setSb_net (id : Nat) (f : Storyboard → Storyboard) (s : State) : (setSb id f s).net = s.net := rfl
@[simp] theorem setSb_host (id : Nat) (f : Storyboard → Storyboard) (s : State) : (setSb id f s).host = s.host := rfl
@[simp] theorem setSb_mgmt (id : Nat) (f : Storyboard → Storyboard) (s : State) : (setSb id f s).mgmt = s.mgmt := rfl
@[simp] theorem setSb_splice (id : Nat) (f : Storyboard → Storyboard) (s : State) : (setSb id f s).splice = s.splice := rfl
@[simp] theorem setSb_faults (id : Nat) (f : Storyboard → Storyboard) (s : State) : (setSb id f s).faults = s.faults := rfl
@[simp] theorem setSb_eng_profiles (id : Nat) (f : Storyboard → Storyboard) (s : State) : (setSb id f s).eng.profiles = s.eng.profiles := rfl
@[simp] theorem setSb_eng_loadSeq (id : Nat) (f : Storyboard → Storyboard) (s : State) : (setSb id f s).eng.loadSeq = s.eng.loadSeq := rfl
@[simp] theorem setSb_eng_nextSb (id : Nat) (f : Storyboard → Storyboard) (s : State) : (setSb id f s).eng.nextSb = s.eng.nextSb := rfl
@[simp] theorem setSb_eng_memberships (id : Nat) (f : Storyboard → Storyboard) (s : State) : (setSb id f s).eng.memberships = s.eng.memberships := rfl
@[simp] theorem setSb_eng_memberPool (id : Nat) (f : Storyboard → Storyboard) (s : State) : (setSb id f s).eng.memberPool = s.eng.memberPool := rfl
@[simp] theorem setSb_eng_batches (id : Nat) (f : Storyboard → Storyboard) (s : State) : (setSb id f s).eng.batches = s.eng.batches := rfl
@[simp] theorem setSb_eng_nextBatch (id : Nat) (f : Storyboard → Storyboard) (s : State) : (setSb id f s).eng.nextBatch = s.eng.nextBatch := rfl
@[simp] theorem setSb_eng_stage (id : Nat) (f : Storyboard → Storyboard) (s : State) : (setSb id f s).eng.stage = s.eng.stage := rfl
@[simp] theorem setSb_eng_tiles (id : Nat) (f : Storyboard → Storyboard) (s : State) : (setSb id f s).eng.tiles = s.eng.tiles := rfl
@[simp] theorem setSb_eng_codecs (id : Nat) (f : Storyboard → Storyboard) (s : State) : (setSb id f s).eng.codecs = s.eng.codecs := rfl
@[simp] theorem setSb_eng_cryptos (id : Nat) (f : Storyboard → Storyboard) (s : State) : (setSb id f s).eng.cryptos = s.eng.cryptos := rfl
@[simp] theorem setSb_eng_hashers (id : Nat) (f : Storyboard → Storyboard) (s : State) : (setSb id f s).eng.hashers = s.eng.hashers := rfl
@[simp] theorem setSb_eng_movers (id : Nat) (f : Storyboard → Storyboard) (s : State) : (setSb id f s).eng.movers = s.eng.movers := rfl
@[simp] theorem setSb_eng_rdma (id : Nat) (f : Storyboard → Storyboard) (s : State) : (setSb id f s).eng.rdma = s.eng.rdma := rfl
@[simp] theorem setSb_eng_hostEng (id : Nat) (f : Storyboard → Storyboard) (s : State) : (setSb id f s).eng.hostEng = s.eng.hostEng := rfl
@[simp] theorem setSb_eng_spliceEng (id : Nat) (f : Storyboard → Storyboard) (s : State) : (setSb id f s).eng.spliceEng = s.eng.spliceEng := rfl
@[simp] theorem setSb_eng_control (id : Nat) (f : Storyboard → Storyboard) (s : State) : (setSb id f s).eng.control = s.eng.control := rfl
@[simp] theorem setSb_eng_codecBufs (id : Nat) (f : Storyboard → Storyboard) (s : State) : (setSb id f s).eng.codecBufs = s.eng.codecBufs := rfl
@[simp] theorem setSb_eng_tileWeights (id : Nat) (f : Storyboard → Storyboard) (s : State) : (setSb id f s).eng.tileWeights = s.eng.tileWeights := rfl
@[simp] theorem setSb_eng_ethCredits (id : Nat) (f : Storyboard → Storyboard) (s : State) : (setSb id f s).eng.ethCredits = s.eng.ethCredits := rfl
@[simp] theorem setSb_eng_hostCredits (id : Nat) (f : Storyboard → Storyboard) (s : State) : (setSb id f s).eng.hostCredits = s.eng.hostCredits := rfl
@[simp] theorem setSb_eng_spliceCredits (id : Nat) (f : Storyboard → Storyboard) (s : State) : (setSb id f s).eng.spliceCredits = s.eng.spliceCredits := rfl

/-! ## setMember -/

@[simp] theorem setMember_pending (i : Nat) (f : Membership → Membership) (s : State) : (setMember i f s).pending = s.pending := rfl
@[simp] theorem setMember_out (i : Nat) (f : Membership → Membership) (s : State) : (setMember i f s).out = s.out := rfl
@[simp] theorem setMember_free (i : Nat) (f : Membership → Membership) (s : State) : (setMember i f s).free = s.free := rfl
@[simp] theorem setMember_clk (i : Nat) (f : Membership → Membership) (s : State) : (setMember i f s).clk = s.clk := rfl
@[simp] theorem setMember_power (i : Nat) (f : Membership → Membership) (s : State) : (setMember i f s).power = s.power := rfl
@[simp] theorem setMember_boot (i : Nat) (f : Membership → Membership) (s : State) : (setMember i f s).boot = s.boot := rfl
@[simp] theorem setMember_sec (i : Nat) (f : Membership → Membership) (s : State) : (setMember i f s).sec = s.sec := rfl
@[simp] theorem setMember_cfg (i : Nat) (f : Membership → Membership) (s : State) : (setMember i f s).cfg = s.cfg := rfl
@[simp] theorem setMember_persist (i : Nat) (f : Membership → Membership) (s : State) : (setMember i f s).persist = s.persist := rfl
@[simp] theorem setMember_jobs (i : Nat) (f : Membership → Membership) (s : State) : (setMember i f s).jobs = s.jobs := rfl
@[simp] theorem setMember_index (i : Nat) (f : Membership → Membership) (s : State) : (setMember i f s).index = s.index := rfl
@[simp] theorem setMember_marr (i : Nat) (f : Membership → Membership) (s : State) : (setMember i f s).marr = s.marr := rfl
@[simp] theorem setMember_tiers (i : Nat) (f : Membership → Membership) (s : State) : (setMember i f s).tiers = s.tiers := rfl
@[simp] theorem setMember_flash (i : Nat) (f : Membership → Membership) (s : State) : (setMember i f s).flash = s.flash := rfl
@[simp] theorem setMember_net (i : Nat) (f : Membership → Membership) (s : State) : (setMember i f s).net = s.net := rfl
@[simp] theorem setMember_host (i : Nat) (f : Membership → Membership) (s : State) : (setMember i f s).host = s.host := rfl
@[simp] theorem setMember_mgmt (i : Nat) (f : Membership → Membership) (s : State) : (setMember i f s).mgmt = s.mgmt := rfl
@[simp] theorem setMember_splice (i : Nat) (f : Membership → Membership) (s : State) : (setMember i f s).splice = s.splice := rfl
@[simp] theorem setMember_faults (i : Nat) (f : Membership → Membership) (s : State) : (setMember i f s).faults = s.faults := rfl
@[simp] theorem setMember_eng_profiles (i : Nat) (f : Membership → Membership) (s : State) : (setMember i f s).eng.profiles = s.eng.profiles := rfl
@[simp] theorem setMember_eng_loadSeq (i : Nat) (f : Membership → Membership) (s : State) : (setMember i f s).eng.loadSeq = s.eng.loadSeq := rfl
@[simp] theorem setMember_eng_storyboards (i : Nat) (f : Membership → Membership) (s : State) : (setMember i f s).eng.storyboards = s.eng.storyboards := rfl
@[simp] theorem setMember_eng_nextSb (i : Nat) (f : Membership → Membership) (s : State) : (setMember i f s).eng.nextSb = s.eng.nextSb := rfl
@[simp] theorem setMember_eng_memberPool (i : Nat) (f : Membership → Membership) (s : State) : (setMember i f s).eng.memberPool = s.eng.memberPool := rfl
@[simp] theorem setMember_eng_batches (i : Nat) (f : Membership → Membership) (s : State) : (setMember i f s).eng.batches = s.eng.batches := rfl
@[simp] theorem setMember_eng_nextBatch (i : Nat) (f : Membership → Membership) (s : State) : (setMember i f s).eng.nextBatch = s.eng.nextBatch := rfl
@[simp] theorem setMember_eng_stage (i : Nat) (f : Membership → Membership) (s : State) : (setMember i f s).eng.stage = s.eng.stage := rfl
@[simp] theorem setMember_eng_tiles (i : Nat) (f : Membership → Membership) (s : State) : (setMember i f s).eng.tiles = s.eng.tiles := rfl
@[simp] theorem setMember_eng_codecs (i : Nat) (f : Membership → Membership) (s : State) : (setMember i f s).eng.codecs = s.eng.codecs := rfl
@[simp] theorem setMember_eng_cryptos (i : Nat) (f : Membership → Membership) (s : State) : (setMember i f s).eng.cryptos = s.eng.cryptos := rfl
@[simp] theorem setMember_eng_hashers (i : Nat) (f : Membership → Membership) (s : State) : (setMember i f s).eng.hashers = s.eng.hashers := rfl
@[simp] theorem setMember_eng_movers (i : Nat) (f : Membership → Membership) (s : State) : (setMember i f s).eng.movers = s.eng.movers := rfl
@[simp] theorem setMember_eng_rdma (i : Nat) (f : Membership → Membership) (s : State) : (setMember i f s).eng.rdma = s.eng.rdma := rfl
@[simp] theorem setMember_eng_hostEng (i : Nat) (f : Membership → Membership) (s : State) : (setMember i f s).eng.hostEng = s.eng.hostEng := rfl
@[simp] theorem setMember_eng_spliceEng (i : Nat) (f : Membership → Membership) (s : State) : (setMember i f s).eng.spliceEng = s.eng.spliceEng := rfl
@[simp] theorem setMember_eng_control (i : Nat) (f : Membership → Membership) (s : State) : (setMember i f s).eng.control = s.eng.control := rfl
@[simp] theorem setMember_eng_codecBufs (i : Nat) (f : Membership → Membership) (s : State) : (setMember i f s).eng.codecBufs = s.eng.codecBufs := rfl
@[simp] theorem setMember_eng_tileWeights (i : Nat) (f : Membership → Membership) (s : State) : (setMember i f s).eng.tileWeights = s.eng.tileWeights := rfl
@[simp] theorem setMember_eng_ethCredits (i : Nat) (f : Membership → Membership) (s : State) : (setMember i f s).eng.ethCredits = s.eng.ethCredits := rfl
@[simp] theorem setMember_eng_hostCredits (i : Nat) (f : Membership → Membership) (s : State) : (setMember i f s).eng.hostCredits = s.eng.hostCredits := rfl
@[simp] theorem setMember_eng_spliceCredits (i : Nat) (f : Membership → Membership) (s : State) : (setMember i f s).eng.spliceCredits = s.eng.spliceCredits := rfl

/-! ## setBatch -/

@[simp] theorem setBatch_pending (b : Nat) (f : Batch → Batch) (s : State) : (setBatch b f s).pending = s.pending := rfl
@[simp] theorem setBatch_out (b : Nat) (f : Batch → Batch) (s : State) : (setBatch b f s).out = s.out := rfl
@[simp] theorem setBatch_free (b : Nat) (f : Batch → Batch) (s : State) : (setBatch b f s).free = s.free := rfl
@[simp] theorem setBatch_clk (b : Nat) (f : Batch → Batch) (s : State) : (setBatch b f s).clk = s.clk := rfl
@[simp] theorem setBatch_power (b : Nat) (f : Batch → Batch) (s : State) : (setBatch b f s).power = s.power := rfl
@[simp] theorem setBatch_boot (b : Nat) (f : Batch → Batch) (s : State) : (setBatch b f s).boot = s.boot := rfl
@[simp] theorem setBatch_sec (b : Nat) (f : Batch → Batch) (s : State) : (setBatch b f s).sec = s.sec := rfl
@[simp] theorem setBatch_cfg (b : Nat) (f : Batch → Batch) (s : State) : (setBatch b f s).cfg = s.cfg := rfl
@[simp] theorem setBatch_persist (b : Nat) (f : Batch → Batch) (s : State) : (setBatch b f s).persist = s.persist := rfl
@[simp] theorem setBatch_jobs (b : Nat) (f : Batch → Batch) (s : State) : (setBatch b f s).jobs = s.jobs := rfl
@[simp] theorem setBatch_index (b : Nat) (f : Batch → Batch) (s : State) : (setBatch b f s).index = s.index := rfl
@[simp] theorem setBatch_marr (b : Nat) (f : Batch → Batch) (s : State) : (setBatch b f s).marr = s.marr := rfl
@[simp] theorem setBatch_tiers (b : Nat) (f : Batch → Batch) (s : State) : (setBatch b f s).tiers = s.tiers := rfl
@[simp] theorem setBatch_flash (b : Nat) (f : Batch → Batch) (s : State) : (setBatch b f s).flash = s.flash := rfl
@[simp] theorem setBatch_net (b : Nat) (f : Batch → Batch) (s : State) : (setBatch b f s).net = s.net := rfl
@[simp] theorem setBatch_host (b : Nat) (f : Batch → Batch) (s : State) : (setBatch b f s).host = s.host := rfl
@[simp] theorem setBatch_mgmt (b : Nat) (f : Batch → Batch) (s : State) : (setBatch b f s).mgmt = s.mgmt := rfl
@[simp] theorem setBatch_splice (b : Nat) (f : Batch → Batch) (s : State) : (setBatch b f s).splice = s.splice := rfl
@[simp] theorem setBatch_faults (b : Nat) (f : Batch → Batch) (s : State) : (setBatch b f s).faults = s.faults := rfl
@[simp] theorem setBatch_eng_profiles (b : Nat) (f : Batch → Batch) (s : State) : (setBatch b f s).eng.profiles = s.eng.profiles := rfl
@[simp] theorem setBatch_eng_loadSeq (b : Nat) (f : Batch → Batch) (s : State) : (setBatch b f s).eng.loadSeq = s.eng.loadSeq := rfl
@[simp] theorem setBatch_eng_storyboards (b : Nat) (f : Batch → Batch) (s : State) : (setBatch b f s).eng.storyboards = s.eng.storyboards := rfl
@[simp] theorem setBatch_eng_nextSb (b : Nat) (f : Batch → Batch) (s : State) : (setBatch b f s).eng.nextSb = s.eng.nextSb := rfl
@[simp] theorem setBatch_eng_memberships (b : Nat) (f : Batch → Batch) (s : State) : (setBatch b f s).eng.memberships = s.eng.memberships := rfl
@[simp] theorem setBatch_eng_memberPool (b : Nat) (f : Batch → Batch) (s : State) : (setBatch b f s).eng.memberPool = s.eng.memberPool := rfl
@[simp] theorem setBatch_eng_nextBatch (b : Nat) (f : Batch → Batch) (s : State) : (setBatch b f s).eng.nextBatch = s.eng.nextBatch := rfl
@[simp] theorem setBatch_eng_stage (b : Nat) (f : Batch → Batch) (s : State) : (setBatch b f s).eng.stage = s.eng.stage := rfl
@[simp] theorem setBatch_eng_tiles (b : Nat) (f : Batch → Batch) (s : State) : (setBatch b f s).eng.tiles = s.eng.tiles := rfl
@[simp] theorem setBatch_eng_codecs (b : Nat) (f : Batch → Batch) (s : State) : (setBatch b f s).eng.codecs = s.eng.codecs := rfl
@[simp] theorem setBatch_eng_cryptos (b : Nat) (f : Batch → Batch) (s : State) : (setBatch b f s).eng.cryptos = s.eng.cryptos := rfl
@[simp] theorem setBatch_eng_hashers (b : Nat) (f : Batch → Batch) (s : State) : (setBatch b f s).eng.hashers = s.eng.hashers := rfl
@[simp] theorem setBatch_eng_movers (b : Nat) (f : Batch → Batch) (s : State) : (setBatch b f s).eng.movers = s.eng.movers := rfl
@[simp] theorem setBatch_eng_rdma (b : Nat) (f : Batch → Batch) (s : State) : (setBatch b f s).eng.rdma = s.eng.rdma := rfl
@[simp] theorem setBatch_eng_hostEng (b : Nat) (f : Batch → Batch) (s : State) : (setBatch b f s).eng.hostEng = s.eng.hostEng := rfl
@[simp] theorem setBatch_eng_spliceEng (b : Nat) (f : Batch → Batch) (s : State) : (setBatch b f s).eng.spliceEng = s.eng.spliceEng := rfl
@[simp] theorem setBatch_eng_control (b : Nat) (f : Batch → Batch) (s : State) : (setBatch b f s).eng.control = s.eng.control := rfl
@[simp] theorem setBatch_eng_codecBufs (b : Nat) (f : Batch → Batch) (s : State) : (setBatch b f s).eng.codecBufs = s.eng.codecBufs := rfl
@[simp] theorem setBatch_eng_tileWeights (b : Nat) (f : Batch → Batch) (s : State) : (setBatch b f s).eng.tileWeights = s.eng.tileWeights := rfl
@[simp] theorem setBatch_eng_ethCredits (b : Nat) (f : Batch → Batch) (s : State) : (setBatch b f s).eng.ethCredits = s.eng.ethCredits := rfl
@[simp] theorem setBatch_eng_hostCredits (b : Nat) (f : Batch → Batch) (s : State) : (setBatch b f s).eng.hostCredits = s.eng.hostCredits := rfl
@[simp] theorem setBatch_eng_spliceCredits (b : Nat) (f : Batch → Batch) (s : State) : (setBatch b f s).eng.spliceCredits = s.eng.spliceCredits := rfl

/-! ## setQp -/

@[simp] theorem setQp_pending (q : Nat) (f : Qp → Qp) (s : State) : (setQp q f s).pending = s.pending := rfl
@[simp] theorem setQp_out (q : Nat) (f : Qp → Qp) (s : State) : (setQp q f s).out = s.out := rfl
@[simp] theorem setQp_free (q : Nat) (f : Qp → Qp) (s : State) : (setQp q f s).free = s.free := rfl
@[simp] theorem setQp_clk (q : Nat) (f : Qp → Qp) (s : State) : (setQp q f s).clk = s.clk := rfl
@[simp] theorem setQp_power (q : Nat) (f : Qp → Qp) (s : State) : (setQp q f s).power = s.power := rfl
@[simp] theorem setQp_boot (q : Nat) (f : Qp → Qp) (s : State) : (setQp q f s).boot = s.boot := rfl
@[simp] theorem setQp_sec (q : Nat) (f : Qp → Qp) (s : State) : (setQp q f s).sec = s.sec := rfl
@[simp] theorem setQp_cfg (q : Nat) (f : Qp → Qp) (s : State) : (setQp q f s).cfg = s.cfg := rfl
@[simp] theorem setQp_persist (q : Nat) (f : Qp → Qp) (s : State) : (setQp q f s).persist = s.persist := rfl
@[simp] theorem setQp_jobs (q : Nat) (f : Qp → Qp) (s : State) : (setQp q f s).jobs = s.jobs := rfl
@[simp] theorem setQp_index (q : Nat) (f : Qp → Qp) (s : State) : (setQp q f s).index = s.index := rfl
@[simp] theorem setQp_marr (q : Nat) (f : Qp → Qp) (s : State) : (setQp q f s).marr = s.marr := rfl
@[simp] theorem setQp_tiers (q : Nat) (f : Qp → Qp) (s : State) : (setQp q f s).tiers = s.tiers := rfl
@[simp] theorem setQp_eng (q : Nat) (f : Qp → Qp) (s : State) : (setQp q f s).eng = s.eng := rfl
@[simp] theorem setQp_flash (q : Nat) (f : Qp → Qp) (s : State) : (setQp q f s).flash = s.flash := rfl
@[simp] theorem setQp_host (q : Nat) (f : Qp → Qp) (s : State) : (setQp q f s).host = s.host := rfl
@[simp] theorem setQp_mgmt (q : Nat) (f : Qp → Qp) (s : State) : (setQp q f s).mgmt = s.mgmt := rfl
@[simp] theorem setQp_splice (q : Nat) (f : Qp → Qp) (s : State) : (setQp q f s).splice = s.splice := rfl
@[simp] theorem setQp_faults (q : Nat) (f : Qp → Qp) (s : State) : (setQp q f s).faults = s.faults := rfl
@[simp] theorem setQp_net_lports (q : Nat) (f : Qp → Qp) (s : State) : (setQp q f s).net.lports = s.net.lports := rfl
@[simp] theorem setQp_net_eports (q : Nat) (f : Qp → Qp) (s : State) : (setQp q f s).net.eports = s.net.eports := rfl
@[simp] theorem setQp_net_qpPool (q : Nat) (f : Qp → Qp) (s : State) : (setQp q f s).net.qpPool = s.net.qpPool := rfl
@[simp] theorem setQp_net_useClock (q : Nat) (f : Qp → Qp) (s : State) : (setQp q f s).net.useClock = s.net.useClock := rfl

/-! ## setEport -/

@[simp] theorem setEport_pending (n : Nat) (f : EthPort → EthPort) (s : State) : (setEport n f s).pending = s.pending := rfl
@[simp] theorem setEport_out (n : Nat) (f : EthPort → EthPort) (s : State) : (setEport n f s).out = s.out := rfl
@[simp] theorem setEport_free (n : Nat) (f : EthPort → EthPort) (s : State) : (setEport n f s).free = s.free := rfl
@[simp] theorem setEport_clk (n : Nat) (f : EthPort → EthPort) (s : State) : (setEport n f s).clk = s.clk := rfl
@[simp] theorem setEport_power (n : Nat) (f : EthPort → EthPort) (s : State) : (setEport n f s).power = s.power := rfl
@[simp] theorem setEport_boot (n : Nat) (f : EthPort → EthPort) (s : State) : (setEport n f s).boot = s.boot := rfl
@[simp] theorem setEport_sec (n : Nat) (f : EthPort → EthPort) (s : State) : (setEport n f s).sec = s.sec := rfl
@[simp] theorem setEport_cfg (n : Nat) (f : EthPort → EthPort) (s : State) : (setEport n f s).cfg = s.cfg := rfl
@[simp] theorem setEport_persist (n : Nat) (f : EthPort → EthPort) (s : State) : (setEport n f s).persist = s.persist := rfl
@[simp] theorem setEport_jobs (n : Nat) (f : EthPort → EthPort) (s : State) : (setEport n f s).jobs = s.jobs := rfl
@[simp] theorem setEport_index (n : Nat) (f : EthPort → EthPort) (s : State) : (setEport n f s).index = s.index := rfl
@[simp] theorem setEport_marr (n : Nat) (f : EthPort → EthPort) (s : State) : (setEport n f s).marr = s.marr := rfl
@[simp] theorem setEport_tiers (n : Nat) (f : EthPort → EthPort) (s : State) : (setEport n f s).tiers = s.tiers := rfl
@[simp] theorem setEport_eng (n : Nat) (f : EthPort → EthPort) (s : State) : (setEport n f s).eng = s.eng := rfl
@[simp] theorem setEport_flash (n : Nat) (f : EthPort → EthPort) (s : State) : (setEport n f s).flash = s.flash := rfl
@[simp] theorem setEport_host (n : Nat) (f : EthPort → EthPort) (s : State) : (setEport n f s).host = s.host := rfl
@[simp] theorem setEport_mgmt (n : Nat) (f : EthPort → EthPort) (s : State) : (setEport n f s).mgmt = s.mgmt := rfl
@[simp] theorem setEport_splice (n : Nat) (f : EthPort → EthPort) (s : State) : (setEport n f s).splice = s.splice := rfl
@[simp] theorem setEport_faults (n : Nat) (f : EthPort → EthPort) (s : State) : (setEport n f s).faults = s.faults := rfl
@[simp] theorem setEport_net_lports (n : Nat) (f : EthPort → EthPort) (s : State) : (setEport n f s).net.lports = s.net.lports := rfl
@[simp] theorem setEport_net_qps (n : Nat) (f : EthPort → EthPort) (s : State) : (setEport n f s).net.qps = s.net.qps := rfl
@[simp] theorem setEport_net_qpPool (n : Nat) (f : EthPort → EthPort) (s : State) : (setEport n f s).net.qpPool = s.net.qpPool := rfl
@[simp] theorem setEport_net_useClock (n : Nat) (f : EthPort → EthPort) (s : State) : (setEport n f s).net.useClock = s.net.useClock := rfl

/-! ## setRing -/

@[simp] theorem setRing_pending (p r : Nat) (f : RingPair → RingPair) (s : State) : (setRing p r f s).pending = s.pending := rfl
@[simp] theorem setRing_out (p r : Nat) (f : RingPair → RingPair) (s : State) : (setRing p r f s).out = s.out := rfl
@[simp] theorem setRing_free (p r : Nat) (f : RingPair → RingPair) (s : State) : (setRing p r f s).free = s.free := rfl
@[simp] theorem setRing_clk (p r : Nat) (f : RingPair → RingPair) (s : State) : (setRing p r f s).clk = s.clk := rfl
@[simp] theorem setRing_power (p r : Nat) (f : RingPair → RingPair) (s : State) : (setRing p r f s).power = s.power := rfl
@[simp] theorem setRing_boot (p r : Nat) (f : RingPair → RingPair) (s : State) : (setRing p r f s).boot = s.boot := rfl
@[simp] theorem setRing_sec (p r : Nat) (f : RingPair → RingPair) (s : State) : (setRing p r f s).sec = s.sec := rfl
@[simp] theorem setRing_cfg (p r : Nat) (f : RingPair → RingPair) (s : State) : (setRing p r f s).cfg = s.cfg := rfl
@[simp] theorem setRing_persist (p r : Nat) (f : RingPair → RingPair) (s : State) : (setRing p r f s).persist = s.persist := rfl
@[simp] theorem setRing_jobs (p r : Nat) (f : RingPair → RingPair) (s : State) : (setRing p r f s).jobs = s.jobs := rfl
@[simp] theorem setRing_index (p r : Nat) (f : RingPair → RingPair) (s : State) : (setRing p r f s).index = s.index := rfl
@[simp] theorem setRing_marr (p r : Nat) (f : RingPair → RingPair) (s : State) : (setRing p r f s).marr = s.marr := rfl
@[simp] theorem setRing_tiers (p r : Nat) (f : RingPair → RingPair) (s : State) : (setRing p r f s).tiers = s.tiers := rfl
@[simp] theorem setRing_eng (p r : Nat) (f : RingPair → RingPair) (s : State) : (setRing p r f s).eng = s.eng := rfl
@[simp] theorem setRing_flash (p r : Nat) (f : RingPair → RingPair) (s : State) : (setRing p r f s).flash = s.flash := rfl
@[simp] theorem setRing_net (p r : Nat) (f : RingPair → RingPair) (s : State) : (setRing p r f s).net = s.net := rfl
@[simp] theorem setRing_mgmt (p r : Nat) (f : RingPair → RingPair) (s : State) : (setRing p r f s).mgmt = s.mgmt := rfl
@[simp] theorem setRing_splice (p r : Nat) (f : RingPair → RingPair) (s : State) : (setRing p r f s).splice = s.splice := rfl
@[simp] theorem setRing_faults (p r : Nat) (f : RingPair → RingPair) (s : State) : (setRing p r f s).faults = s.faults := rfl
@[simp] theorem setRing_host_links (p r : Nat) (f : RingPair → RingPair) (s : State) : (setRing p r f s).host.links = s.host.links := rfl
@[simp] theorem setRing_host_funcs (p r : Nat) (f : RingPair → RingPair) (s : State) : (setRing p r f s).host.funcs = s.host.funcs := rfl
@[simp] theorem setRing_host_windows (p r : Nat) (f : RingPair → RingPair) (s : State) : (setRing p r f s).host.windows = s.host.windows := rfl

/-! ## setFunc -/

@[simp] theorem setFunc_pending (p l n : Nat) (f : FuncRegs → FuncRegs) (s : State) : (setFunc p l n f s).pending = s.pending := rfl
@[simp] theorem setFunc_out (p l n : Nat) (f : FuncRegs → FuncRegs) (s : State) : (setFunc p l n f s).out = s.out := rfl
@[simp] theorem setFunc_free (p l n : Nat) (f : FuncRegs → FuncRegs) (s : State) : (setFunc p l n f s).free = s.free := rfl
@[simp] theorem setFunc_clk (p l n : Nat) (f : FuncRegs → FuncRegs) (s : State) : (setFunc p l n f s).clk = s.clk := rfl
@[simp] theorem setFunc_power (p l n : Nat) (f : FuncRegs → FuncRegs) (s : State) : (setFunc p l n f s).power = s.power := rfl
@[simp] theorem setFunc_boot (p l n : Nat) (f : FuncRegs → FuncRegs) (s : State) : (setFunc p l n f s).boot = s.boot := rfl
@[simp] theorem setFunc_sec (p l n : Nat) (f : FuncRegs → FuncRegs) (s : State) : (setFunc p l n f s).sec = s.sec := rfl
@[simp] theorem setFunc_cfg (p l n : Nat) (f : FuncRegs → FuncRegs) (s : State) : (setFunc p l n f s).cfg = s.cfg := rfl
@[simp] theorem setFunc_persist (p l n : Nat) (f : FuncRegs → FuncRegs) (s : State) : (setFunc p l n f s).persist = s.persist := rfl
@[simp] theorem setFunc_jobs (p l n : Nat) (f : FuncRegs → FuncRegs) (s : State) : (setFunc p l n f s).jobs = s.jobs := rfl
@[simp] theorem setFunc_index (p l n : Nat) (f : FuncRegs → FuncRegs) (s : State) : (setFunc p l n f s).index = s.index := rfl
@[simp] theorem setFunc_marr (p l n : Nat) (f : FuncRegs → FuncRegs) (s : State) : (setFunc p l n f s).marr = s.marr := rfl
@[simp] theorem setFunc_tiers (p l n : Nat) (f : FuncRegs → FuncRegs) (s : State) : (setFunc p l n f s).tiers = s.tiers := rfl
@[simp] theorem setFunc_eng (p l n : Nat) (f : FuncRegs → FuncRegs) (s : State) : (setFunc p l n f s).eng = s.eng := rfl
@[simp] theorem setFunc_flash (p l n : Nat) (f : FuncRegs → FuncRegs) (s : State) : (setFunc p l n f s).flash = s.flash := rfl
@[simp] theorem setFunc_net (p l n : Nat) (f : FuncRegs → FuncRegs) (s : State) : (setFunc p l n f s).net = s.net := rfl
@[simp] theorem setFunc_mgmt (p l n : Nat) (f : FuncRegs → FuncRegs) (s : State) : (setFunc p l n f s).mgmt = s.mgmt := rfl
@[simp] theorem setFunc_splice (p l n : Nat) (f : FuncRegs → FuncRegs) (s : State) : (setFunc p l n f s).splice = s.splice := rfl
@[simp] theorem setFunc_faults (p l n : Nat) (f : FuncRegs → FuncRegs) (s : State) : (setFunc p l n f s).faults = s.faults := rfl
@[simp] theorem setFunc_host_links (p l n : Nat) (f : FuncRegs → FuncRegs) (s : State) : (setFunc p l n f s).host.links = s.host.links := rfl
@[simp] theorem setFunc_host_rings (p l n : Nat) (f : FuncRegs → FuncRegs) (s : State) : (setFunc p l n f s).host.rings = s.host.rings := rfl
@[simp] theorem setFunc_host_windows (p l n : Nat) (f : FuncRegs → FuncRegs) (s : State) : (setFunc p l n f s).host.windows = s.host.windows := rfl

/-! ## setLink -/

@[simp] theorem setLink_pending (p l : Nat) (f : HostLink → HostLink) (s : State) : (setLink p l f s).pending = s.pending := rfl
@[simp] theorem setLink_out (p l : Nat) (f : HostLink → HostLink) (s : State) : (setLink p l f s).out = s.out := rfl
@[simp] theorem setLink_free (p l : Nat) (f : HostLink → HostLink) (s : State) : (setLink p l f s).free = s.free := rfl
@[simp] theorem setLink_clk (p l : Nat) (f : HostLink → HostLink) (s : State) : (setLink p l f s).clk = s.clk := rfl
@[simp] theorem setLink_power (p l : Nat) (f : HostLink → HostLink) (s : State) : (setLink p l f s).power = s.power := rfl
@[simp] theorem setLink_boot (p l : Nat) (f : HostLink → HostLink) (s : State) : (setLink p l f s).boot = s.boot := rfl
@[simp] theorem setLink_sec (p l : Nat) (f : HostLink → HostLink) (s : State) : (setLink p l f s).sec = s.sec := rfl
@[simp] theorem setLink_cfg (p l : Nat) (f : HostLink → HostLink) (s : State) : (setLink p l f s).cfg = s.cfg := rfl
@[simp] theorem setLink_persist (p l : Nat) (f : HostLink → HostLink) (s : State) : (setLink p l f s).persist = s.persist := rfl
@[simp] theorem setLink_jobs (p l : Nat) (f : HostLink → HostLink) (s : State) : (setLink p l f s).jobs = s.jobs := rfl
@[simp] theorem setLink_index (p l : Nat) (f : HostLink → HostLink) (s : State) : (setLink p l f s).index = s.index := rfl
@[simp] theorem setLink_marr (p l : Nat) (f : HostLink → HostLink) (s : State) : (setLink p l f s).marr = s.marr := rfl
@[simp] theorem setLink_tiers (p l : Nat) (f : HostLink → HostLink) (s : State) : (setLink p l f s).tiers = s.tiers := rfl
@[simp] theorem setLink_eng (p l : Nat) (f : HostLink → HostLink) (s : State) : (setLink p l f s).eng = s.eng := rfl
@[simp] theorem setLink_flash (p l : Nat) (f : HostLink → HostLink) (s : State) : (setLink p l f s).flash = s.flash := rfl
@[simp] theorem setLink_net (p l : Nat) (f : HostLink → HostLink) (s : State) : (setLink p l f s).net = s.net := rfl
@[simp] theorem setLink_mgmt (p l : Nat) (f : HostLink → HostLink) (s : State) : (setLink p l f s).mgmt = s.mgmt := rfl
@[simp] theorem setLink_splice (p l : Nat) (f : HostLink → HostLink) (s : State) : (setLink p l f s).splice = s.splice := rfl
@[simp] theorem setLink_faults (p l : Nat) (f : HostLink → HostLink) (s : State) : (setLink p l f s).faults = s.faults := rfl
@[simp] theorem setLink_host_funcs (p l : Nat) (f : HostLink → HostLink) (s : State) : (setLink p l f s).host.funcs = s.host.funcs := rfl
@[simp] theorem setLink_host_rings (p l : Nat) (f : HostLink → HostLink) (s : State) : (setLink p l f s).host.rings = s.host.rings := rfl
@[simp] theorem setLink_host_windows (p l : Nat) (f : HostLink → HostLink) (s : State) : (setLink p l f s).host.windows = s.host.windows := rfl

/-! ## setWindow -/

@[simp] theorem setWindow_pending (p : Nat) (f : HostWindow → HostWindow) (s : State) : (setWindow p f s).pending = s.pending := rfl
@[simp] theorem setWindow_out (p : Nat) (f : HostWindow → HostWindow) (s : State) : (setWindow p f s).out = s.out := rfl
@[simp] theorem setWindow_free (p : Nat) (f : HostWindow → HostWindow) (s : State) : (setWindow p f s).free = s.free := rfl
@[simp] theorem setWindow_clk (p : Nat) (f : HostWindow → HostWindow) (s : State) : (setWindow p f s).clk = s.clk := rfl
@[simp] theorem setWindow_power (p : Nat) (f : HostWindow → HostWindow) (s : State) : (setWindow p f s).power = s.power := rfl
@[simp] theorem setWindow_boot (p : Nat) (f : HostWindow → HostWindow) (s : State) : (setWindow p f s).boot = s.boot := rfl
@[simp] theorem setWindow_sec (p : Nat) (f : HostWindow → HostWindow) (s : State) : (setWindow p f s).sec = s.sec := rfl
@[simp] theorem setWindow_cfg (p : Nat) (f : HostWindow → HostWindow) (s : State) : (setWindow p f s).cfg = s.cfg := rfl
@[simp] theorem setWindow_persist (p : Nat) (f : HostWindow → HostWindow) (s : State) : (setWindow p f s).persist = s.persist := rfl
@[simp] theorem setWindow_jobs (p : Nat) (f : HostWindow → HostWindow) (s : State) : (setWindow p f s).jobs = s.jobs := rfl
@[simp] theorem setWindow_index (p : Nat) (f : HostWindow → HostWindow) (s : State) : (setWindow p f s).index = s.index := rfl
@[simp] theorem setWindow_marr (p : Nat) (f : HostWindow → HostWindow) (s : State) : (setWindow p f s).marr = s.marr := rfl
@[simp] theorem setWindow_tiers (p : Nat) (f : HostWindow → HostWindow) (s : State) : (setWindow p f s).tiers = s.tiers := rfl
@[simp] theorem setWindow_eng (p : Nat) (f : HostWindow → HostWindow) (s : State) : (setWindow p f s).eng = s.eng := rfl
@[simp] theorem setWindow_flash (p : Nat) (f : HostWindow → HostWindow) (s : State) : (setWindow p f s).flash = s.flash := rfl
@[simp] theorem setWindow_net (p : Nat) (f : HostWindow → HostWindow) (s : State) : (setWindow p f s).net = s.net := rfl
@[simp] theorem setWindow_mgmt (p : Nat) (f : HostWindow → HostWindow) (s : State) : (setWindow p f s).mgmt = s.mgmt := rfl
@[simp] theorem setWindow_splice (p : Nat) (f : HostWindow → HostWindow) (s : State) : (setWindow p f s).splice = s.splice := rfl
@[simp] theorem setWindow_faults (p : Nat) (f : HostWindow → HostWindow) (s : State) : (setWindow p f s).faults = s.faults := rfl
@[simp] theorem setWindow_host_links (p : Nat) (f : HostWindow → HostWindow) (s : State) : (setWindow p f s).host.links = s.host.links := rfl
@[simp] theorem setWindow_host_funcs (p : Nat) (f : HostWindow → HostWindow) (s : State) : (setWindow p f s).host.funcs = s.host.funcs := rfl
@[simp] theorem setWindow_host_rings (p : Nat) (f : HostWindow → HostWindow) (s : State) : (setWindow p f s).host.rings = s.host.rings := rfl

/-! ## setSplice -/

@[simp] theorem setSplice_pending (n : Nat) (f : SplicePort → SplicePort) (s : State) : (setSplice n f s).pending = s.pending := rfl
@[simp] theorem setSplice_out (n : Nat) (f : SplicePort → SplicePort) (s : State) : (setSplice n f s).out = s.out := rfl
@[simp] theorem setSplice_free (n : Nat) (f : SplicePort → SplicePort) (s : State) : (setSplice n f s).free = s.free := rfl
@[simp] theorem setSplice_clk (n : Nat) (f : SplicePort → SplicePort) (s : State) : (setSplice n f s).clk = s.clk := rfl
@[simp] theorem setSplice_power (n : Nat) (f : SplicePort → SplicePort) (s : State) : (setSplice n f s).power = s.power := rfl
@[simp] theorem setSplice_boot (n : Nat) (f : SplicePort → SplicePort) (s : State) : (setSplice n f s).boot = s.boot := rfl
@[simp] theorem setSplice_sec (n : Nat) (f : SplicePort → SplicePort) (s : State) : (setSplice n f s).sec = s.sec := rfl
@[simp] theorem setSplice_cfg (n : Nat) (f : SplicePort → SplicePort) (s : State) : (setSplice n f s).cfg = s.cfg := rfl
@[simp] theorem setSplice_persist (n : Nat) (f : SplicePort → SplicePort) (s : State) : (setSplice n f s).persist = s.persist := rfl
@[simp] theorem setSplice_jobs (n : Nat) (f : SplicePort → SplicePort) (s : State) : (setSplice n f s).jobs = s.jobs := rfl
@[simp] theorem setSplice_index (n : Nat) (f : SplicePort → SplicePort) (s : State) : (setSplice n f s).index = s.index := rfl
@[simp] theorem setSplice_marr (n : Nat) (f : SplicePort → SplicePort) (s : State) : (setSplice n f s).marr = s.marr := rfl
@[simp] theorem setSplice_tiers (n : Nat) (f : SplicePort → SplicePort) (s : State) : (setSplice n f s).tiers = s.tiers := rfl
@[simp] theorem setSplice_eng (n : Nat) (f : SplicePort → SplicePort) (s : State) : (setSplice n f s).eng = s.eng := rfl
@[simp] theorem setSplice_flash (n : Nat) (f : SplicePort → SplicePort) (s : State) : (setSplice n f s).flash = s.flash := rfl
@[simp] theorem setSplice_net (n : Nat) (f : SplicePort → SplicePort) (s : State) : (setSplice n f s).net = s.net := rfl
@[simp] theorem setSplice_host (n : Nat) (f : SplicePort → SplicePort) (s : State) : (setSplice n f s).host = s.host := rfl
@[simp] theorem setSplice_mgmt (n : Nat) (f : SplicePort → SplicePort) (s : State) : (setSplice n f s).mgmt = s.mgmt := rfl
@[simp] theorem setSplice_faults (n : Nat) (f : SplicePort → SplicePort) (s : State) : (setSplice n f s).faults = s.faults := rfl
@[simp] theorem setSplice_splice_counters (n : Nat) (f : SplicePort → SplicePort) (s : State) : (setSplice n f s).splice.counters = s.splice.counters := rfl

/-! ## countFault -/

@[simp] theorem countFault_pending (i n : Nat) (s : State) : (countFault i n s).pending = s.pending := rfl
@[simp] theorem countFault_out (i n : Nat) (s : State) : (countFault i n s).out = s.out := rfl
@[simp] theorem countFault_free (i n : Nat) (s : State) : (countFault i n s).free = s.free := rfl
@[simp] theorem countFault_clk (i n : Nat) (s : State) : (countFault i n s).clk = s.clk := rfl
@[simp] theorem countFault_power (i n : Nat) (s : State) : (countFault i n s).power = s.power := rfl
@[simp] theorem countFault_boot (i n : Nat) (s : State) : (countFault i n s).boot = s.boot := rfl
@[simp] theorem countFault_sec (i n : Nat) (s : State) : (countFault i n s).sec = s.sec := rfl
@[simp] theorem countFault_cfg (i n : Nat) (s : State) : (countFault i n s).cfg = s.cfg := rfl
@[simp] theorem countFault_persist (i n : Nat) (s : State) : (countFault i n s).persist = s.persist := rfl
@[simp] theorem countFault_jobs (i n : Nat) (s : State) : (countFault i n s).jobs = s.jobs := rfl
@[simp] theorem countFault_index (i n : Nat) (s : State) : (countFault i n s).index = s.index := rfl
@[simp] theorem countFault_marr (i n : Nat) (s : State) : (countFault i n s).marr = s.marr := rfl
@[simp] theorem countFault_tiers (i n : Nat) (s : State) : (countFault i n s).tiers = s.tiers := rfl
@[simp] theorem countFault_eng (i n : Nat) (s : State) : (countFault i n s).eng = s.eng := rfl
@[simp] theorem countFault_flash (i n : Nat) (s : State) : (countFault i n s).flash = s.flash := rfl
@[simp] theorem countFault_net (i n : Nat) (s : State) : (countFault i n s).net = s.net := rfl
@[simp] theorem countFault_host (i n : Nat) (s : State) : (countFault i n s).host = s.host := rfl
@[simp] theorem countFault_mgmt (i n : Nat) (s : State) : (countFault i n s).mgmt = s.mgmt := rfl
@[simp] theorem countFault_splice (i n : Nat) (s : State) : (countFault i n s).splice = s.splice := rfl
@[simp] theorem countFault_faults_spareMap (i n : Nat) (s : State) : (countFault i n s).faults.spareMap = s.faults.spareMap := rfl
@[simp] theorem countFault_faults_failedUnits (i n : Nat) (s : State) : (countFault i n s).faults.failedUnits = s.faults.failedUnits := rfl
@[simp] theorem countFault_faults_badSlots (i n : Nat) (s : State) : (countFault i n s).faults.badSlots = s.faults.badSlots := rfl

/-! ## countFlash -/

@[simp] theorem countFlash_pending (i n : Nat) (s : State) : (countFlash i n s).pending = s.pending := rfl
@[simp] theorem countFlash_out (i n : Nat) (s : State) : (countFlash i n s).out = s.out := rfl
@[simp] theorem countFlash_free (i n : Nat) (s : State) : (countFlash i n s).free = s.free := rfl
@[simp] theorem countFlash_clk (i n : Nat) (s : State) : (countFlash i n s).clk = s.clk := rfl
@[simp] theorem countFlash_power (i n : Nat) (s : State) : (countFlash i n s).power = s.power := rfl
@[simp] theorem countFlash_boot (i n : Nat) (s : State) : (countFlash i n s).boot = s.boot := rfl
@[simp] theorem countFlash_sec (i n : Nat) (s : State) : (countFlash i n s).sec = s.sec := rfl
@[simp] theorem countFlash_cfg (i n : Nat) (s : State) : (countFlash i n s).cfg = s.cfg := rfl
@[simp] theorem countFlash_jobs (i n : Nat) (s : State) : (countFlash i n s).jobs = s.jobs := rfl
@[simp] theorem countFlash_index (i n : Nat) (s : State) : (countFlash i n s).index = s.index := rfl
@[simp] theorem countFlash_marr (i n : Nat) (s : State) : (countFlash i n s).marr = s.marr := rfl
@[simp] theorem countFlash_tiers (i n : Nat) (s : State) : (countFlash i n s).tiers = s.tiers := rfl
@[simp] theorem countFlash_eng (i n : Nat) (s : State) : (countFlash i n s).eng = s.eng := rfl
@[simp] theorem countFlash_flash (i n : Nat) (s : State) : (countFlash i n s).flash = s.flash := rfl
@[simp] theorem countFlash_net (i n : Nat) (s : State) : (countFlash i n s).net = s.net := rfl
@[simp] theorem countFlash_host (i n : Nat) (s : State) : (countFlash i n s).host = s.host := rfl
@[simp] theorem countFlash_mgmt (i n : Nat) (s : State) : (countFlash i n s).mgmt = s.mgmt := rfl
@[simp] theorem countFlash_splice (i n : Nat) (s : State) : (countFlash i n s).splice = s.splice := rfl
@[simp] theorem countFlash_faults (i n : Nat) (s : State) : (countFlash i n s).faults = s.faults := rfl
@[simp] theorem countFlash_persist_formatted (i n : Nat) (s : State) : (countFlash i n s).persist.formatted = s.persist.formatted := rfl
@[simp] theorem countFlash_persist_erased (i n : Nat) (s : State) : (countFlash i n s).persist.erased = s.persist.erased := rfl
@[simp] theorem countFlash_persist_config (i n : Nat) (s : State) : (countFlash i n s).persist.config = s.persist.config := rfl
@[simp] theorem countFlash_persist_resetGen (i n : Nat) (s : State) : (countFlash i n s).persist.resetGen = s.persist.resetGen := rfl
@[simp] theorem countFlash_persist_root (i n : Nat) (s : State) : (countFlash i n s).persist.root = s.persist.root := rfl
@[simp] theorem countFlash_persist_epochs (i n : Nat) (s : State) : (countFlash i n s).persist.epochs = s.persist.epochs := rfl
@[simp] theorem countFlash_persist_variants (i n : Nat) (s : State) : (countFlash i n s).persist.variants = s.persist.variants := rfl
@[simp] theorem countFlash_persist_weights (i n : Nat) (s : State) : (countFlash i n s).persist.weights = s.persist.weights := rfl
@[simp] theorem countFlash_persist_spareMap (i n : Nat) (s : State) : (countFlash i n s).persist.spareMap = s.persist.spareMap := rfl
@[simp] theorem countFlash_persist_checkpoint (i n : Nat) (s : State) : (countFlash i n s).persist.checkpoint = s.persist.checkpoint := rfl
@[simp] theorem countFlash_persist_journal (i n : Nat) (s : State) : (countFlash i n s).persist.journal = s.persist.journal := rfl
@[simp] theorem countFlash_persist_directory (i n : Nat) (s : State) : (countFlash i n s).persist.directory = s.persist.directory := rfl
@[simp] theorem countFlash_persist_writeSeq (i n : Nat) (s : State) : (countFlash i n s).persist.writeSeq = s.persist.writeSeq := rfl
@[simp] theorem countFlash_persist_writeNo (i n : Nat) (s : State) : (countFlash i n s).persist.writeNo = s.persist.writeNo := rfl
@[simp] theorem countFlash_persist_credit (i n : Nat) (s : State) : (countFlash i n s).persist.credit = s.persist.credit := rfl
@[simp] theorem countFlash_persist_theta (i n : Nat) (s : State) : (countFlash i n s).persist.theta = s.persist.theta := rfl
@[simp] theorem countFlash_persist_usable (i n : Nat) (s : State) : (countFlash i n s).persist.usable = s.persist.usable := rfl
@[simp] theorem countFlash_persist_faults (i n : Nat) (s : State) : (countFlash i n s).persist.faults = s.persist.faults := rfl
@[simp] theorem countFlash_persist_unflushed (i n : Nat) (s : State) : (countFlash i n s).persist.unflushed = s.persist.unflushed := rfl
@[simp] theorem countFlash_persist_deadDies (i n : Nat) (s : State) : (countFlash i n s).persist.deadDies = s.persist.deadDies := rfl
@[simp] theorem countFlash_persist_journalSeq (i n : Nat) (s : State) : (countFlash i n s).persist.journalSeq = s.persist.journalSeq := rfl

/-! ## countSplice -/

@[simp] theorem countSplice_pending (i : Nat) (s : State) : (countSplice i s).pending = s.pending := rfl
@[simp] theorem countSplice_out (i : Nat) (s : State) : (countSplice i s).out = s.out := rfl
@[simp] theorem countSplice_free (i : Nat) (s : State) : (countSplice i s).free = s.free := rfl
@[simp] theorem countSplice_clk (i : Nat) (s : State) : (countSplice i s).clk = s.clk := rfl
@[simp] theorem countSplice_power (i : Nat) (s : State) : (countSplice i s).power = s.power := rfl
@[simp] theorem countSplice_boot (i : Nat) (s : State) : (countSplice i s).boot = s.boot := rfl
@[simp] theorem countSplice_sec (i : Nat) (s : State) : (countSplice i s).sec = s.sec := rfl
@[simp] theorem countSplice_cfg (i : Nat) (s : State) : (countSplice i s).cfg = s.cfg := rfl
@[simp] theorem countSplice_persist (i : Nat) (s : State) : (countSplice i s).persist = s.persist := rfl
@[simp] theorem countSplice_jobs (i : Nat) (s : State) : (countSplice i s).jobs = s.jobs := rfl
@[simp] theorem countSplice_index (i : Nat) (s : State) : (countSplice i s).index = s.index := rfl
@[simp] theorem countSplice_marr (i : Nat) (s : State) : (countSplice i s).marr = s.marr := rfl
@[simp] theorem countSplice_tiers (i : Nat) (s : State) : (countSplice i s).tiers = s.tiers := rfl
@[simp] theorem countSplice_eng (i : Nat) (s : State) : (countSplice i s).eng = s.eng := rfl
@[simp] theorem countSplice_flash (i : Nat) (s : State) : (countSplice i s).flash = s.flash := rfl
@[simp] theorem countSplice_net (i : Nat) (s : State) : (countSplice i s).net = s.net := rfl
@[simp] theorem countSplice_host (i : Nat) (s : State) : (countSplice i s).host = s.host := rfl
@[simp] theorem countSplice_mgmt (i : Nat) (s : State) : (countSplice i s).mgmt = s.mgmt := rfl
@[simp] theorem countSplice_faults (i : Nat) (s : State) : (countSplice i s).faults = s.faults := rfl
@[simp] theorem countSplice_splice_ports (i : Nat) (s : State) : (countSplice i s).splice.ports = s.splice.ports := rfl

/-! ## countPort -/

@[simp] theorem countPort_pending (p i n : Nat) (s : State) : (countPort p i n s).pending = s.pending := rfl
@[simp] theorem countPort_out (p i n : Nat) (s : State) : (countPort p i n s).out = s.out := rfl
@[simp] theorem countPort_free (p i n : Nat) (s : State) : (countPort p i n s).free = s.free := rfl
@[simp] theorem countPort_clk (p i n : Nat) (s : State) : (countPort p i n s).clk = s.clk := rfl
@[simp] theorem countPort_power (p i n : Nat) (s : State) : (countPort p i n s).power = s.power := rfl
@[simp] theorem countPort_boot (p i n : Nat) (s : State) : (countPort p i n s).boot = s.boot := rfl
@[simp] theorem countPort_sec (p i n : Nat) (s : State) : (countPort p i n s).sec = s.sec := rfl
@[simp] theorem countPort_cfg (p i n : Nat) (s : State) : (countPort p i n s).cfg = s.cfg := rfl
@[simp] theorem countPort_persist (p i n : Nat) (s : State) : (countPort p i n s).persist = s.persist := rfl
@[simp] theorem countPort_jobs (p i n : Nat) (s : State) : (countPort p i n s).jobs = s.jobs := rfl
@[simp] theorem countPort_index (p i n : Nat) (s : State) : (countPort p i n s).index = s.index := rfl
@[simp] theorem countPort_marr (p i n : Nat) (s : State) : (countPort p i n s).marr = s.marr := rfl
@[simp] theorem countPort_tiers (p i n : Nat) (s : State) : (countPort p i n s).tiers = s.tiers := rfl
@[simp] theorem countPort_eng (p i n : Nat) (s : State) : (countPort p i n s).eng = s.eng := rfl
@[simp] theorem countPort_flash (p i n : Nat) (s : State) : (countPort p i n s).flash = s.flash := rfl
@[simp] theorem countPort_host (p i n : Nat) (s : State) : (countPort p i n s).host = s.host := rfl
@[simp] theorem countPort_mgmt (p i n : Nat) (s : State) : (countPort p i n s).mgmt = s.mgmt := rfl
@[simp] theorem countPort_splice (p i n : Nat) (s : State) : (countPort p i n s).splice = s.splice := rfl
@[simp] theorem countPort_faults (p i n : Nat) (s : State) : (countPort p i n s).faults = s.faults := rfl
@[simp] theorem countPort_net_eports (p i n : Nat) (s : State) : (countPort p i n s).net.eports = s.net.eports := rfl
@[simp] theorem countPort_net_qps (p i n : Nat) (s : State) : (countPort p i n s).net.qps = s.net.qps := rfl
@[simp] theorem countPort_net_qpPool (p i n : Nat) (s : State) : (countPort p i n s).net.qpPool = s.net.qpPool := rfl
@[simp] theorem countPort_net_useClock (p i n : Nat) (s : State) : (countPort p i n s).net.useClock = s.net.useClock := rfl

/-! ## putBand -/

@[simp] theorem putBand_pending (b : Band) (s : State) : (putBand b s).pending = s.pending := rfl
@[simp] theorem putBand_out (b : Band) (s : State) : (putBand b s).out = s.out := rfl
@[simp] theorem putBand_free (b : Band) (s : State) : (putBand b s).free = s.free := rfl
@[simp] theorem putBand_clk (b : Band) (s : State) : (putBand b s).clk = s.clk := rfl
@[simp] theorem putBand_power (b : Band) (s : State) : (putBand b s).power = s.power := rfl
@[simp] theorem putBand_boot (b : Band) (s : State) : (putBand b s).boot = s.boot := rfl
@[simp] theorem putBand_sec (b : Band) (s : State) : (putBand b s).sec = s.sec := rfl
@[simp] theorem putBand_cfg (b : Band) (s : State) : (putBand b s).cfg = s.cfg := rfl
@[simp] theorem putBand_persist (b : Band) (s : State) : (putBand b s).persist = s.persist := rfl
@[simp] theorem putBand_jobs (b : Band) (s : State) : (putBand b s).jobs = s.jobs := rfl
@[simp] theorem putBand_index (b : Band) (s : State) : (putBand b s).index = s.index := rfl
@[simp] theorem putBand_marr (b : Band) (s : State) : (putBand b s).marr = s.marr := rfl
@[simp] theorem putBand_tiers (b : Band) (s : State) : (putBand b s).tiers = s.tiers := rfl
@[simp] theorem putBand_eng (b : Band) (s : State) : (putBand b s).eng = s.eng := rfl
@[simp] theorem putBand_net (b : Band) (s : State) : (putBand b s).net = s.net := rfl
@[simp] theorem putBand_host (b : Band) (s : State) : (putBand b s).host = s.host := rfl
@[simp] theorem putBand_mgmt (b : Band) (s : State) : (putBand b s).mgmt = s.mgmt := rfl
@[simp] theorem putBand_splice (b : Band) (s : State) : (putBand b s).splice = s.splice := rfl
@[simp] theorem putBand_faults (b : Band) (s : State) : (putBand b s).faults = s.faults := rfl
@[simp] theorem putBand_flash_map (b : Band) (s : State) : (putBand b s).flash.map = s.flash.map := rfl
@[simp] theorem putBand_flash_programs (b : Band) (s : State) : (putBand b s).flash.programs = s.flash.programs := rfl
@[simp] theorem putBand_flash_waiting (b : Band) (s : State) : (putBand b s).flash.waiting = s.flash.waiting := rfl
@[simp] theorem putBand_flash_nextProgram (b : Band) (s : State) : (putBand b s).flash.nextProgram = s.flash.nextProgram := rfl
@[simp] theorem putBand_flash_assembling (b : Band) (s : State) : (putBand b s).flash.assembling = s.flash.assembling := rfl
@[simp] theorem putBand_flash_cursor (b : Band) (s : State) : (putBand b s).flash.cursor = s.flash.cursor := rfl
@[simp] theorem putBand_flash_writeSeq (b : Band) (s : State) : (putBand b s).flash.writeSeq = s.flash.writeSeq := rfl
@[simp] theorem putBand_flash_pendingRecs (b : Band) (s : State) : (putBand b s).flash.pendingRecs = s.flash.pendingRecs := rfl
@[simp] theorem putBand_flash_flushing (b : Band) (s : State) : (putBand b s).flash.flushing = s.flash.flushing := rfl
@[simp] theorem putBand_flash_trimmed (b : Band) (s : State) : (putBand b s).flash.trimmed = s.flash.trimmed := rfl
@[simp] theorem putBand_flash_mapRecs (b : Band) (s : State) : (putBand b s).flash.mapRecs = s.flash.mapRecs := rfl
@[simp] theorem putBand_flash_dataBytes (b : Band) (s : State) : (putBand b s).flash.dataBytes = s.flash.dataBytes := rfl
@[simp] theorem putBand_flash_markerDue (b : Band) (s : State) : (putBand b s).flash.markerDue = s.flash.markerDue := rfl
@[simp] theorem putBand_flash_dirtySegs (b : Band) (s : State) : (putBand b s).flash.dirtySegs = s.flash.dirtySegs := rfl
@[simp] theorem putBand_flash_gcVictim (b : Band) (s : State) : (putBand b s).flash.gcVictim = s.flash.gcVictim := rfl
@[simp] theorem putBand_flash_gcLeft (b : Band) (s : State) : (putBand b s).flash.gcLeft = s.flash.gcLeft := rfl
@[simp] theorem putBand_flash_gcInFlush (b : Band) (s : State) : (putBand b s).flash.gcInFlush = s.flash.gcInFlush := rfl
@[simp] theorem putBand_flash_gcFlushed (b : Band) (s : State) : (putBand b s).flash.gcFlushed = s.flash.gcFlushed := rfl
@[simp] theorem putBand_flash_reads (b : Band) (s : State) : (putBand b s).flash.reads = s.flash.reads := rfl
@[simp] theorem putBand_flash_retired (b : Band) (s : State) : (putBand b s).flash.retired = s.flash.retired := rfl
@[simp] theorem putBand_flash_retiredWindow (b : Band) (s : State) : (putBand b s).flash.retiredWindow = s.flash.retiredWindow := rfl
@[simp] theorem putBand_flash_ops (b : Band) (s : State) : (putBand b s).flash.ops = s.flash.ops := rfl
@[simp] theorem putBand_flash_nextOp (b : Band) (s : State) : (putBand b s).flash.nextOp = s.flash.nextOp := rfl
@[simp] theorem putBand_flash_nandFloor (b : Band) (s : State) : (putBand b s).flash.nandFloor = s.flash.nandFloor := rfl

/-! ## putEngine -/

@[simp] theorem putEngine_pending (k : EngineKind) (e : Engine) (s : State) : (putEngine k e s).pending = s.pending := by cases k <;> rfl
@[simp] theorem putEngine_out (k : EngineKind) (e : Engine) (s : State) : (putEngine k e s).out = s.out := by cases k <;> rfl
@[simp] theorem putEngine_free (k : EngineKind) (e : Engine) (s : State) : (putEngine k e s).free = s.free := by cases k <;> rfl
@[simp] theorem putEngine_clk (k : EngineKind) (e : Engine) (s : State) : (putEngine k e s).clk = s.clk := by cases k <;> rfl
@[simp] theorem putEngine_power (k : EngineKind) (e : Engine) (s : State) : (putEngine k e s).power = s.power := by cases k <;> rfl
@[simp] theorem putEngine_boot (k : EngineKind) (e : Engine) (s : State) : (putEngine k e s).boot = s.boot := by cases k <;> rfl
@[simp] theorem putEngine_sec (k : EngineKind) (e : Engine) (s : State) : (putEngine k e s).sec = s.sec := by cases k <;> rfl
@[simp] theorem putEngine_cfg (k : EngineKind) (e : Engine) (s : State) : (putEngine k e s).cfg = s.cfg := by cases k <;> rfl
@[simp] theorem putEngine_persist (k : EngineKind) (e : Engine) (s : State) : (putEngine k e s).persist = s.persist := by cases k <;> rfl
@[simp] theorem putEngine_jobs (k : EngineKind) (e : Engine) (s : State) : (putEngine k e s).jobs = s.jobs := by cases k <;> rfl
@[simp] theorem putEngine_index (k : EngineKind) (e : Engine) (s : State) : (putEngine k e s).index = s.index := by cases k <;> rfl
@[simp] theorem putEngine_marr (k : EngineKind) (e : Engine) (s : State) : (putEngine k e s).marr = s.marr := by cases k <;> rfl
@[simp] theorem putEngine_tiers (k : EngineKind) (e : Engine) (s : State) : (putEngine k e s).tiers = s.tiers := by cases k <;> rfl
@[simp] theorem putEngine_flash (k : EngineKind) (e : Engine) (s : State) : (putEngine k e s).flash = s.flash := by cases k <;> rfl
@[simp] theorem putEngine_net (k : EngineKind) (e : Engine) (s : State) : (putEngine k e s).net = s.net := by cases k <;> rfl
@[simp] theorem putEngine_host (k : EngineKind) (e : Engine) (s : State) : (putEngine k e s).host = s.host := by cases k <;> rfl
@[simp] theorem putEngine_mgmt (k : EngineKind) (e : Engine) (s : State) : (putEngine k e s).mgmt = s.mgmt := by cases k <;> rfl
@[simp] theorem putEngine_splice (k : EngineKind) (e : Engine) (s : State) : (putEngine k e s).splice = s.splice := by cases k <;> rfl
@[simp] theorem putEngine_faults (k : EngineKind) (e : Engine) (s : State) : (putEngine k e s).faults = s.faults := by cases k <;> rfl

/-! ## What an update writes -/

@[simp] theorem emit_out (o : Output) (s : State) : (emit o s).out = s.out ++ [dressed s o] := rfl
@[simp] theorem tick_slate (s : State) : (tick s).clk.slate = s.clk.slate + 1 := rfl
@[simp] theorem setPower_power (f : Power → Power) (s : State) : (setPower f s).power = f s.power := rfl

/-- An update where `p` holds keeps what `p` reads, when `f` does: the first hit is the updated one. -/
theorem find?_updWhere {α : Type} (p : α → Bool) (f : α → α) (hf : ∀ x, p x = true → p (f x) = true) (l : List α) :
    (updWhere p f l).find? p = (l.find? p).map f := by
  induction l with
  | nil => rfl
  | cons x t ih =>
    unfold updWhere at ih ⊢
    cases hx : p x with
    | true => simp [hx, hf x hx]
    | false => simp [hx, ih]

/-- An update elsewhere does not change what is found. -/
theorem find?_updWhere_of_ne {α : Type} (p q : α → Bool) (f : α → α) (h : ∀ x, q x = true → p x = false)
    (hf : ∀ x, q x = true → p (f x) = false) (l : List α) : (updWhere q f l).find? p = l.find? p := by
  induction l with
  | nil => rfl
  | cons x t ih =>
    unfold updWhere at ih ⊢
    cases hx : q x with
    | true => simp [hx, hf x hx, h x hx, ih]
    | false => cases hp : p x <;> simp [hx, hp, ih]

theorem length_updWhere {α : Type} (p : α → Bool) (f : α → α) (l : List α) : (updWhere p f l).length = l.length := by
  simp [updWhere]

/-! ## Lists in order -/

theorem mem_insertBy {α : Type} (lt : α → α → Bool) (x y : α) : ∀ l : List α, y ∈ insertBy lt x l ↔ y = x ∨ y ∈ l
  | [] => by simp [insertBy]
  | a :: l => by
    unfold insertBy
    split
    · simp
    · rw [List.mem_cons, mem_insertBy lt x y l, List.mem_cons]
      exact or_left_comm

theorem mem_sortBy {α : Type} (lt : α → α → Bool) (l : List α) (y : α) : y ∈ sortBy lt l ↔ y ∈ l := by
  have key : ∀ (l acc : List α), y ∈ l.foldl (fun acc x => insertBy lt x acc) acc ↔ y ∈ acc ∨ y ∈ l := by
    intro l
    induction l with
    | nil => simp
    | cons a t ih =>
      intro acc
      rw [List.foldl_cons, ih, mem_insertBy, List.mem_cons, or_assoc]
      exact or_left_comm
  simpa [sortBy] using key l []

/-- Fewer elements pass `q` than `p` when `q` asks more and one that passes `p` fails it. -/
theorem length_filter_lt {α : Type} {p q : α → Bool} (hpq : ∀ x, q x = true → p x = true) {a : α} (hp : p a = true) (hq : q a = false) :
    ∀ {l : List α}, a ∈ l → (l.filter q).length < (l.filter p).length
  | x :: l, h => by
    have hle : (l.filter q).length ≤ (l.filter p).length := by
      rw [← List.countP_eq_length_filter, ← List.countP_eq_length_filter]
      exact List.countP_mono_left fun x _ => hpq x
    rcases List.mem_cons.mp h with rfl | hm
    · simp [hp, hq]; omega
    · have := length_filter_lt hpq hp hq hm
      cases hx : q x with
      | true => simp [hx, hpq x hx]; omega
      | false => cases hy : p x <;> simp [hx, hy] <;> omega

/-! ## How a step ends -/

theorem finish_eq (s u : State) : finish s u = .next (settled s u) := rfl

/-- A meaning that ends in `u` answers the state that `u` settles to. -/
theorem finish_of_eq {s u v : State} (h : u = v) : finish s u = .next (settled s v) := h ▸ rfl

@[simp] theorem settled_pending (s u : State) : (settled s u).pending = s.pending := by simp only [settled]

end Sys2Proof.Machine
end

