-- ==== Sys2Proof/Laws/Engines.lean ====
section
/-! SUPPORT. The dispatch of units (R319 to R322): all that it may change, once, for every component of the state. -/
namespace Sys2Proof.Machine

theorem DispatchOnly.refl (s : State) : DispatchOnly s s := rfl

theorem DispatchOnly.trans {s t u : State} (h : DispatchOnly s t) (h2 : DispatchOnly t u) : DispatchOnly s u := by
  unfold DispatchOnly at *
  rw [h2, h]

theorem dispatchOnly_pending {u v : State} (h : DispatchOnly u v) (p : List Instr) :
    DispatchOnly { u with pending := p } { v with pending := p } := by
  unfold DispatchOnly at *
  rw [h]

theorem putEngine_dispatchOnly (k : EngineKind) (e : Engine) (s : State) : DispatchOnly s (putEngine k e s) := by
  cases k <;> rfl

theorem putCredits_dispatchOnly (k : EngineKind) (p : Pool) (s : State) : DispatchOnly s (putCredits k p s) := by
  cases k <;> rfl

theorem setUse_dispatchOnly (t : Nat) (f : TenantUse → TenantUse) (s : State) : DispatchOnly s (setUse t f s) := rfl

theorem setQp_dispatchOnly (q : Nat) (f : Qp → Qp) (s : State) : DispatchOnly s (setQp q f s) := rfl

theorem foldl_dispatchOnly {α : Type} (f : State → α → State) (hf : ∀ s a, DispatchOnly s (f s a)) (l : List α) (s : State) :
    DispatchOnly s (l.foldl f s) := by
  induction l generalizing s with
  | nil => exact .refl s
  | cons a t ih => exact (hf s a).trans (ih (f s a))

theorem chargeAttend_dispatchOnly (b : Nat) (s : State) : DispatchOnly s (chargeAttend b s) := by
  unfold chargeAttend
  split
  · exact .refl s
  · refine foldl_dispatchOnly _ (fun s m => ?_) _ s
    split
    · exact .refl s
    · exact setUse_dispatchOnly _ _ s

theorem beginSb_dispatchOnly (p : Storyboard → Bool) (s : State) : DispatchOnly s (beginSb p s) := rfl

theorem loadWeights_dispatchOnly (k : EngineKind) (i : Nat) (u : EUnit) (s : State) : DispatchOnly s (loadWeights k i u s) := by
  unfold loadWeights
  split <;> rfl

theorem atDispatch_dispatchOnly (u : EUnit) (s : State) : DispatchOnly s (atDispatch u s) := by
  unfold atDispatch
  split
  · exact chargeAttend_dispatchOnly _ s
  · exact setQp_dispatchOnly _ _ s
  · exact beginSb_dispatchOnly _ s
  · exact beginSb_dispatchOnly _ s
  · exact beginSb_dispatchOnly _ s
  · split
    · exact .refl s
    · exact beginSb_dispatchOnly _ s
  · exact .refl s

theorem takeResources_dispatchOnly (k : EngineKind) (u : EUnit) (s : State) : DispatchOnly s (takeResources k u s).2 := by
  unfold takeResources
  split
  · rename_i u1 s1 h
    have h1 : DispatchOnly s s1 := by
      revert h
      split
      · intro h; cases h; exact .refl s
      · intro h; cases h; rfl
    split
    · exact h1
    · exact h1.trans (putCredits_dispatchOnly _ _ _)

theorem dispatchOne_dispatchOnly {k : EngineKind} {s t : State} (h : dispatchOne k s = some t) : DispatchOnly s t := by
  unfold dispatchOne at h
  dsimp only at h
  split at h
  · cases h
    exact (((takeResources_dispatchOnly _ _ s).trans (putEngine_dispatchOnly _ _ _)).trans (loadWeights_dispatchOnly _ _ _ _)).trans
      (atDispatch_dispatchOnly _ _)
  · cases h

theorem pumpFuel_dispatchOnly (k : EngineKind) : ∀ (n : Nat) (s : State), DispatchOnly s (pumpFuel k n s)
  | 0, s => .refl s
  | n + 1, s => by
    unfold pumpFuel
    split
    · exact .refl s
    · rename_i t h
      exact (dispatchOne_dispatchOnly h).trans (pumpFuel_dispatchOnly k n t)

/-- Dispatching every kind changes nothing else. -/
theorem pumpAll_dispatchOnly (s : State) : DispatchOnly s (pumpAll s) :=
  foldl_dispatchOnly _ (fun s k => pumpFuel_dispatchOnly k _ s) _ s

/-! ## The issue of NAND operations (R280) -/

theorem issueNandFuel_issueOnly : ∀ (n : Nat) (s : State), IssueOnly s (issueNandFuel n s)
  | 0, s => rfl
  | n + 1, s => by
    unfold issueNandFuel
    split
    · rfl
    · rename_i t h
      obtain ⟨x, -, rfl⟩ := Option.map_eq_some_iff.mp h
      have h := issueNandFuel_issueOnly n
      unfold IssueOnly at *
      rw [h]

/-- The issue of NAND operations changes nothing else. -/
theorem issueNand_issueOnly (s : State) : IssueOnly s (issueNand s) := issueNandFuel_issueOnly _ s

/-- Issuing an operation changes no job: what waits for the channels is the same as before. -/
theorem issueNandFuel_jobs : ∀ (n : Nat) (s : State), (issueNandFuel n s).flash.ops.map (·.job) = s.flash.ops.map (·.job)
  | 0, _ => rfl
  | n + 1, s => by
    unfold issueNandFuel
    split
    · rfl
    · rename_i t h
      rw [issueNandFuel_jobs n t]
      unfold issueNandOp at h
      cases hc : chooseNand s with
      | none => simp [hc] at h
      | some c =>
        simp only [hc, Option.map_some, Option.some.injEq] at h
        rw [← h, List.map_map]
        refine List.map_congr_left fun x _ => ?_
        simp only [Function.comp_apply]
        split
        · rfl
        · split <;> rfl

theorem issueNand_jobs (s : State) : (issueNand s).flash.ops.map (·.job) = s.flash.ops.map (·.job) := issueNandFuel_jobs _ s

/-! ## What a step's end leaves as the meaning made it -/

theorem settled_eq (s u : State) : settled s u =
    { u with eng := (settled s u).eng, jobs := { u.jobs with use := (settled s u).jobs.use },
             net := { u.net with qps := (settled s u).net.qps },
             flash := { u.flash with ops := (issueNand u).flash.ops, nandFloor := (issueNand u).flash.nandFloor },
             pending := s.pending } := by
  have h := pumpAll_dispatchOnly (issueNand u)
  have h2 := issueNand_issueOnly u
  unfold DispatchOnly at h
  unfold IssueOnly at h2
  unfold settled
  rw [h, h2]

@[simp] theorem settled_out (s u : State) : (settled s u).out = u.out := by rw [settled_eq]
@[simp] theorem settled_free (s u : State) : (settled s u).free = u.free := by rw [settled_eq]
@[simp] theorem settled_clk (s u : State) : (settled s u).clk = u.clk := by rw [settled_eq]
@[simp] theorem settled_power (s u : State) : (settled s u).power = u.power := by rw [settled_eq]
@[simp] theorem settled_boot (s u : State) : (settled s u).boot = u.boot := by rw [settled_eq]
@[simp] theorem settled_sec (s u : State) : (settled s u).sec = u.sec := by rw [settled_eq]
@[simp] theorem settled_cfg (s u : State) : (settled s u).cfg = u.cfg := by rw [settled_eq]
@[simp] theorem settled_persist (s u : State) : (settled s u).persist = u.persist := by rw [settled_eq]
@[simp] theorem settled_index (s u : State) : (settled s u).index = u.index := by rw [settled_eq]
@[simp] theorem settled_marr (s u : State) : (settled s u).marr = u.marr := by rw [settled_eq]
@[simp] theorem settled_tiers (s u : State) : (settled s u).tiers = u.tiers := by rw [settled_eq]
theorem settled_flash_ops (s u : State) : (settled s u).flash.ops = (issueNand u).flash.ops := by rw [settled_eq]
@[simp] theorem settled_flash_map (s u : State) : (settled s u).flash.map = u.flash.map := by rw [settled_eq]
@[simp] theorem settled_flash_bands (s u : State) : (settled s u).flash.bands = u.flash.bands := by rw [settled_eq]
@[simp] theorem settled_flash_programs (s u : State) : (settled s u).flash.programs = u.flash.programs := by rw [settled_eq]
@[simp] theorem settled_flash_waiting (s u : State) : (settled s u).flash.waiting = u.flash.waiting := by rw [settled_eq]
@[simp] theorem settled_flash_nextProgram (s u : State) : (settled s u).flash.nextProgram = u.flash.nextProgram := by rw [settled_eq]
@[simp] theorem settled_flash_assembling (s u : State) : (settled s u).flash.assembling = u.flash.assembling := by rw [settled_eq]
@[simp] theorem settled_flash_cursor (s u : State) : (settled s u).flash.cursor = u.flash.cursor := by rw [settled_eq]
@[simp] theorem settled_flash_writeSeq (s u : State) : (settled s u).flash.writeSeq = u.flash.writeSeq := by rw [settled_eq]
@[simp] theorem settled_flash_pendingRecs (s u : State) : (settled s u).flash.pendingRecs = u.flash.pendingRecs := by rw [settled_eq]
@[simp] theorem settled_flash_flushing (s u : State) : (settled s u).flash.flushing = u.flash.flushing := by rw [settled_eq]
@[simp] theorem settled_flash_trimmed (s u : State) : (settled s u).flash.trimmed = u.flash.trimmed := by rw [settled_eq]
@[simp] theorem settled_flash_mapRecs (s u : State) : (settled s u).flash.mapRecs = u.flash.mapRecs := by rw [settled_eq]
@[simp] theorem settled_flash_dataBytes (s u : State) : (settled s u).flash.dataBytes = u.flash.dataBytes := by rw [settled_eq]
@[simp] theorem settled_flash_markerDue (s u : State) : (settled s u).flash.markerDue = u.flash.markerDue := by rw [settled_eq]
@[simp] theorem settled_flash_dirtySegs (s u : State) : (settled s u).flash.dirtySegs = u.flash.dirtySegs := by rw [settled_eq]
@[simp] theorem settled_flash_gcVictim (s u : State) : (settled s u).flash.gcVictim = u.flash.gcVictim := by rw [settled_eq]
@[simp] theorem settled_flash_gcLeft (s u : State) : (settled s u).flash.gcLeft = u.flash.gcLeft := by rw [settled_eq]
@[simp] theorem settled_flash_gcInFlush (s u : State) : (settled s u).flash.gcInFlush = u.flash.gcInFlush := by rw [settled_eq]
@[simp] theorem settled_flash_gcFlushed (s u : State) : (settled s u).flash.gcFlushed = u.flash.gcFlushed := by rw [settled_eq]
@[simp] theorem settled_flash_reads (s u : State) : (settled s u).flash.reads = u.flash.reads := by rw [settled_eq]
@[simp] theorem settled_flash_retired (s u : State) : (settled s u).flash.retired = u.flash.retired := by rw [settled_eq]
@[simp] theorem settled_flash_retiredWindow (s u : State) : (settled s u).flash.retiredWindow = u.flash.retiredWindow := by rw [settled_eq]
@[simp] theorem settled_flash_nextOp (s u : State) : (settled s u).flash.nextOp = u.flash.nextOp := by rw [settled_eq]
@[simp] theorem settled_host (s u : State) : (settled s u).host = u.host := by rw [settled_eq]
@[simp] theorem settled_mgmt (s u : State) : (settled s u).mgmt = u.mgmt := by rw [settled_eq]
@[simp] theorem settled_splice (s u : State) : (settled s u).splice = u.splice := by rw [settled_eq]
@[simp] theorem settled_faults (s u : State) : (settled s u).faults = u.faults := by rw [settled_eq]
@[simp] theorem settled_jobs_table (s u : State) : (settled s u).jobs.table = u.jobs.table := by rw [settled_eq]
@[simp] theorem settled_jobs_pool (s u : State) : (settled s u).jobs.pool = u.jobs.pool := by rw [settled_eq]
@[simp] theorem settled_jobs_lanes (s u : State) : (settled s u).jobs.lanes = u.jobs.lanes := by rw [settled_eq]
@[simp] theorem settled_jobs_cmds (s u : State) : (settled s u).jobs.cmds = u.jobs.cmds := by rw [settled_eq]
@[simp] theorem settled_jobs_slotsFree (s u : State) : (settled s u).jobs.slotsFree = u.jobs.slotsFree := by rw [settled_eq]
@[simp] theorem settled_jobs_liveBeFloor (s u : State) : (settled s u).jobs.liveBeFloor = u.jobs.liveBeFloor := by rw [settled_eq]
@[simp] theorem settled_jobs_scopeSnap (s u : State) : (settled s u).jobs.scopeSnap = u.jobs.scopeSnap := by rw [settled_eq]
@[simp] theorem settled_net_lports (s u : State) : (settled s u).net.lports = u.net.lports := by rw [settled_eq]
@[simp] theorem settled_net_eports (s u : State) : (settled s u).net.eports = u.net.eports := by rw [settled_eq]
@[simp] theorem settled_net_qpPool (s u : State) : (settled s u).net.qpPool = u.net.qpPool := by rw [settled_eq]
@[simp] theorem settled_net_useClock (s u : State) : (settled s u).net.useClock = u.net.useClock := by rw [settled_eq]

end Sys2Proof.Machine
end

