-- ==== Sys2Proof/Laws/MatchArray.lean ====
section
/-! SUPPORT. The order of the match array's banks (R104): what an insertion does, and that the dolly's events keep it. -/
namespace Sys2Proof.Machine

/-- A change that moves no entry, and makes none valid, keeps the order. -/
theorem banksOrdered_map {es : List MatchEntry} (g : MatchEntry → MatchEntry)
    (hg : ∀ x, (g x).bank = x.bank ∧ (g x).pos = x.pos ∧ (g x).priority = x.priority ∧ ((g x).valid = true → x.valid = true))
    (h : BanksOrdered es) : BanksOrdered (es.map g) := by
  intro x hx y hy vx vy hb
  obtain ⟨a, ha, rfl⟩ := List.mem_map.mp hx
  obtain ⟨b, hb', rfl⟩ := List.mem_map.mp hy
  have h1 := hg a
  have h2 := hg b
  have h3 := h a ha b hb' (h1.2.2.2 vx) (h2.2.2.2 vy) (by rw [← h1.1, ← h2.1, hb])
  rw [h1.2.1, h2.2.1, h1.2.2.1, h2.2.2.1]
  exact ⟨h3.1, fun e => by rw [h3.2.1 e], h3.2.2⟩

theorem entryAtPos_some {es : List MatchEntry} {b i : Nat} {e : MatchEntry} (h : entryAtPos es b i = some e) :
    e ∈ es ∧ e.valid = true ∧ e.bank = b ∧ e.pos = i := by
  have h1 := List.find?_some h
  simp at h1
  exact ⟨List.mem_of_find?_eq_some h, h1.1.1, h1.1.2, h1.2⟩

theorem entryAtPos_none {es : List MatchEntry} {b i : Nat} : entryAtPos es b i = none ↔
    ∀ e ∈ es, e.valid = true → e.bank = b → e.pos ≠ i := by
  simp [entryAtPos, List.find?_eq_none]

theorem le_foldl_max (l : List Nat) : ∀ m, m ≤ l.foldl max m ∧ ∀ x ∈ l, x ≤ l.foldl max m := by
  induction l with
  | nil => intro m; simp
  | cons a t ih =>
    intro m
    have := ih (max m a)
    simp only [List.foldl_cons, List.mem_cons]
    refine ⟨by omega, ?_⟩
    rintro x (rfl | hx)
    · omega
    · exact this.2 x hx

/-- p splits a bank: the entries before it have no lower PRIORITY than the new one, the others have a lower one. -/
theorem insertPos_splits {es : List MatchEntry} {b pri : Nat} (h : BanksOrdered es) {x : MatchEntry} (hx : x ∈ es)
    (hv : x.valid = true) (hb : x.bank = b) :
    (x.pos < insertPos es b pri → pri ≤ x.priority) ∧ (insertPos es b pri ≤ x.pos → x.priority < pri) := by
  have hlow : ∀ i, i < 256 → ((entryAtPos es b i).map fun e => decide (e.priority < pri)).getD false = false →
      x.pos = i → pri ≤ x.priority := by
    intro i hi hf hp
    cases he : entryAtPos es b i with
    | none => exact absurd hp (entryAtPos_none.mp he x hx hv hb)
    | some y =>
      obtain ⟨hy, vy, by', py⟩ := entryAtPos_some he
      have : x = y := (h x hx y hy hv vy (by rw [hb, by'])).2.1 (by rw [hp, py])
      subst this
      simp [he] at hf
      exact hf
  unfold insertPos
  split
  · rename_i p hp
    have h1 := List.find?_some hp
    have h2 := List.mem_range.mp (List.mem_of_find?_eq_some hp)
    constructor
    · intro hlt
      refine hlow x.pos (by omega) ?_ rfl
      obtain ⟨-, as, bs, hl, hall⟩ := List.find?_eq_some_iff_append.mp hp
      have hm : x.pos ∈ as := by
        have h3 : x.pos ∈ List.range 256 := List.mem_range.mpr (by omega)
        have hs : (List.range 256).Pairwise (· < ·) := List.pairwise_lt_range
        rw [hl] at h3 hs
        rcases List.mem_append.mp h3 with h4 | h4
        · exact h4
        · rcases List.mem_cons.mp h4 with h4 | h4
          · omega
          · have := (List.pairwise_cons.mp (List.pairwise_append.mp hs).2.1).1 _ h4
            omega
      have := hall _ hm
      simpa using this
    · intro hle
      cases he : entryAtPos es b p with
      | none => simp [he] at h1
      | some y =>
        obtain ⟨hy, vy, by', py⟩ := entryAtPos_some he
        simp [he] at h1
        have h3 := h y hy x hx vy hv (by rw [hb, by'])
        rcases Nat.lt_or_ge p x.pos with h4 | h4
        · have := h3.2.2 (by omega); omega
        · have : y = x := h3.2.1 (by omega)
          subst this; exact h1
  · rename_i hn
    have hmax := (le_foldl_max ((es.filter fun e => e.valid && e.bank == b).map fun e => e.pos + 1) 0).2 (x.pos + 1)
      (List.mem_map.mpr ⟨x, List.mem_filter.mpr ⟨hx, by simp [hv, hb]⟩, rfl⟩)
    refine ⟨fun _ => ?_, fun hle => by omega⟩
    have h256 := (h x hx x hx hv hv rfl).1
    refine hlow x.pos h256 ?_ rfl
    have := List.find?_eq_none.mp hn x.pos (List.mem_range.mpr h256)
    simpa using this

/-- Where a valid entry of a shifted bank comes from. -/
theorem mem_shiftEntries {es : List MatchEntry} {b p last : Nat} (hpl : p ≤ last + 1) {x : MatchEntry}
    (hx : x ∈ shiftEntries es b p last) (hv : x.valid = true) : ∃ y ∈ es, y.valid = true ∧ x.bank = y.bank ∧ x.priority = y.priority ∧
      ((y.bank ≠ b ∧ x = y) ∨ (y.bank = b ∧ y.pos ≠ last + 1 ∧
        ((p ≤ y.pos ∧ y.pos ≤ last ∧ x = { y with pos := y.pos + 1 }) ∨ ((y.pos < p ∨ last < y.pos) ∧ x = y)))) := by
  obtain ⟨y, hy, rfl⟩ := List.mem_map.mp hx
  obtain ⟨hm, hf⟩ := List.mem_filter.mp hy
  have hvy : y.valid = true := by revert hv; split <;> exact id
  refine ⟨y, hm, hvy, by split <;> rfl, by split <;> rfl, ?_⟩
  by_cases hb : y.bank = b
  · right
    refine ⟨hb, ?_, ?_⟩
    · intro h
      simp [hb, hvy, h, hpl] at hf
    · by_cases hr : p ≤ y.pos ∧ y.pos ≤ last
      · left; simp [hb, hvy, hr.1, hr.2]
      · right
        refine ⟨by omega, ?_⟩
        rw [if_neg]
        simp [hb, hvy]; omega
  · left
    exact ⟨hb, by rw [if_neg]; simp [hb]⟩

/-- An entry put at p once the entries from p to `last` have moved one place keeps the order. -/
theorem banksOrdered_shift {es : List MatchEntry} {e : MatchEntry} {b last : Nat} (h : BanksOrdered es) (hb : e.bank = b)
    (hp : e.pos = insertPos es b e.priority) (hl : e.pos ≤ last) (h255 : last < 255) :
    BanksOrdered (e :: shiftEntries es b e.pos last) := by
  have hs : ∀ y ∈ es, y.valid = true → y.bank = b → (y.pos < e.pos → e.priority ≤ y.priority) ∧ (e.pos ≤ y.pos → y.priority < e.priority) := by
    intro y hy hv hb'
    rw [hp]
    exact insertPos_splits h hy hv hb'
  intro x hx y hy vx vy hxy
  rcases List.mem_cons.mp hx with hxe | hx <;> rcases List.mem_cons.mp hy with hye | hy
  · subst hxe; subst hye
    exact ⟨by omega, fun _ => rfl, fun h => by omega⟩
  · subst hxe
    obtain ⟨z, hz, vz, bz, pz, hc⟩ := mem_shiftEntries (by omega) hy vy
    have h1 := hs z hz vz (by rw [← bz, ← hxy, hb])
    refine ⟨by omega, ?_⟩
    rcases hc with ⟨hn, -⟩ | ⟨-, hn, ⟨h3, h4, h5⟩ | ⟨h3, h4⟩⟩
    · exact absurd (by rw [← bz, ← hxy, hb]) hn
    · have : y.pos = z.pos + 1 := by rw [h5]
      exact ⟨fun e => by omega, fun _ => by have := h1.2 h3; omega⟩
    · subst h4
      exact ⟨fun e => by omega, fun e => by have := h1.2 (by omega); omega⟩
  · subst hye
    obtain ⟨z, hz, vz, bz, pz, hc⟩ := mem_shiftEntries (by omega) hx vx
    have hzb : z.bank = b := by rw [← bz, hxy, hb]
    have h1 := hs z hz vz hzb
    have h6 := (h z hz z hz vz vz rfl).1
    rcases hc with ⟨hn, -⟩ | ⟨-, hn, ⟨h3, h4, h5⟩ | ⟨h3, h4⟩⟩
    · exact absurd hzb hn
    · have : x.pos = z.pos + 1 := by rw [h5]
      exact ⟨by omega, fun e => by omega, fun e => by omega⟩
    · subst h4
      exact ⟨h6, fun e => by omega, fun e => by have := h1.1 e; omega⟩
  · obtain ⟨z, hz, vz, bz, pz, hc⟩ := mem_shiftEntries (by omega) hx vx
    obtain ⟨w, hw, vw, bw, pw, hd⟩ := mem_shiftEntries (by omega) hy vy
    have h1 := h z hz w hw vz vw (by rw [← bz, ← bw, hxy])
    have h6 := (h w hw w hw vw vw rfl).1
    rw [pz, pw]
    rcases hc with ⟨hn, hc⟩ | ⟨hzb, hn, hc⟩
    · rcases hd with ⟨hn', hd⟩ | ⟨hwb, -, -⟩
      · subst hc; subst hd; exact h1
      · exact absurd (by rw [← bz, hxy, bw, hwb]) hn
    · rcases hd with ⟨hn', hd⟩ | ⟨hwb, hn', hd⟩
      · exact absurd (by rw [← bw, ← hxy, bz, hzb]) hn'
      · rcases hc with ⟨c1, c2, c3⟩ | ⟨c1, c3⟩ <;> rcases hd with ⟨d1, d2, d3⟩ | ⟨d1, d3⟩
        · have e1 : x.pos = z.pos + 1 := by rw [c3]
          have e2 : y.pos = w.pos + 1 := by rw [d3]
          exact ⟨by omega, fun e => by rw [c3, d3, h1.2.1 (by omega)], fun e => h1.2.2 (by omega)⟩
        · have e1 : x.pos = z.pos + 1 := by rw [c3]
          have e2 : y.pos = w.pos := by rw [d3]
          exact ⟨by omega, fun e => by omega, fun e => h1.2.2 (by omega)⟩
        · have e1 : x.pos = z.pos := by rw [c3]
          have e2 : y.pos = w.pos + 1 := by rw [d3]
          exact ⟨by omega, fun e => by omega, fun e => by
            rcases Nat.lt_or_ge z.pos w.pos with hlt | hge
            · exact h1.2.2 hlt
            · have := h1.1; omega⟩
        · subst c3; subst d3; exact h1

/-- An entry put at a place that no valid entry holds keeps the order. -/
theorem banksOrdered_place {es : List MatchEntry} {e : MatchEntry} {b : Nat} (h : BanksOrdered es) (hb : e.bank = b)
    (hp : e.pos = insertPos es b e.priority) (h256 : e.pos < 256) :
    BanksOrdered (e :: es.filter fun x => !(x.bank == b && x.pos == e.pos)) := by
  have hs : ∀ y ∈ es.filter (fun x => !(x.bank == b && x.pos == e.pos)), y.valid = true → y.bank = b →
      y.pos ≠ e.pos ∧ (y.pos < e.pos → e.priority ≤ y.priority) ∧ (e.pos ≤ y.pos → y.priority < e.priority) := by
    intro y hy hv hb'
    obtain ⟨h1, h2⟩ := List.mem_filter.mp hy
    refine ⟨by simpa [hb'] using h2, ?_⟩
    rw [hp]
    exact insertPos_splits h h1 hv hb'
  intro x hx y hy vx vy hxy
  rcases List.mem_cons.mp hx with hxe | hx <;> rcases List.mem_cons.mp hy with hye | hy
  · subst hxe; subst hye
    exact ⟨h256, fun _ => rfl, fun h => by omega⟩
  · subst hxe
    have h1 := hs y hy vy (by rw [← hxy, hb])
    exact ⟨h256, fun e => absurd e.symm h1.1, fun e => by have := h1.2.2 (by omega); omega⟩
  · subst hye
    have h1 := hs x hx vx (by rw [hxy, hb])
    have h2 := (List.mem_filter.mp hx).1
    exact ⟨(h x h2 x h2 vx vx rfl).1, fun e => absurd e h1.1, fun e => h1.2.1 e⟩
  · exact h x ((List.mem_filter.mp hx).1) y ((List.mem_filter.mp hy).1) vx vy hxy

/-- An insertion keeps every bank in order (R104, R105). -/
theorem insertEntry_banksOrdered (ptr : Nat) (lo : U64) (tenant pri hint : Nat) {s : State} (h : BanksOrdered s.marr.entries) :
    BanksOrdered (insertEntry ptr lo tenant pri hint s).marr.entries := by
  unfold insertEntry
  dsimp only
  split
  · exact h
  · rename_i hc
    have h256 : insertPos s.marr.entries (bankOf lo) pri < 256 := by simp at hc; omega
    generalize he : (writeEntry { bank := bankOf lo, pos := insertPos s.marr.entries (bankOf lo) pri, valid := true, priority := pri, tenant := tenant, keyLo := lo, nodePtr := ptr, tierHint := hint, parityA := false, parityB := false }) = e
    have e1 : e.bank = bankOf lo := by rw [← he]; rfl
    have e2 : e.pos = insertPos s.marr.entries (bankOf lo) e.priority := by rw [← he]; rfl
    have e3 : insertPos s.marr.entries (bankOf lo) pri = e.pos := by rw [← he]; rfl
    rw [e3] at h256 ⊢
    split
    · rename_i k hk
      have hk1 := List.find?_some hk
      have hk2 := List.mem_range.mp (List.mem_of_find?_eq_some hk)
      simp at hk1
      show BanksOrdered (e :: _)
      by_cases hkp : k = e.pos
      · rw [if_pos (by simp [hkp])]
        exact banksOrdered_place h e1 e2 h256
      · rw [if_neg (by simp [hkp])]
        exact banksOrdered_shift h e1 e2 (by omega) (by omega)
    · have : BanksOrdered (e :: if e.pos == 255 then s.marr.entries.filter fun x => !(x.bank == bankOf lo && x.pos == 255)
          else shiftEntries s.marr.entries (bankOf lo) e.pos 254) := by
        by_cases hkp : e.pos = 255
        · rw [if_pos (by simp [hkp])]
          have := banksOrdered_place h e1 e2 h256
          rw [hkp] at this
          exact this
        · rw [if_neg (by simp [hkp])]
          exact banksOrdered_shift h e1 e2 (by omega) (by omega)
      split <;> exact this

/-! ## Outboxes and queues -/

/-- Moving requests of the dolly touches its queues, its reports and the slivers' outboxes, and nothing else. -/
def RequestsOnly (s t : State) : Prop :=
  ∃ vs ss rs, t = { s with index := { s.index with slivers := vs }, marr := { s.marr with sections := ss, reports := rs } }

theorem RequestsOnly.refl (s : State) : RequestsOnly s s := ⟨_, _, _, rfl⟩

theorem RequestsOnly.trans {s t u : State} (h : RequestsOnly s t) (h2 : RequestsOnly t u) : RequestsOnly s u := by
  obtain ⟨_, _, _, rfl⟩ := h
  obtain ⟨_, _, _, rfl⟩ := h2
  exact ⟨_, _, _, rfl⟩

theorem foldl_requestsOnly {α : Type} (f : State → α → State) (hf : ∀ s a, RequestsOnly s (f s a)) (l : List α) (s : State) :
    RequestsOnly s (l.foldl f s) := by
  induction l generalizing s with
  | nil => exact .refl s
  | cons a t ih => exact (hf s a).trans (ih _)

theorem arriveDolly_requestsOnly (r : DollyReq) (s : State) : RequestsOnly s (arriveDolly r s) := by
  unfold arriveDolly
  split
  · split <;> exact ⟨_, _, _, rfl⟩
  · exact ⟨_, _, _, rfl⟩

theorem issueDolly_requestsOnly (n : Nat) (r : DollyReq) (s : State) : RequestsOnly s (issueDolly n r s) := by
  unfold issueDolly
  simp only []
  split
  · exact arriveDolly_requestsOnly r s
  · exact ⟨_, _, _, rfl⟩

theorem drainOutbox_requestsOnly (n : Nat) : ∀ (fuel : Nat) (s : State), RequestsOnly s (drainOutbox fuel n s)
  | 0, s => .refl s
  | fuel + 1, s => by
    unfold drainOutbox
    split
    · exact .refl s
    · split
      · exact RequestsOnly.trans ⟨_, _, _, rfl⟩ ((arriveDolly_requestsOnly _ _).trans (drainOutbox_requestsOnly n fuel _))
      · exact .refl s

theorem drainOutboxes_requestsOnly (s : State) : RequestsOnly s (drainOutboxes s) :=
  foldl_requestsOnly _ (fun s n => drainOutbox_requestsOnly n _ s) _ s

@[simp] theorem drainOutboxes_entries (s : State) : (drainOutboxes s).marr.entries = s.marr.entries := by
  obtain ⟨_, _, _, h⟩ := drainOutboxes_requestsOnly s; rw [h]

@[simp] theorem drainOutboxes_nodes (s : State) : (drainOutboxes s).index.nodes = s.index.nodes := by
  obtain ⟨_, _, _, h⟩ := drainOutboxes_requestsOnly s; rw [h]

/-- What a served dolly request leaves in the entries is what its own effect left there. -/
theorem dollyStep_entries (sect : Nat) (f : DollyReq → Option (State → State)) (s : State) (P : List MatchEntry → Prop)
    (hs : P s.marr.entries) (hf : ∀ r g ss, f r = some g → P (g { s with marr := { s.marr with sections := ss } }).marr.entries) :
    P (dollyStep sect f s).marr.entries := by
  unfold dollyStep
  split
  · exact hs
  · split
    · exact hs
    · rename_i g hg
      rw [drainOutboxes_entries]
      exact hf _ g _ hg

/-! ## The winner of a search -/

/-- A search answers a matching entry at the lowest position, and none only where nothing matches. -/
theorem searchBank_spec (s : State) (q : Probe) : match searchBank s q with
    | none => ∀ x ∈ s.marr.entries, entryMatches q x = false
    | some e => e ∈ s.marr.entries ∧ entryMatches q e = true ∧ ∀ x ∈ s.marr.entries, entryMatches q x = true → e.pos ≤ x.pos := by
  have key : ∀ (f : Option MatchEntry → MatchEntry → Option MatchEntry), (∀ e, f none e = some e) →
      (∀ x e, f (some x) e = if e.pos < x.pos then some e else some x) → ∀ (l : List MatchEntry) (acc r : Option MatchEntry),
      l.foldl f acc = r →
      (r = none → acc = none ∧ l = []) ∧
      (∀ e, r = some e → (some e = acc ∨ e ∈ l) ∧ (∀ x ∈ l, e.pos ≤ x.pos) ∧ ∀ x, acc = some x → e.pos ≤ x.pos) := by
    intro f f1 f2 l
    induction l with
    | nil => rintro acc r rfl; refine ⟨by simp, fun e he => ?_⟩; rw [List.foldl_nil] at he; subst he; simp
    | cons a t ih =>
      intro acc r hr
      rw [List.foldl_cons] at hr
      obtain ⟨h0, h1⟩ := ih _ _ hr
      cases acc with
      | none =>
        rw [f1] at h0 h1
        refine ⟨fun e => by simpa using (h0 e).1, fun e he => ?_⟩
        obtain ⟨g1, g2, g3⟩ := h1 e he
        refine ⟨.inr ?_, ?_, by simp⟩
        · rcases g1 with g1 | g1
          · simp at g1; simp [g1]
          · simp [g1]
        · intro x hx
          rcases List.mem_cons.mp hx with rfl | hx
          · exact g3 _ rfl
          · exact g2 x hx
      | some c =>
        rw [f2] at h0 h1
        refine ⟨fun e => ?_, fun e he => ?_⟩
        · have := (h0 e).1
          split at this <;> cases this
        obtain ⟨g1, g2, g3⟩ := h1 e he
        have h4 : e.pos ≤ a.pos ∧ e.pos ≤ c.pos := by
          split at g3
          · have := g3 a rfl; omega
          · have := g3 c rfl; omega
        refine ⟨?_, ?_, ?_⟩
        · rcases g1 with g1 | g1
          · split at g1
            · simp at g1; simp [g1]
            · exact .inl g1
          · simp [g1]
        · intro x hx
          rcases List.mem_cons.mp hx with rfl | hx
          · exact h4.1
          · exact g2 x hx
        · intro x hx; cases hx; exact h4.2
  obtain ⟨h0, h1⟩ := key _ (fun _ => rfl) (fun _ _ => rfl) (s.marr.entries.filter (entryMatches q)) none (searchBank s q) rfl
  split
  · rename_i h
    intro x hx
    have := List.filter_eq_nil_iff.mp (h0 h).2 x hx
    simpa using this
  · rename_i e h
    obtain ⟨h2, h3, -⟩ := h1 e h
    have h2 := h2.resolve_left (by simp)
    exact ⟨(List.mem_filter.mp h2).1, (List.mem_filter.mp h2).2, fun x hx hm => h3 x (List.mem_filter.mpr ⟨hx, hm⟩)⟩

end Sys2Proof.Machine
end

