-- ==== Sys2Proof/Laws/Memory.lean ====
section
/-! SUPPORT. The byte memories (the landing region and the host windows): every operation keeps the canonical form. -/
namespace Sys2Proof.Machine

theorem wf_cons {c : Host.Cell} {t : List Host.Cell} :
    Memory.wf (c :: t) = true ↔ c.2 ≠ 0 ∧ (∀ d ∈ t, c.1 < d.1) ∧ Memory.wf t = true := by
  simp [Memory.wf, and_assoc]

theorem wf_nil : Memory.wf [] = true := rfl

/-- Dropping cells keeps the form. -/
theorem wf_filter (p : Host.Cell → Bool) {m : List Host.Cell} (h : Memory.wf m = true) : Memory.wf (m.filter p) = true := by
  induction m with
  | nil => rfl
  | cons c t ih =>
    obtain ⟨hc, hlt, ht⟩ := wf_cons.1 h
    by_cases hp : p c
    · rw [List.filter_cons_of_pos hp]
      exact wf_cons.2 ⟨hc, fun d hd => hlt d (List.mem_filter.1 hd).1, ih ht⟩
    · rw [List.filter_cons_of_neg hp]; exact ih ht

theorem mem_memInsert {x d : Host.Cell} {m : List Host.Cell} : d ∈ memInsert x m ↔ d = x ∨ d ∈ m := by
  induction m with
  | nil => simp [memInsert]
  | cons c t ih =>
    unfold memInsert
    split
    · simp
    · rw [List.mem_cons, ih, List.mem_cons]; exact or_left_comm

/-- A cell of a new address and a byte other than zero keeps the form. -/
theorem wf_memInsert {x : Host.Cell} {m : List Host.Cell} (h : Memory.wf m = true) (hx : x.2 ≠ 0)
    (hne : ∀ d ∈ m, d.1 ≠ x.1) : Memory.wf (memInsert x m) = true := by
  induction m with
  | nil => exact wf_cons.2 ⟨hx, by simp, rfl⟩
  | cons c t ih =>
    obtain ⟨hc, hlt, ht⟩ := wf_cons.1 h
    unfold memInsert
    split
    · rename_i hlt2
      refine wf_cons.2 ⟨hx, ?_, h⟩
      intro d hd
      rcases List.mem_cons.1 hd with rfl | hd
      · exact hlt2
      · exact Nat.lt_trans hlt2 (hlt d hd)
    · rename_i hge
      have hcx : c.1 < x.1 := by
        have := hne c (by simp)
        omega
      refine wf_cons.2 ⟨hc, ?_, ih ht fun d hd => hne d (by simp [hd])⟩
      intro d hd
      rcases mem_memInsert.1 hd with rfl | hd
      · exact hcx
      · exact hlt d hd

/-- Storing a byte keeps the form. -/
theorem wf_memPut (a : Nat) (b : Byte) {m : List Host.Cell} (h : Memory.wf m = true) : Memory.wf (memPut a b m) = true := by
  unfold memPut
  by_cases hb : b = 0
  · simpa [hb] using wf_filter (fun c => c.1 != a) h
  · have : (b == 0) = false := by simpa using hb
    simp only [this]
    refine wf_memInsert (wf_filter _ h) hb ?_
    intro d hd
    simpa using (List.mem_filter.1 hd).2

/-- Storing bytes keeps the form. -/
theorem wf_memWrite (bs : List Byte) : ∀ (a : Nat) {m : List Host.Cell}, Memory.wf m = true → Memory.wf (memWrite a bs m) = true := by
  induction bs with
  | nil => intro a m h; exact h
  | cons b t ih => intro a m h; exact ih (a + 1) (wf_memPut a b h)

/-- A CXL.mem write keeps the form. -/
theorem wf_writeLine (line : Nat) (data : List Byte) (enables : List Bool) {m : List Host.Cell} (h : Memory.wf m = true) :
    Memory.wf (writeLine line data enables m) = true := by
  unfold writeLine
  generalize List.range 64 = l
  induction l generalizing m with
  | nil => exact h
  | cons i t ih =>
    rw [List.foldl_cons]
    by_cases he : enables.getD i false
    · simp only [he, if_true]; exact ih (wf_memPut _ _ h)
    · simp only [he]; exact ih h

/-! ## Read after write -/

/-- What a byte reads as beside a new cell. -/
theorem memRead_memInsert (x : Host.Cell) (m : List Host.Cell) (a : Nat) (h : ∀ d ∈ m, d.1 ≠ x.1) :
    memRead (memInsert x m) a = if a = x.1 then x.2 else memRead m a := by
  induction m with
  | nil => 
    by_cases e : a = x.1
    · simp [memInsert, memRead, e]
    · have : ¬ x.1 = a := fun h => e h.symm
      simp [memInsert, memRead, this, e]
  | cons c t ih =>
    have iht := ih (fun d hd => h d (by simp [hd]))
    have hc := h c (by simp)
    unfold memInsert
    split
    · by_cases e : a = x.1
      · simp [memRead, e]
      · have : ¬ x.1 = a := fun h => e h.symm
        simp [memRead, this, e]
    · unfold memRead at *
      by_cases e : c.1 = a
      · have : ¬ a = x.1 := fun h => hc (e.trans h)
        simp [e, this]
      · simp [e] at iht ⊢; exact iht

/-- What a byte reads as once an address is dropped. -/
theorem memRead_filter (m : List Host.Cell) (a b : Nat) : memRead (m.filter fun c => c.1 != b) a = if a = b then 0 else memRead m a := by
  induction m with
  | nil => simp [memRead]
  | cons c t ih =>
    unfold memRead at *
    by_cases hb : c.1 = b
    · have : (c.1 != b) = false := by simp [hb]
      rw [List.filter_cons_of_neg (p := fun (c : Host.Cell) => c.1 != b) (by simp [this]), ih]
      by_cases e : a = b
      · simp [e]
      · have : ¬ c.1 = a := fun h => e (h.symm.trans hb)
        simp [e, this]
    · have hb' : (c.1 != b) = true := by simpa using hb
      rw [List.filter_cons_of_pos (p := fun (c : Host.Cell) => c.1 != b) hb']
      by_cases e : c.1 = a
      · have : ¬ a = b := fun h => hb (e.trans h)
        simp [e, this]
      · simp [e] at ih ⊢; exact ih

/-- A stored byte reads back, and every other byte reads as before. -/
theorem memRead_memPut (m : List Host.Cell) (a b : Nat) (v : Byte) : memRead (memPut b v m) a = if a = b then v else memRead m a := by
  unfold memPut
  by_cases hv : v = 0
  · simp [hv, memRead_filter]
  · have : (v == 0) = false := by simpa using hv
    simp only [this]
    have := memRead_memInsert (b, v) (m.filter fun c => c.1 != b) a (by intro d hd; simpa using (List.mem_filter.1 hd).2)
    simp only [Bool.false_eq_true, if_false]
    rw [this, memRead_filter]
    by_cases e : a = b <;> simp [e]

/-- Stored bytes read back, and every other byte reads as before. -/
theorem memRead_memWrite (bs : List Byte) : ∀ (a : Nat) (m : List Host.Cell) (x : Nat), memRead (memWrite a bs m) x
    = if a ≤ x ∧ x < a + bs.length then bs.getD (x - a) 0 else memRead m x := by
  induction bs with
  | nil => intro a m x; rw [if_neg (by simp only [List.length_nil]; omega)]; rfl
  | cons b t ih =>
    intro a m x
    rw [memWrite, ih, memRead_memPut]
    by_cases h1 : x = a
    · have : ¬ (a + 1 ≤ x ∧ x < a + 1 + t.length) := by omega
      rw [if_neg this, if_pos h1, if_pos (by simp; omega)]
      simp [h1]
    · by_cases h2 : a + 1 ≤ x ∧ x < a + 1 + t.length
      · have h3 : a ≤ x ∧ x < a + (b :: t).length := by simp; omega
        have h4 : x - a = (x - (a + 1)) + 1 := by omega
        rw [if_pos h2, if_pos h3, h4, List.getD_cons_succ]
      · have h3 : ¬ (a ≤ x ∧ x < a + (b :: t).length) := by simp; omega
        rw [if_neg h2, if_neg h3, if_neg h1]

end Sys2Proof.Machine
end

