-- ==== Sys2Proof/Laws/Packets.lean ====
section
/-! SUPPORT. Command packets: what a packet that is delivered and accepted does (Table 10.9, R300, R348, R371). -/
namespace Sys2Proof.Machine

/-- A packet in its PSN's turn is executed (R348). -/
theorem rcAccept_in_turn {h : Bth} {n : Nat} {again k : State → State} {s : State} {q : Qp} (hq : findQp s h.qpn = some q)
    (hp : h.psn = q.expectedPsn) : rcAccept h n none again k s = k (advancePsn h.qpn n s) := by
  simp [rcAccept, hq, hp]

/-- A delivered packet reaches what its lane hands it to. -/
theorem onLane_delivered {i : Instr} {p : Packet} {s s0 : State} (k : State → State) (h : Delivered i p s s0) :
    onLane i p k s = afterPacket p (k s0) := by
  unfold Delivered at h
  unfold onLane afterPacket
  cases hp : p.path with
  | mgmt => simp [hp] at h ⊢; rw [h]
  | rdma =>
    simp only [hp] at h ⊢
    obtain ⟨s1, q, he, hq, hpsn, hl, hr, rfl⟩ := h
    have hlen : ¬ 69632 < p.length := by omega
    have hroom : ¬ p.bth.noRoom = true := by simp [hr]
    simp only [he, if_neg hlen, if_neg hroom]
    exact rcAccept_in_turn (h := { p.bth with qpn := p.lane }) hq hpsn
  | pcie =>
    simp only [hp] at h ⊢
    obtain ⟨hl, ⟨r, hr, ha⟩, rfl⟩ := h
    have h1 : ¬ p.lane < 0x800000 := by omega
    have h2 : r.arriving ≠ 0 := by omega
    simp [h1, hr, h2]

/-- An accepted command that nothing holds runs: the whole effect of its packet. -/
theorem command_runs {i : Instr} {op : OpInfo} {p : Packet} {atAccept : Cmd → State → State} {s t : State} {c : Cmd}
    (run : Cmd → State → State) (h : Runs i op p atAccept s c t) :
    command i op p atAccept run s = afterPacket p (run c t) := by
  obtain ⟨s0, s1, c0, hd, hi, hf, hm, hfe⟩ := h
  unfold command
  rw [onLane_delivered _ hd]
  simp only [perform, hi, hf, runAccepted, hm, runFenced]
  cases hc : c.fence with
  | false => simp
  | true => simp [hfe hc]

/-- The step of a command packet that runs. -/
theorem finish_runs {i : Instr} {op : OpInfo} {p : Packet} {atAccept : Cmd → State → State} {s t : State} {c : Cmd}
    (run : Cmd → State → State) (h : Runs i op p atAccept s c t) :
    finish s (command i op p atAccept run s) = .next (settled s (afterPacket p (run c t))) := by
  rw [command_runs run h]; rfl

/-- The step of a command packet whose run ends in `u`. -/
theorem runs_to {i : Instr} {op : OpInfo} {p : Packet} {atAccept : Cmd → State → State} {s t u : State} {c : Cmd}
    {run : Cmd → State → State} (h : Runs i op p atAccept s c t) (e : run c t = u) :
    finish s (command i op p atAccept run s) = .next (settled s (afterPacket p u)) := by
  rw [finish_runs run h, e]

/-- A maintenance command whose turn has come runs now. -/
theorem inTurn_now {c : Cmd} {s : State} (h : TurnHasCome s c) (k : State → State) : inTurn c k s = k s := by
  unfold inTurn
  rw [if_neg]
  simp only [List.any_eq_true, Bool.and_eq_true, decide_eq_true_eq, not_exists, not_and]
  intro d hd hm
  have := h d hd hm
  omega

end Sys2Proof.Machine
end

