-- ==== Sys2Proof/Laws/Steps.lean ====
section
/-! SUPPORT. How every command's effect ends, and that it leaves no unit waiting beside an idle engine (R319, R322). -/
namespace Sys2Proof.Machine

/-- Every command ends in a next state: what its own effect made, with the ready units dispatched and the queue as it was. -/
theorem exec_finish (i : Instr) (s : State) : ∃ u, exec i s = finish s u := by
  cases i <;> first | exact ⟨_, rfl⟩ | skip
  case pfcPauseRefresh =>
    simp only [exec, execPfcPauseRefresh]
    repeat' first | exact ⟨_, rfl⟩ | split
  case cnpReceived =>
    simp only [exec, execCnpReceived]
    repeat' first | exact ⟨_, rfl⟩ | split
  case rateLimiterTick =>
    simp only [exec, execRateLimiterTick]
    repeat' first | exact ⟨_, rfl⟩ | split
  case cmReq =>
    simp only [exec, execCmReq]
    repeat' first | exact ⟨_, rfl⟩ | split
  case ethLinkUp =>
    simp only [exec, execEthLinkUp]
    repeat' first | exact ⟨_, rfl⟩ | split
  case nandProgramDone =>
    simp only [exec, execNandProgramDone]
    repeat' first | exact ⟨_, rfl⟩ | split
  case nandProgramFail =>
    simp only [exec, execNandProgramFail]
    repeat' first | exact ⟨_, rfl⟩ | split
  case nandReadDone =>
    simp only [exec, execNandReadDone]
    repeat' first | exact ⟨_, rfl⟩ | split
  case nandEraseDone =>
    simp only [exec, execNandEraseDone]
    repeat' first | exact ⟨_, rfl⟩ | split
  case nandEraseFail =>
    simp only [exec, execNandEraseFail]
    repeat' first | exact ⟨_, rfl⟩ | split
  case dieReadyTimeout =>
    simp only [exec, execDieReadyTimeout]
    repeat' first | exact ⟨_, rfl⟩ | split
  case journalFlush =>
    simp only [exec, execJournalFlush]
    repeat' first | exact ⟨_, rfl⟩ | split
  case journalFlushDone =>
    simp only [exec, execJournalFlushDone]
    repeat' first | exact ⟨_, rfl⟩ | split
  case mapSegmentImage =>
    simp only [exec, execMapSegmentImage]
    repeat' first | exact ⟨_, rfl⟩ | split
  case directoryImage =>
    simp only [exec, execDirectoryImage]
    repeat' first | exact ⟨_, rfl⟩ | split
  case indexCheckpoint =>
    simp only [exec, execIndexCheckpoint]
    repeat' first | exact ⟨_, rfl⟩ | split
  case gcStart =>
    simp only [exec, execGcStart]
    repeat' first | exact ⟨_, rfl⟩ | split
  case gcErase =>
    simp only [exec, execGcErase]
    repeat' first | exact ⟨_, rfl⟩ | split
  case patrolRead =>
    simp only [exec, execPatrolRead]
    repeat' first | exact ⟨_, rfl⟩ | split
  case hostLinkTrained =>
    simp only [exec, execHostLinkTrained]
    repeat' first | exact ⟨_, rfl⟩ | split

/-! ## Dispatch leaves no unit waiting -/

/-- What is ready in `t` is ready in `s`. -/
def NoMoreReady (s t : State) : Prop := ∀ k u, unitReady t k u = true → unitReady s k u = true

theorem NoMoreReady.trans {s t u : State} (h : NoMoreReady s t) (h2 : NoMoreReady t u) : NoMoreReady s u :=
  fun k x hx => h k x (h2 k x hx)

theorem Pool.take_isSome (c : Cls) (n : Nat) (p : Pool) :
    (p.take c n).isSome = match c with
      | .lc => decide (n ≤ p.lcFree + p.sharedFree)
      | .be => decide (n ≤ p.sharedFree) := by
  cases c <;> simp only [Pool.take] <;> split <;> simp_all

/-- A pool that gives `c` units after another take gave them before it. -/
theorem Pool.take_shrinks {c d : Cls} {n m : Nat} {p q : Pool} {t : Taken} (h : p.take d m = some (t, q))
    (hq : (q.take c n).isSome = true) : (p.take c n).isSome = true := by
  rw [Pool.take_isSome] at *
  cases d <;> simp only [Pool.take] at h <;> split at h <;> simp at h <;> obtain ⟨rfl, rfl⟩ := h <;>
    cases c <;> simp at hq ⊢ <;> omega

/-! ### The units of the RDMA engines

A queue pair sends in the order of what its port engines hold, queued or running, so a dispatch, which only moves a unit from a
queue to an instance, leaves that order alone. -/

/-- What the units of an engine do, queued and running. -/
def engineWorks (e : Engine) : List UnitWork := (e.busy.map (·.2) ++ e.lcq ++ e.beq).map (·.work)

/-- The works that an RDMA engine holds or ran when `s` and `t` hold the same ones, in whatever order. -/
def SameRdma (s t : State) : Prop := (s.eng.rdma.flatMap engineWorks).Perm (t.eng.rdma.flatMap engineWorks)

theorem SameRdma.of_eq {s t : State} (h : t.eng.rdma = s.eng.rdma) : SameRdma s t := by unfold SameRdma; rw [h]

theorem resendsOf_eq (s : State) (q : Nat) : resendsOf s q = (s.eng.rdma.flatMap engineWorks).filter (resends q) := by
  unfold resendsOf
  rw [List.filter_flatMap]
  rfl

/-- The message formed for a queue pair that a unit transmits. -/
def formOf (q : Nat) : UnitWork → Option (Nat × Output)
  | .send n (.formed k _ o) _ => if n == q then some (k, o) else none
  | _ => none

theorem formsOf_eq (s : State) (q : Nat) : formsOf s q = (s.eng.rdma.flatMap engineWorks).filterMap (formOf q) := by
  unfold formsOf
  rw [List.filterMap_flatMap]
  congr 1
  funext e
  unfold engineWorks
  rw [List.filterMap_map]
  congr 1

theorem all_perm {α : Type} {a b : List α} (h : a.Perm b) (p : α → Bool) : a.all p = b.all p := by
  rw [Bool.eq_iff_iff, List.all_eq_true, List.all_eq_true]
  exact ⟨fun g x hx => g x (h.mem_iff.mpr hx), fun g x hx => g x (h.mem_iff.mp hx)⟩

theorem any_perm {α : Type} {a b : List α} (h : a.Perm b) (p : α → Bool) : a.any p = b.any p := by
  rw [Bool.eq_iff_iff, List.any_eq_true, List.any_eq_true]
  exact ⟨fun ⟨x, hx, g⟩ => ⟨x, h.mem_iff.mp hx, g⟩, fun ⟨x, hx, g⟩ => ⟨x, h.mem_iff.mpr hx, g⟩⟩

theorem SameRdma.resends {s t : State} (h : SameRdma s t) (q : Nat) : (resendsOf t q).Perm (resendsOf s q) := by
  rw [resendsOf_eq, resendsOf_eq]
  exact (h.filter _).symm

theorem SameRdma.resends_isEmpty {s t : State} (h : SameRdma s t) (q : Nat) : (resendsOf t q).isEmpty = (resendsOf s q).isEmpty := by
  have := (h.resends q).length_eq
  rw [Bool.eq_iff_iff, List.isEmpty_iff_length_eq_zero, List.isEmpty_iff_length_eq_zero, this]

theorem SameRdma.formTurn {s t : State} (h : SameRdma s t) (q : Nat) (w : SentWhat) : formTurn t q w = formTurn s q w := by
  unfold Machine.formTurn
  split
  · rw [formsOf_eq, formsOf_eq]
    exact (all_perm (h.filterMap _) _).symm
  · rfl

/-! ### What a unit may still need once another was dispatched -/

theorem unitReady_eq (s : State) (k : EngineKind) (u : EUnit) : unitReady s k u =
    (inputsReady s u.work && weightsHeld s u && !pullHeld s u && (u.slots == 0 || (s.eng.stage.take u.cls u.slots).isSome)
      && (u.credits == 0 || ((creditPool s k).bind fun p => p.take u.cls u.credits).isSome)) := rfl

theorem noMoreReady_of {s t : State} (hi : ∀ w, inputsReady t w = true → inputsReady s w = true)
    (hw : ∀ u, weightsHeld t u = weightsHeld s u) (hp : ∀ u, pullHeld t u = pullHeld s u)
    (hs : ∀ c n, (t.eng.stage.take c n).isSome = true → (s.eng.stage.take c n).isSome = true)
    (hc : ∀ k c n, ((creditPool t k).bind fun p => p.take c n).isSome = true →
      ((creditPool s k).bind fun p => p.take c n).isSome = true) : NoMoreReady s t := by
  intro k u h
  rw [unitReady_eq] at *
  simp only [Bool.and_eq_true, Bool.or_eq_true, hp, hw] at *
  exact ⟨⟨⟨⟨hi _ h.1.1.1.1, h.1.1.1.2⟩, h.1.1.2⟩, h.1.2.imp_right (hs _ _)⟩, h.2.imp_right (hc _ _ _)⟩

theorem putCredits_creditPool {k j : EngineKind} {p q : Pool} {s : State} (h : creditPool s j = some p) :
    creditPool (putCredits j q s) k = if k = j then some q else creditPool s k := by
  cases j <;> cases k <;> simp only [creditPool, putCredits] at * <;> simp_all [List.getElem?_set] <;>
    split <;> simp_all
  all_goals (obtain ⟨h, -⟩ := List.getElem?_eq_some_iff.mp h; omega)

/-- What `takeResources` changes: the stage pool and one port's credits, by takes of the unit's class. -/
theorem takeResources_cases (k : EngineKind) (u : EUnit) (s : State) : (takeResources k u s).1.work = u.work
    ∧ ∃ s1, (s1 = s ∨ ∃ t p, s.eng.stage.take u.cls u.slots = some (t, p) ∧ s1 = { s with eng := { s.eng with stage := p } })
      ∧ ((takeResources k u s).2 = s1
        ∨ ∃ p0 t p, creditPool s1 k = some p0 ∧ p0.take u.cls u.credits = some (t, p) ∧ (takeResources k u s).2 = putCredits k p s1) := by
  unfold takeResources
  split
  rename_i u1 s1 h
  have h1 : u1.work = u.work ∧ (s1 = s ∨ ∃ t p, s.eng.stage.take u.cls u.slots = some (t, p) ∧ s1 = { s with eng := { s.eng with stage := p } }) := by
    revert h
    split
    · intro h; cases h; exact ⟨rfl, .inl rfl⟩
    · rename_i t p ht
      intro h; cases h
      have ht : s.eng.stage.take u.cls u.slots = some (t, p) := by split at ht <;> simp_all
      exact ⟨rfl, .inr ⟨t, p, ht, rfl⟩⟩
  split
  · exact ⟨h1.1, s1, h1.2, .inl rfl⟩
  · rename_i t p ht
    have ht : (creditPool s1 k).bind (fun p => p.take u.cls u.credits) = some (t, p) := by split at ht <;> simp_all
    obtain ⟨p0, hp0, ht0⟩ := Option.bind_eq_some_iff.mp ht
    exact ⟨h1.1, s1, h1.2, .inr ⟨p0, t, p, hp0, ht0, rfl⟩⟩

theorem inputsReady_stage (p : Pool) (s : State) (w : UnitWork) :
    inputsReady { s with eng := { s.eng with stage := p } } w = inputsReady s w := by
  cases w <;> rfl

theorem inputsReady_putCredits (k : EngineKind) (p : Pool) (s : State) (w : UnitWork) :
    inputsReady (putCredits k p s) w = inputsReady s w := by
  cases k <;> cases w <;> rfl

theorem inputsReady_takeResources (k : EngineKind) (u : EUnit) (s : State) (w : UnitWork) :
    inputsReady (takeResources k u s).2 w = inputsReady s w := by
  obtain ⟨-, s1, h1, h2⟩ := takeResources_cases k u s
  have e : inputsReady s1 w = inputsReady s w := by
    rcases h1 with rfl | ⟨t, p, -, rfl⟩
    · rfl
    · exact inputsReady_stage p s w
  rcases h2 with h2 | ⟨_, _, _, _, _, h2⟩ <;> rw [h2]
  · exact e
  · rw [inputsReady_putCredits, e]

theorem takeResources_noMoreReady (k : EngineKind) (u : EUnit) (s : State) : NoMoreReady s (takeResources k u s).2 := by
  obtain ⟨-, s1, h1, h2⟩ := takeResources_cases k u s
  have e : NoMoreReady s s1 := by
    rcases h1 with rfl | ⟨t, p, ht, rfl⟩
    · exact fun _ _ h => h
    · exact noMoreReady_of (fun w h => by rwa [inputsReady_stage] at h) (fun _ => rfl) (fun _ => rfl)
        (fun c n h => Pool.take_shrinks ht h) (fun k c n h => by cases k <;> exact h)
  rcases h2 with h2 | ⟨p0, t, p, hp0, ht, h2⟩ <;> rw [h2]
  · exact e
  · refine e.trans (noMoreReady_of (fun w h => by rwa [inputsReady_putCredits] at h) (fun _ => ?_) (fun _ => ?_) (fun c n h => ?_)
      (fun j c n h => ?_))
    · cases k <;> rfl
    · cases k <;> rfl
    · cases k <;> exact h
    · rw [putCredits_creditPool hp0] at h
      split at h
      · subst j
        rw [hp0]
        exact Pool.take_shrinks ht h
      · exact h

theorem takeResources_getEngine (k j : EngineKind) (u : EUnit) (s : State) :
    getEngine (takeResources k u s).2 j = getEngine s j := by
  obtain ⟨-, s1, h1, h2⟩ := takeResources_cases k u s
  have e : getEngine s1 j = getEngine s j := by rcases h1 with rfl | ⟨_, _, _, rfl⟩ <;> cases j <;> rfl
  rcases h2 with h2 | ⟨_, _, _, _, _, h2⟩ <;> rw [h2]
  · exact e
  · rw [← e]; cases k <;> cases j <;> rfl

theorem qpOpen_congr {s t : State} (hc : t.cfg = s.cfg) (hl : t.net.lports = s.net.lports) (he : t.net.eports = s.net.eports)
    (hsp : t.splice = s.splice) (hse : t.sec = s.sec) (hpo : t.power = s.power) (q : Qp) : qpOpen t q = qpOpen s q := by
  have hs : spliceUp t = spliceUp s := by funext n; simp only [spliceUp, findSplice, hsp]
  simp only [qpOpen, hs, holdsAddress, findLport, lportServed, lportUp, relayed, routeEntry, routePort, linkLocal, macOf,
    hc, hl, he, hse, hpo]

/-- Two states whose engines hold the same works: what a queue pair may send is the same. -/
theorem inputsReady_sameRdma {s t : State} (h : SameRdma s t) (hc : t.cfg = s.cfg) (hn : t.net = s.net) (hsp : t.splice = s.splice)
    (hse : t.sec = s.sec) (hpo : t.power = s.power) (w : UnitWork) : inputsReady t w = inputsReady s w := by
  have hq : ∀ q, qpOpen t q = qpOpen s q := qpOpen_congr hc (by rw [hn]) (by rw [hn]) hsp hse hpo
  cases w <;> try rfl
  · simp only [inputsReady, qpReady, findQp, hn, hq, h.resends_isEmpty, h.formTurn]
  · rename_i qpn psn a b
    have e : ∀ m : Sent, (resendsOf t qpn).any (resendsAt m.firstPsn) = (resendsOf s qpn).any (resendsAt m.firstPsn) :=
      fun m => any_perm (h.resends qpn) _
    simp only [inputsReady, resendReady, findQp, hn, hq, e]

/-- What `qpReady` asks of the queue pair found. -/
def qpFit (s : State) (n : Nat) (q : Qp) (w : SentWhat) : Bool :=
  qpOpen s q && (q.sending.isNone || q.sending == some w) && (resendsOf s n).isEmpty && formTurn s n w
    && (!isRead w || decide ((q.sent.filter fun m => isRead m.what).length < q.initiatorDepth))

theorem qpReady_eq (s : State) (n : Nat) (w : SentWhat) : qpReady s n w = ((findQp s n).map fun q => qpFit s n q w).getD false := by
  unfold qpReady
  cases findQp s n <;> rfl

theorem findQp_setQp_self (s : State) (n : Nat) (f : Qp → Qp) (hf : ∀ q, qpnOf (f q) = qpnOf q) :
    findQp (setQp n f s) n = (findQp s n).map f :=
  find?_updWhere _ _ (fun x hx => by rw [hf]; exact hx) _

theorem findQp_setQp_ne (s : State) {n m : Nat} (h : m ≠ n) (f : Qp → Qp) (hf : ∀ q, qpnOf (f q) = qpnOf q) :
    findQp (setQp n f s) m = findQp s m := by
  refine find?_updWhere_of_ne _ _ _ (fun x hx => ?_) (fun x hx => ?_) _
  · simp at hx ⊢; omega
  · simp at hx ⊢; rw [hf]; omega

theorem setQp_sending_qpReady {s : State} {qpn : Nat} {what : SentWhat} (h : qpReady s qpn what = true) (n : Nat)
    (w : SentWhat) (hw : qpReady (setQp qpn (fun q => { q with sending := some what }) s) n w = true) :
    qpReady s n w = true := by
  rw [qpReady_eq] at *
  by_cases hn : n = qpn
  · subst hn
    rw [findQp_setQp_self s n (fun q => { q with sending := some what }) (fun _ => rfl)] at hw
    cases hq : findQp s n with
    | none => simp [hq] at h
    | some q =>
      simp only [hq, Option.map_some, Option.getD_some] at h hw ⊢
      have e : what = w := by
        simp only [qpFit, Bool.and_eq_true, Bool.or_eq_true] at hw
        simpa using hw.1.1.1.2
      exact e ▸ h
  · rw [findQp_setQp_ne s hn (fun q => { q with sending := some what }) (fun _ => rfl)] at hw
    exact hw

theorem setQp_sending_resendReady (s : State) (q : Nat) (what : SentWhat) (n : Nat) (psn : BitVec 24) :
    resendReady (setQp q (fun q => { q with sending := some what }) s) n psn = resendReady s n psn := by
  unfold resendReady
  by_cases hn : n = q
  · subst hn
    rw [findQp_setQp_self s n (fun q => { q with sending := some what }) (fun _ => rfl)]
    cases findQp s n <;> rfl
  · rw [findQp_setQp_ne s hn (fun q => { q with sending := some what }) (fun _ => rfl)]
    rfl

theorem foldl_use {α : Type} (f : State → α → State) (hf : ∀ s a, ∃ x, f s a = { s with jobs := { s.jobs with use := x } })
    (l : List α) (s : State) : ∃ x, l.foldl f s = { s with jobs := { s.jobs with use := x } } := by
  induction l generalizing s with
  | nil => exact ⟨s.jobs.use, rfl⟩
  | cons a t ih =>
    obtain ⟨x, hx⟩ := hf s a
    obtain ⟨y, hy⟩ := ih (f s a)
    exact ⟨y, by rw [List.foldl_cons, hy, hx]⟩

theorem chargeAttend_use (b : Nat) (s : State) : ∃ x, chargeAttend b s = { s with jobs := { s.jobs with use := x } } := by
  unfold chargeAttend
  split
  · exact ⟨s.jobs.use, rfl⟩
  · refine foldl_use _ (fun s m => ?_) _ s
    split
    · exact ⟨s.jobs.use, rfl⟩
    · exact ⟨_, rfl⟩

theorem beginSb_noMoreReady (p : Storyboard → Bool) (s : State) : NoMoreReady s (beginSb p s) :=
  noMoreReady_of (fun w h => by cases w <;> exact h) (fun _ => rfl) (fun _ => rfl) (fun c n h => h)
    (fun k c n h => by cases k <;> exact h)

theorem loadWeights_noMoreReady (k : EngineKind) (i : Nat) (u : EUnit) (s : State) : NoMoreReady s (loadWeights k i u s) := by
  unfold loadWeights
  split <;> exact noMoreReady_of (fun w h => by cases w <;> exact h) (fun _ => rfl) (fun _ => rfl) (fun c n h => h)
    (fun k c n h => by cases k <;> exact h)

theorem atDispatch_noMoreReady {u : EUnit} {s : State} (h : inputsReady s u.work = true) : NoMoreReady s (atDispatch u s) := by
  unfold atDispatch
  split
  · rename_i b _ _ _ _
    obtain ⟨x, hx⟩ := chargeAttend_use b s
    rw [hx]
    exact fun _ _ h => h
  · rename_i qpn what l hw
    rw [hw] at h
    refine noMoreReady_of (fun w h1 => ?_) (fun _ => rfl) (fun _ => rfl) (fun c n h => h) (fun k c n h => h)
    cases w <;> first | exact h1 | exact setQp_sending_qpReady h _ _ h1 | skip
    simpa only [inputsReady, setQp_sending_resendReady] using h1
  · exact beginSb_noMoreReady _ s
  · exact beginSb_noMoreReady _ s
  · exact beginSb_noMoreReady _ s
  · split
    · exact fun _ _ h => h
    · exact beginSb_noMoreReady _ s
  · exact fun _ _ h => h

theorem atDispatch_getEngine (u : EUnit) (s : State) (j : EngineKind) : getEngine (atDispatch u s) j = getEngine s j := by
  have hb : ∀ p, getEngine (beginSb p s) j = getEngine s j := fun p => by cases j <;> rfl
  unfold atDispatch
  split
  · rename_i b _ _ _ _
    obtain ⟨x, hx⟩ := chargeAttend_use b s
    rw [hx]; cases j <;> rfl
  · cases j <;> rfl
  · exact hb _
  · exact hb _
  · exact hb _
  · split
    · rfl
    · exact hb _
  · rfl

theorem loadWeights_getEngine (k : EngineKind) (i : Nat) (u : EUnit) (s : State) (j : EngineKind) :
    getEngine (loadWeights k i u s) j = getEngine s j := by
  unfold loadWeights
  split <;> cases j <;> rfl

theorem inputsReady_loadWeights (k : EngineKind) (i : Nat) (u : EUnit) (s : State) (w : UnitWork) :
    inputsReady (loadWeights k i u s) w = inputsReady s w := by
  unfold loadWeights
  split <;> cases w <;> rfl

theorem getEngine_putEngine_ne {k j : EngineKind} (h : j ≠ k) (e : Engine) (s : State) :
    getEngine (putEngine k e s) j = getEngine s j := by
  cases k <;> cases j <;> simp_all [getEngine, putEngine, Ne.symm]
  all_goals (rw [if_neg (fun h1 => h h1.symm)])

theorem chooseUnit_ready {s : State} {k : EngineKind} {e : Engine} {u : EUnit} {n : Nat} (h : chooseUnit s k e = some (u, n)) :
    unitReady s k u = true ∧ (instFor e u).isSome = true ∧ (u ∈ e.lcq ∨ u ∈ e.beq) := by
  have key : ∀ (l : List EUnit) (a : EUnit), l.find? (fun u => unitReady s k u && (instFor e u).isSome) = some a →
      unitReady s k a = true ∧ (instFor e a).isSome = true ∧ a ∈ l := fun l a ha => by
    have := List.find?_some ha
    simp only [Bool.and_eq_true] at this
    exact ⟨this.1, this.2, List.mem_of_find?_eq_some ha⟩
  unfold chooseUnit at h
  dsimp only at h
  split at h
  · rename_i a b ha hb
    simp only [Option.some.injEq, Prod.mk.injEq] at h
    obtain ⟨rfl, -⟩ := h
    split
    · exact (key _ _ hb).imp_right (And.imp_right .inr)
    · exact (key _ _ ha).imp_right (And.imp_right .inl)
  · rename_i a ha hb
    cases h
    exact (key _ _ ha).imp_right (And.imp_right .inl)
  · rename_i b ha hb
    cases h
    exact (key _ _ hb).imp_right (And.imp_right .inr)
  · cases h

theorem chooseUnit_none {s : State} {k : EngineKind} {e : Engine} : chooseUnit s k e = none ↔
    ∀ u, u ∈ e.lcq ∨ u ∈ e.beq → unitReady s k u = true → instFor e u = none := by
  have key : ∀ l : List EUnit, l.find? (fun u => unitReady s k u && (instFor e u).isSome) = none ↔
      ∀ u ∈ l, unitReady s k u = true → instFor e u = none := fun l => by
    simp [List.find?_eq_none]
  have split3 : chooseUnit s k e = none ↔ e.lcq.find? (fun u => unitReady s k u && (instFor e u).isSome) = none
      ∧ e.beq.find? (fun u => unitReady s k u && (instFor e u).isSome) = none := by
    unfold chooseUnit
    dsimp only
    split <;> simp_all
  rw [split3, key, key]
  exact ⟨fun h u hu => hu.elim (h.1 u) (h.2 u), fun h => ⟨fun u hu => h u (.inl hu), fun u hu => h u (.inr hu)⟩⟩

theorem getEngine_putEngine_self {k : EngineKind} {s : State} (h : getEngine s k ≠ idleEngine 0) (e : Engine) :
    getEngine (putEngine k e s) k = e := by
  cases k <;> simp only [getEngine, putEngine] at * <;> rename_i n <;> rw [List.getElem?_set_self']
  all_goals (cases hx : (_ : List Engine)[n]? <;> simp_all)

/-- An engine put back with the same works changes no queue pair's order. -/
theorem putEngine_sameRdma {k : EngineKind} {e : Engine} {s : State} (h : (engineWorks (getEngine s k)).Perm (engineWorks e)) :
    SameRdma s (putEngine k e s) := by
  cases k <;> try exact .refl _
  rename_i n
  simp only [SameRdma, putEngine, getEngine] at *
  generalize s.eng.rdma = l at *
  induction l generalizing n with
  | nil => exact .refl _
  | cons a t ih =>
    cases n with
    | zero => exact .append_right _ h
    | succ n => exact .append_left _ (ih n h)

/-- A unit that goes from a queue to an instance: the engine's works stay the same. -/
theorem engineWorks_dispatch {e : Engine} {u u1 : EUnit} {i k : Nat} (hw : u1.work = u.work) (hm : u ∈ e.lcq ∨ u ∈ e.beq) :
    (engineWorks e).Perm (engineWorks { e with
      lcq := e.lcq.erase u, beq := if e.lcq.contains u then e.beq else e.beq.erase u, k := k, busy := e.busy ++ [(i, u1)] }) := by
  unfold engineWorks
  simp only [List.map_append, List.map_cons, List.map_nil, hw, List.append_assoc]
  refine .append_left _ ?_
  by_cases hl : u ∈ e.lcq
  · have := ((List.perm_cons_erase hl).map EUnit.work).append_right (e.beq.map EUnit.work)
    simpa [hl] using this
  · have hb := hm.resolve_left hl
    have h1 := ((List.perm_cons_erase hb).map EUnit.work).append_left (e.lcq.map EUnit.work)
    rw [List.erase_of_not_mem hl, if_neg (by simpa using hl)]
    refine h1.trans ?_
    rw [List.map_cons]
    exact List.perm_middle

theorem inputsReady_putEngine {k : EngineKind} {e : Engine} {s : State} (h : (engineWorks (getEngine s k)).Perm (engineWorks e))
    (w : UnitWork) : inputsReady (putEngine k e s) w = inputsReady s w :=
  inputsReady_sameRdma (putEngine_sameRdma h) (by simp) (by simp) (by simp) (by simp) (by simp) w

theorem putEngine_noMoreReady {k : EngineKind} {e : Engine} {s : State} (h : (engineWorks (getEngine s k)).Perm (engineWorks e)) :
    NoMoreReady s (putEngine k e s) := by
  refine noMoreReady_of (fun w h1 => by rwa [inputsReady_putEngine h] at h1) (fun _ => ?_) (fun _ => ?_) (fun c n h1 => ?_)
    (fun j c n h1 => ?_)
  · cases k <;> rfl
  · cases k <;> rfl
  · cases k <;> exact h1
  · cases k <;> cases j <;> exact h1

/-- A dispatch of one kind: the other engines stand, nothing becomes ready, and its own queues lose a unit. -/
theorem dispatchOne_cases {k : EngineKind} {s t : State} (h : dispatchOne k s = some t) :
    (∀ j, j ≠ k → getEngine t j = getEngine s j) ∧ NoMoreReady s t
      ∧ ((getEngine t k).lcq.length + (getEngine t k).beq.length < (getEngine s k).lcq.length + (getEngine s k).beq.length) := by
  unfold dispatchOne at h
  dsimp only at h
  split at h
  · rename_i i u n hb
    obtain ⟨x, hc, hx⟩ := Option.bind_eq_some_iff.mp hb
    obtain ⟨i', hi, hx⟩ := Option.map_eq_some_iff.mp hx
    cases hx
    obtain ⟨hr, -, hm⟩ := chooseUnit_ready hc
    have hin : inputsReady s u.work = true := by
      rw [unitReady_eq] at hr
      simp only [Bool.and_eq_true] at hr
      exact hr.1.1.1.1
    have hwk := (takeResources_cases k u s).1
    have hE : (engineWorks (getEngine (takeResources k u s).2 k)).Perm (engineWorks { getEngine (takeResources k u s).2 k with
        lcq := (getEngine s k).lcq.erase u, beq := if (getEngine s k).lcq.contains u then (getEngine s k).beq else (getEngine s k).beq.erase u,
        k := n, busy := (getEngine s k).busy ++ [(i, (takeResources k u s).1)] }) := by
      rw [takeResources_getEngine]
      exact engineWorks_dispatch hwk hm
    cases h
    refine ⟨fun j hj => ?_, ?_, ?_⟩
    · rw [atDispatch_getEngine, loadWeights_getEngine, getEngine_putEngine_ne hj, takeResources_getEngine]
    · refine (takeResources_noMoreReady _ _ _).trans ((putEngine_noMoreReady hE).trans
        ((loadWeights_noMoreReady _ _ _ _).trans (atDispatch_noMoreReady ?_)))
      rw [inputsReady_loadWeights, inputsReady_putEngine hE, inputsReady_takeResources]
      exact hin
    · rw [atDispatch_getEngine, loadWeights_getEngine, getEngine_putEngine_self]
      · by_cases hl : u ∈ (getEngine s k).lcq
        · have := List.length_pos_of_mem hl
          simp [hl, List.length_erase_of_mem]; omega
        · have hb := hm.resolve_left hl
          have := List.length_pos_of_mem hb
          simp [hl, List.length_erase_of_mem hb, List.erase_of_not_mem hl]; omega
      · rw [takeResources_getEngine]
        intro h0
        rw [h0] at hm
        simp [idleEngine] at hm
  · cases h

theorem dispatchOne_none {k : EngineKind} {s : State} : dispatchOne k s = none ↔ chooseUnit s k (getEngine s k) = none := by
  unfold dispatchOne
  dsimp only
  cases hc : chooseUnit s k (getEngine s k) with
  | none => simp
  | some x =>
    obtain ⟨i, hi⟩ := Option.isSome_iff_exists.mp (chooseUnit_ready (u := x.1) (n := x.2) hc).2.1
    simp [hi]

/-- A kind of which nothing may start still has nothing that may start once others were dispatched. -/
theorem dispatchOne_none_mono {k : EngineKind} {s t : State} (he : getEngine t k = getEngine s k) (hr : NoMoreReady s t)
    (h : dispatchOne k s = none) : dispatchOne k t = none := by
  rw [dispatchOne_none, chooseUnit_none] at *
  rw [he]
  exact fun u hu h1 => h u hu (hr _ _ h1)

theorem pumpFuel_none {k : EngineKind} : ∀ (n : Nat) (s : State),
    (getEngine s k).lcq.length + (getEngine s k).beq.length ≤ n → dispatchOne k (pumpFuel k n s) = none
  | 0, s, h => by
    have h1 : (getEngine s k).lcq = [] := List.length_eq_zero_iff.mp (by omega)
    have h2 : (getEngine s k).beq = [] := List.length_eq_zero_iff.mp (by omega)
    rw [pumpFuel, dispatchOne_none, chooseUnit_none, h1, h2]
    simp
  | n + 1, s, h => by
    unfold pumpFuel
    split
    · assumption
    · rename_i t ht
      have := (dispatchOne_cases ht).2.2
      exact pumpFuel_none n t (by omega)

theorem pumpFuel_other {k j : EngineKind} (hj : j ≠ k) : ∀ (n : Nat) (s : State),
    dispatchOne j s = none → dispatchOne j (pumpFuel k n s) = none
  | 0, s, h => h
  | n + 1, s, h => by
    unfold pumpFuel
    split
    · exact h
    · rename_i t ht
      obtain ⟨h1, h2, -⟩ := dispatchOne_cases ht
      exact pumpFuel_other hj n t (dispatchOne_none_mono (h1 j hj) h2 h)

/-- Dispatching every kind leaves no idle instance beside a unit that may start. -/
theorem pumpAll_noUnitWaits (s : State) : NoUnitWaits (pumpAll s) := by
  have key : ∀ (l : List EngineKind) (s : State) (k : EngineKind),
      (k ∈ l ∨ dispatchOne k s = none) → dispatchOne k (l.foldl (fun s k => pump k s) s) = none := by
    intro l
    induction l with
    | nil => intro s k h; exact h.resolve_left (by simp)
    | cons a l ih =>
      intro s k h
      rw [List.foldl_cons]
      apply ih
      by_cases hk : k = a
      · subst hk; exact .inr (pumpFuel_none _ _ (Nat.le_refl _))
      · rcases h with h | h
        · exact .inl ((List.mem_cons.mp h).resolve_left hk)
        · exact .inr (pumpFuel_other hk _ _ h)
  exact fun k hk => key allKinds s k (.inl hk)

/-- The queue of commands is nothing that a dispatch looks at. -/
theorem noUnitWaits_pending {s : State} (h : NoUnitWaits s) (p : List Instr) : NoUnitWaits { s with pending := p } := by
  intro k hk
  refine dispatchOne_none_mono (s := s) (t := { s with pending := p }) ?_ 
    (noMoreReady_of (fun w h => ?_) (fun _ => rfl) (fun _ => rfl) (fun c n h => h) (fun j c n h => ?_)) (h k hk)
  · cases k <;> rfl
  · cases w <;> exact h
  · cases j <;> exact h

/-- After a command's end no unit waits beside an idle instance. -/
theorem settled_noUnitWaits (s u : State) : NoUnitWaits (settled s u) :=
  noUnitWaits_pending (pumpAll_noUnitWaits _) _

/-! ## The channels leave no operation waiting that they can issue -/

/-- The operations that have not been issued. -/
def nandLeft (s : State) : Nat := (s.flash.ops.filter fun o => !o.issued).length

theorem chooseNand_mem {s : State} {o : NandOp} {b : Bool} (h : chooseNand s = some (o, b)) : o ∈ s.flash.ops ∧ o.issued = false := by
  have key : ∀ (p : NandOp → Bool) (x : NandOp), (sortBy (nandBefore s) (s.flash.ops.filter fun o => !o.issued)).find? p = some x →
      x ∈ s.flash.ops ∧ x.issued = false := fun p x hx => by
    have := (mem_sortBy _ _ x).mp (List.mem_of_find?_eq_some hx)
    simpa using this
  obtain ⟨a, ha, he⟩ := Option.map_eq_some_iff.mp h
  dsimp only at he
  split at he
  · cases he; exact key _ _ ha
  · rename_i c hc
    cases he
    split
    · split at hc
      · exact key _ _ hc
      · cases hc
    · exact key _ _ ha

theorem issueNandOp_left {s t : State} (h : issueNandOp s = some t) : nandLeft t < nandLeft s := by
  obtain ⟨⟨o, b⟩, hx, rfl⟩ := Option.map_eq_some_iff.mp h
  obtain ⟨hm, hi⟩ := chooseNand_mem hx
  simp only [nandLeft, List.filter_map, List.length_map]
  refine length_filter_lt (fun x h => ?_) (by simp [hi]) (a := o) (by simp) hm
  simp only [Function.comp] at h
  split at h
  · simp at h
  · split at h <;> exact h

theorem issueNandFuel_none : ∀ (n : Nat) (s : State), nandLeft s ≤ n → chooseNand (issueNandFuel n s) = none
  | 0, s, h => by
    unfold issueNandFuel
    cases hc : chooseNand s with
    | none => rfl
    | some x =>
      obtain ⟨hm, hi⟩ := chooseNand_mem (o := x.1) (b := x.2) hc
      have : 0 < nandLeft s := List.length_pos_of_mem (List.mem_filter.mpr ⟨hm, by simp [hi]⟩)
      omega
  | n + 1, s, h => by
    unfold issueNandFuel
    split
    · rename_i hn; exact Option.map_eq_none_iff.mp hn
    · rename_i t ht
      have := issueNandOp_left ht
      exact issueNandFuel_none n t (by omega)

/-- After a command's end no channel holds back an operation that it can issue. -/
theorem settled_noNandWaits (s u : State) : chooseNand (settled s u) = none := by
  have h : chooseNand (issueNand u) = none := issueNandFuel_none _ _ (List.length_filter_le _ _)
  have h2 := pumpAll_dispatchOnly (issueNand u)
  unfold DispatchOnly at h2
  unfold settled
  rw [h2]
  exact h

/-! ## The control complex -/

/-- With nothing else in its queues and a core idle, the control complex runs the one step that is queued. -/
theorem runControl_alone (slot : Nat) (cls : Cls) (s : State) (hl : s.eng.control.lcq = []) (hb : s.eng.control.beq = [])
    (hi : idleInst s.eng.control ≠ none) :
    runControl 1 (queueUnit .control (newUnit cls (.step slot) 0 0) s) = skometStep (.step slot) s := by
  obtain ⟨i, hi⟩ := Option.ne_none_iff_exists'.mp hi
  have hi2 : ∀ l b, idleInst { s.eng.control with lcq := l, beq := b } = some i := fun _ _ => hi
  have e : putEngine .control { s.eng.control with lcq := [], beq := [] } s = s := by
    have : ∀ e : Engine, e.lcq = [] → e.beq = [] → { e with lcq := [], beq := [] } = e := by rintro ⟨⟩ h1 h2; simp_all
    rw [this _ hl hb]; rfl
  have hc : chooseUnit (queueUnit .control (newUnit cls (.step slot) 0 0) s) .control
      (queueUnit .control (newUnit cls (.step slot) 0 0) s).eng.control
      = some (newUnit cls (.step slot) 0 0, s.eng.control.k) := by
    cases cls <;>
      simp [chooseUnit, queueUnit, newUnit, getEngine, putEngine, hl, hb, unitReady, inputsReady, weightsHeld, pullHeld, instFor, hi2]
  unfold runControl
  rw [hc]
  show skometStep _ _ = _
  refine congrArg (skometStep (.step slot)) ?_
  refine Eq.trans ?_ e
  cases cls <;> simp [queueUnit, newUnit, getEngine, putEngine, hl, hb]

end Sys2Proof.Machine
end

