-- ==== Sys2Proof/Machine/Registers.lean ====
section
/-! DEFINITION. What a read of BAR0 returns (R10, R11, R365, Tables 13.2 to 13.8): an RO or W1C field its current value, an RW
field what was last written, a WO field and a reserved bit zero. -/
namespace Sys2Proof.Machine

/-- FUNC_INFO (Table 13.3). -/
def funcInfo (s : State) (port link fn : Nat) : Nat := ringsPerFn s port link * 2 ^ 16 + port * 2 ^ 9 + link * 2 ^ 8 + fn

/-- LANE_BASE (Table 13.3): the lane identifier of the function's local ring pair 0 (R363, R289). -/
def laneBase (s : State) (port link fn : Nat) : Nat := ringLane port (ringNumber s port link fn 0)

/-- WINDOW_GRANULES (Table 13.3): of the PF of a port trained as CXL, else 0. -/
def windowGranules (s : State) (port link fn : Nat) : Nat :=
  if link == 0 && fn == 0 && (findWindow s port).cxl then (findWindow s port).granules else 0

/-- A function register by its offset (Table 13.3); the rest of its 256 bytes is reserved. -/
def readFunc (s : State) (f : FuncRegs) : Nat → Nat
  | 0x00 => funcInfo s f.port f.link f.fn
  | 0x04 => laneBase s f.port f.link f.fn
  | 0x08 => f.events
  | 0x0C => f.mask
  | 0x10 => f.vector
  | 0x14 => deviceState s
  | 0x18 => s.sec.resetGen
  | 0x1C => windowGranules s f.port f.link f.fn
  | _ => 0

/-- RP_CONTROL (Table 13.6). -/
def rpControl (r : RingPair) : Nat :=
  (if r.enable then 2 ^ 31 else 0) + r.sqOrder * 2 ^ 24 + r.cqOrder * 2 ^ 20 + r.coalesce * 2 ^ 8 + r.vector

/-- RP_STATUS (Table 13.7): BOUND while the ring pair's lane is bound to a job, RUNNING while ENABLE is set and FAULT clear. -/
def rpStatus (s : State) (r : RingPair) : Nat :=
  r.faultCause * 2 ^ 8 + (if r.fault then 4 else 0) + (if (findLane s (ringLane r.port r.ring)).isSome then 2 else 0)
    + (if r.enable && !r.fault then 1 else 0)

/-- A ring-pair block at `off` of it, in an access of `size` bytes that its register accepts (Table 13.5). -/
def readRing (s : State) (r : RingPair) (off size : Nat) : Option Nat :=
  match off, size with
  | 0x00, 8 => some r.bounceBase.toNat
  | 0x00, 4 => some (r.bounceBase.toNat % 2 ^ 32)
  | 0x04, 4 => some (r.bounceBase.toNat / 2 ^ 32)
  | 0x08, 4 => some r.bouncePages.toNat
  | 0x0C, 4 => some (rpControl r)
  | 0x10, 4 => some (rpStatus s r)
  | 0x14, 2 => some r.sqHead
  | 0x16, 2 => some r.cqTail
  | 0x18, 8 | 0x18, 4 | 0x1C, 4 => some 0
  | _, _ => none

/-- A dword of the MSI-X table: as last written, a vector's control dword with its mask set before that. [PRESUMED, log 84] -/
def readMsix (f : FuncRegs) (dword : Nat) : Nat :=
  ((f.msix.find? fun x => x.1 == dword).map fun x => x.2.toNat).getD (if dword % 4 == 3 then 1 else 0)

/-- A dword of the PBA: bit n of the array is set while vector n's message is pending. [PRESUMED, log 84] -/
def readPba (f : FuncRegs) (dword : Nat) : Nat :=
  sumOf (fun v => if v / 32 == dword then 2 ^ (v % 32) else 0) f.pba

/-- A 4- or 8-byte read of a table of dwords. -/
def readDwords (dwordAt : Nat → Nat) (d size : Nat) : Option Nat :=
  if size == 4 then some (dwordAt d) else if size == 8 then some (dwordAt d + dwordAt (d + 1) * 2 ^ 32) else none

/-- What a function's BAR0 answers to an aligned read at `offset` of `size` bytes; none where no register accepts the access, or
in the CXL registers of a port trained as CXL, whose contents CXL 3.1 gives. A reserved range reads as zero. [DEDUCED, log 147] -/
def readBar (s : State) (f : FuncRegs) (offset size : Nat) : Option Nat :=
  let pf := ringsPerFn s f.port f.link
  if offset % size != 0 then none
  else if offset < 0x100 then (if size == 4 then some (readFunc s f offset) else none)
  else if offset < 0x900 then
    let i := (offset - 0x100) / 32
    if i < pf then
      let n := ringNumber s f.port f.link f.fn i
      readRing s ((findRing s f.port n).getD (freshRing s f.port f.link n)) (offset % 32) size
    else some 0
  else if 0x8000 ≤ offset && offset < 0x8000 + 16 * (pf + 1) then readDwords (readMsix f) ((offset - 0x8000) / 4) size
  else if 0x9000 ≤ offset && offset < 0x9010 then readDwords (readPba f) ((offset - 0x9000) / 4) size
  else if 0xA000 ≤ offset && offset < 0xC000 && f.link == 0 && f.fn == 0 && (findWindow s f.port).cxl then none
  else some 0

/-- A host's read of BAR0 on a link where it is served (R385). -/
def readRegister (s : State) (port link fn offset size : Nat) : Option U64 :=
  if barServed s port link then
    ((findFunc s port link fn).bind fun f => readBar s f offset size).map (BitVec.ofNat 64)
  else none

end Sys2Proof.Machine
end

