-- ==== Sys2Proof/WellFormed.lean ====
section
/-! DEFINITION. Which terms are commands that can arrive: each operand lies in the range that the spec gives it. The step
takes any term; this says which ones mean something outside. -/
namespace Sys2Proof

/-! ## Packets (Tables 10.1 to 10.3, 10.8) -/

/-- The lane of a packet is one of its path (R289): a ring pair of two host ports with 4,096 numbers each, a queue pair whose
header names it, or a management session. -/
def wfLane (p : Packet) : Bool :=
  match p.path with
  | .pcie => decide (0x800000 ≤ p.lane) && decide (p.lane < 0x802000)
  | .rdma => decide (p.lane < 0x800000) && p.bth.qpn == p.lane && decide (p.bth.lport < 16)
  | .mgmt => decide (0x1000000 ≤ p.lane)

/-- The packet carries the opcode of its row (Table 10.11). -/
def wfOpcode (p : Packet) (op : Nat) : Bool := p.opWord.toNat % 65536 == op

/-- A command packet of a row. -/
def wfPacket (op : Nat) (p : Packet) : Bool := wfLane p && wfOpcode p op

/-- The opcodes of Table 10.11. -/
def knownOpcode (op : Nat) : Bool :=
  [0x0101, 0x0102, 0x0103, 0x0201, 0x0202, 0x0203, 0x0301, 0x0302, 0x0303, 0x0304, 0x0401, 0x0402, 0x0403, 0x0404, 0x0405,
   0x0501, 0x0502, 0x0503, 0x0601, 0x0602, 0x0603, 0x0701, 0x0702, 0x0703, 0x0704, 0x0705, 0x0801, 0x0802, 0x0901, 0x0902,
   0x0A01, 0x0A02, 0x0A03, 0x0A04, 0x0A05, 0x0A06, 0x0A07, 0x0A08, 0x0A09, 0x0A0A, 0x0A0B, 0x0A0C, 0x0A0D].contains op

/-- An opcode that Table 10.11 does not list. -/
def wfUnknown (p : Packet) : Bool := wfLane p && !knownOpcode (p.opWord.toNat % 65536)

/-! ## Ports -/

/-- A host port and its link (R361). -/
def wfLink (port link : Nat) : Bool := decide (port < 2) && decide (link < 2)

/-- A host port. -/
def wfHost (port : Nat) : Bool := decide (port < 2)

/-- A ring pair's number is one of its link (Table 13.1). -/
def wfRing (port link ring : Nat) : Bool := wfLink port link && decide (2048 * link ≤ ring) && decide (ring < 4096)

/-- A logical Ethernet port (Table 12.1), and a physical one. -/
def wfLport (n : Nat) : Bool := decide (n < 16)
def wfEth (n : Nat) : Bool := decide (n < 4)

/-- A port that has addresses: a logical Ethernet port, or 16 for the management port. -/
def wfIpPort (n : Nat) : Bool := decide (n < 17)

/-- A priority (R336). -/
def wfPrio (n : Nat) : Bool := decide (n < 8)

/-- A QPN of an RC queue pair (Table 12.3): QP_GEN is 1 to 63. -/
def wfQpn (n : Nat) : Bool := decide (2 ^ 17 ≤ n) && decide (n < 0x800000)

/-- An RC packet's header. -/
def wfBth (h : Bth) : Bool := wfLport h.lport && decide (h.qpn < 0x800000)

/-- A splice port. -/
def wfSplice (n : Nat) : Bool := decide (n < 4)

/-- The relays that an envelope counts (Table 15.2). -/
def wfEnvelope (e : Envelope) : Bool := decide (e.relays < 256)

/-- The keys of a match-in's body (Table 4.6). -/
def wfKeys (b : MatchInBody) : Bool := decide (1 ≤ b.keys.length) && decide (b.keys.length ≤ 1024)

/-- A CXL line's 64 bytes and their enables (R378). -/
def wfLine (data : List Byte) (enables : List Bool) : Bool := data.length == 64 && enables.length == 64

/-- The size of a register write (R365). -/
def wfSize (n : Nat) : Bool := n == 1 || n == 2 || n == 4 || n == 8

/-- The causes of Table 16.9 that a fatal NAK has: 3 remote access, 4 remote operation, 5 invalid request. -/
def wfNak (n : Nat) : Bool := decide (3 ≤ n) && decide (n ≤ 5)

/-! ## Units (Table 1.1) -/

/-- An instance of an engine kind of `n`, spares among them. -/
def wfInst (n i : Nat) : Bool := decide (i < n)

/-- A sliver, a reel core's number (R58). -/
def wfSliver (n : Nat) : Bool := decide (n < 6144)

/-- A section of the match array (R96). -/
def wfSection (n : Nat) : Bool := decide (n < 4)

/-- The kinds that an ENGINE_UNIT_OVERRUN names: tile, codec, crypto, mover, hasher, and the port engines. -/
def wfKind (n : Nat) : Bool := [1, 3, 11, 12, 13, 14, 15, 16].contains n

/-- A tier that the daily scrub reads (R161). -/
def wfScrub (t : Tier) : Bool := t != .t3

/-- A stop-all's source (Table 16.9). -/
def wfSource (n : Nat) : Bool := decide (1 ≤ n) && decide (n ≤ 6)

/-! ## The gaffer's inputs (Table 17.2, R468), in mV and tenths of a degree -/

def wfSag (v : Nat) : Bool := decide (v < 42200)
def wfLow (v : Nat) : Bool := decide (v < 36200)
def wfHigh (v : Nat) : Bool := decide (65800 < v)
def wfOn (v : Nat) : Bool := decide (44800 < v) && decide (v < 65000)
def wfSensor (n : Nat) : Bool := decide (n < 48)
def wfCool (tj hbm : Nat) : Bool := decide (tj < 900) && decide (hbm < 900)

/-! ## Commands -/

/-- The command packets. -/
def wfCommand : Instr → Option Bool
  | .jobOpen p _ => some (wfPacket 0x0101 p)
  | .jobClose p _ => some (wfPacket 0x0102 p)
  | .jobQuery p _ => some (wfPacket 0x0103 p)
  | .modelLoad p _ => some (wfPacket 0x0201 p)
  | .modelUnload p _ => some (wfPacket 0x0202 p)
  | .modelQuery p _ => some (wfPacket 0x0203 p)
  | .lookup p _ => some (wfPacket 0x0301 p)
  | .lookupPin p _ => some (wfPacket 0x0302 p)
  | .lookupExtend p _ => some (wfPacket 0x0303 p)
  | .unpin p _ => some (wfPacket 0x0304 p)
  | .ingestOpen p _ => some (wfPacket 0x0401 p)
  | .ingestPull p _ => some (wfPacket 0x0402 p)
  | .ingestPushSlots p _ => some (wfPacket 0x0403 p)
  | .ingestCommit p _ => some (wfPacket 0x0404 p)
  | .ingestAbort p _ => some (wfPacket 0x0405 p)
  | .deliver p _ => some (wfPacket 0x0501 p)
  | .deliverCancel p _ => some (wfPacket 0x0502 p)
  | .deliverStatus p _ => some (wfPacket 0x0503 p)
  | .attendOpen p _ => some (wfPacket 0x0601 p)
  | .attend p _ => some (wfPacket 0x0602 p)
  | .attendClose p _ => some (wfPacket 0x0603 p)
  | .evict p _ => some (wfPacket 0x0701 p)
  | .promote p _ => some (wfPacket 0x0702 p)
  | .hint p _ => some (wfPacket 0x0703 p)
  | .purgeScope p _ => some (wfPacket 0x0704 p)
  | .purgeTenant p _ => some (wfPacket 0x0705 p)
  | .attest p _ => some (wfPacket 0x0801 p)
  | .keyRotateOpen p _ => some (wfPacket 0x0802 p)
  | .keyRotateQuery p _ => some (wfPacket 0x0802 p)
  | .statsRead p _ => some (wfPacket 0x0901 p)
  | .eventsRead p _ => some (wfPacket 0x0902 p)
  | .hostWindowSet p _ => some (wfPacket 0x0A01 p)
  | .tenantQuotaSet p _ => some (wfPacket 0x0A02 p)
  | .classSet p _ => some (wfPacket 0x0A03 p)
  | .spareMapRead p _ => some (wfPacket 0x0A04 p)
  | .spareMapRetire p _ => some (wfPacket 0x0A04 p)
  | .fwStage p a => some (wfPacket 0x0A05 p && a.image.length == a.imageLen.toNat)
  | .fwActivate p _ => some (wfPacket 0x0A06 p)
  | .portConfig p _ => some (wfPacket 0x0A07 p)
  | .wearBudgetSet p _ => some (wfPacket 0x0A08 p)
  | .spliceRouteWrite p _ => some (wfPacket 0x0A09 p)
  | .spliceDeviceNumberSet p _ => some (wfPacket 0x0A09 p)
  | .deviceResetCompute p _ => some (wfPacket 0x0A0A p)
  | .deviceResetFull p _ => some (wfPacket 0x0A0A p)
  | .deviceResetPort p _ => some (wfPacket 0x0A0A p)
  | .tenantRegister p _ => some (wfPacket 0x0A0B p)
  | .tenantRemove p _ => some (wfPacket 0x0A0C p)
  | .debugUnlock p _ => some (wfPacket 0x0A0D p)
  | .unknownOpcode p => some (wfUnknown p)
  | _ => none

/-- The requests and events of the host ports. -/
def wfHostRow : Instr → Option Bool
  | .doeDiscovery port _ => some (wfHost port)
  | .getVersion port => some (wfHost port)
  | .getCapabilities port => some (wfHost port)
  | .negotiateAlgorithms port _ => some (wfHost port)
  | .getDigests port => some (wfHost port)
  | .getCertificate port _ _ _ => some (wfHost port)
  | .challenge port _ _ => some (wfHost port)
  | .getMeasurements port _ _ => some (wfHost port)
  | .getPoisonList port => some (wfHost port)
  | .identifyMemoryDevice port => some (wfHost port)
  | .getPartitionInfo port => some (wfHost port)
  | .getHealthInfo port => some (wfHost port)
  | .getEventRecords port => some (wfHost port)
  | .clearEventRecords port => some (wfHost port)
  | .mailboxUnsupported port _ => some (wfHost port)
  | .cxlMemRead port _ _ => some (wfHost port)
  | .cxlMemWrite port _ data enables _ => some (wfHost port && wfLine data enables)
  | .cxlIoBar2Request port _ => some (wfHost port)
  | .birsp port _ => some (wfHost port)
  | .fenceTimeout port _ => some (wfHost port)
  | .pcieConfigRequest port link _ => some (wfLink port link)
  | .functionLevelReset port link _ => some (wfLink port link)
  | .vfEnableChange port link _ _ => some (wfLink port link)
  | .perstAssert port link => some (wfLink port link)
  | .perstRelease port link => some (wfLink port link)
  | .hostLinkDown port link => some (wfLink port link)
  | .hostLinkTrained port link _ => some (wfLink port link)
  | .doorbellSqTail port link ring _ _ => some (wfRing port link ring)
  | .doorbellCqHead port link ring _ => some (wfRing port link ring)
  | .rpEnable port link ring _ => some (wfRing port link ring)
  | .rpDisable port link ring => some (wfRing port link ring)
  | .registerWrite port link _ _ size _ => some (wfLink port link && wfSize size)
  | .msixCoalesceExpiry port _ => some (wfHost port)
  | _ => none

/-- The frames, packets and timers of the Ethernet ports. -/
def wfNetRow : Instr → Option Bool
  | .arpRequest lport _ => some (wfLport lport)
  | .neighborDiscovery lport _ => some (wfLport lport)
  | .icmpEcho lport _ _ => some (wfLport lport)
  | .rxOtherDrop lport => some (wfLport lport)
  | .pfcFrameReceived port prio _ => some (wfEth port && wfPrio prio)
  | .pfcPauseRefresh port _ => some (wfEth port)
  | .pfcPauseTimeExpiry port prio => some (wfEth port && wfPrio prio)
  | .cnpReceived qpn _ => some (wfQpn qpn)
  | .rateLimiterTick qpn => some (wfQpn qpn)
  | .cmReq r => some (wfLport r.lport)
  | .cmRtu qpn => some (wfQpn qpn)
  | .cmMra qpn => some (wfQpn qpn)
  | .cmRej qpn => some (wfQpn qpn)
  | .cmDreq qpn => some (wfQpn qpn)
  | .cmDrep qpn => some (wfQpn qpn)
  | .cmResponseTimeout qpn => some (wfQpn qpn)
  | .qpUnboundTimeout qpn => some (wfQpn qpn)
  | .contextFreeTimeout qpn => some (wfQpn qpn)
  | .contextFetchDone qpn _ => some (wfQpn qpn)
  | .ackTimeout qpn => some (wfQpn qpn)
  | .rnrTimerExpiry qpn => some (wfQpn qpn)
  | .ackSendTimer qpn => some (wfQpn qpn)
  | .rdmaWriteReceived h _ _ _ => some (wfBth h)
  | .slotConsume h _ _ _ _ o => some (wfBth h && o != .sealFailed)
  | .cue h _ => some (wfBth h)
  | .rdmaReadRequest h _ _ _ => some (wfBth h)
  | .rdmaInvalidRequest h => some (wfBth h)
  | .ackReceived h => some (wfBth h)
  | .nakSequenceReceived h => some (wfBth h)
  | .rnrNakReceived h _ => some (wfBth h)
  | .nakFatalReceived h kind => some (wfBth h && wfNak kind)
  | .readResponseReceived h _ _ _ => some (wfBth h)
  | .ethLinkDown lport => some (wfLport lport)
  | .ethLinkUp lport => some (wfLport lport)
  | .dhcpReply port _ => some (wfIpPort port)
  | .routerAdvertisement port _ => some (wfIpPort port)
  | .addressLifetimeExpiry port _ _ => some (wfIpPort port)
  | _ => none

/-- An upset: a physical bank, a position and a stored bit (R96, Table 4.2). -/
def wfUpset (bank pos bit : Nat) : Bool := decide (bank < 16896) && decide (pos < 256) && decide (bit < 106)

/-- The units' ends, the reel cores' work and the background operations. -/
def wfUnitRow : Instr → Option Bool
  | .attentionUnitEnd i _ => some (wfInst 264 i)
  | .projectionUnitEnd i _ => some (wfInst 264 i)
  | .mergeUnitEnd i _ => some (wfInst 264 i)
  | .codecUnitEnd i _ => some (wfInst 68 i)
  | .cryptoUnitEnd i _ => some (wfInst 64 i)
  | .keyHasherUnitEnd i _ => some (wfInst 128 i)
  | .moverUnitEnd i _ _ => some (wfInst 48 i)
  | .rdmaUnitEnd i _ => some (wfInst 4 i)
  | .hostPortUnitEnd i _ _ => some (wfInst 2 i)
  | .spliceUnitEnd i => some (wfInst 4 i)
  | .engineUnitOverrun kind _ => some (wfKind kind)
  | .matchProbeResult n as bs => some (wfSection n && (as ++ bs).all fun u => wfUpset 0 u.1 u.2 && decide (u.2 < 53))
  | .continuityScan us => some (us.all fun u => wfUpset u.1 u.2.1 u.2.2)
  | .sliverInsert n => some (wfSliver n)
  | .sliverPin n => some (wfSliver n)
  | .sliverPinDrop n => some (wfSliver n)
  | .sliverScore n => some (wfSliver n)
  | .sliverConfirm n => some (wfSliver n)
  | .sliverDropOffer n _ => some (wfSliver n)
  | .sliverStateCommit n => some (wfSliver n)
  | .matchArrayRefill n => some (wfSliver n)
  | .dollyInsert n => some (wfSection n)
  | .dollyRemove n => some (wfSection n)
  | .dollyHint n => some (wfSection n)
  | .dollyRepair n => some (wfSection n)
  | .controlCoreFault n _ => some (wfSource n)
  | .patrolScrub t _ _ _ _ => some (wfScrub t)
  | _ => none

/-- The gaffer's events and the splice ports' messages. -/
def wfPlatformRow : Instr → Option Bool
  | .startup v _ => some (wfOn v)
  | .sagWarn v => some (wfSag v)
  | .vinBelowReset v => some (wfLow v)
  | .vinOverVoltage v => some (wfHigh v)
  | .thermalTick n _ _ => some (wfSensor n)
  | .thermalTripRelease tj hbm => some (wfCool tj hbm)
  | .splicePhyTrained port => some (wfSplice port)
  | .hello port _ _ _ _ => some (wfSplice port)
  | .report port _ => some (wfSplice port)
  | .key port _ _ => some (wfSplice port)
  | .spliceDomainRetry port => some (wfSplice port)
  | .spliceAttestRetry port => some (wfSplice port)
  | .spliceLinkDown port => some (wfSplice port)
  | .spliceFrameRetry port => some (wfSplice port)
  | .matchIn port e b => some (wfSplice port && wfEnvelope e && wfKeys b)
  | .matchOut port e _ => some (wfSplice port && wfEnvelope e)
  | .frame port e lport _ _ => some (wfSplice port && wfEnvelope e && wfLport lport)
  | _ => none

/-- Whether a term is a command that can arrive. A row that no check names takes any operands. [DESIGN CHOICE, log 134] -/
def wellFormed (i : Instr) : Bool :=
  ((wfCommand i).orElse fun _ => (wfHostRow i).orElse fun _ => (wfNetRow i).orElse fun _ => (wfUnitRow i).orElse fun _ =>
    wfPlatformRow i).getD true

end Sys2Proof
end

