-- ==== Sys2Proof/Tests/Slice0.lean ====
section
/-! SUPPORT. The model's own tests: for every statement with hypotheses a state and operands that meet them, an ill-formed
term for each check of WellFormed, and a few steps on small states. Expected values are worked from the spec by hand. -/
namespace Sys2Proof.Tests
set_option Elab.async false
open Sys2Proof Sys2Proof.Machine

/-! ## A running device -/

def anyQuotas : Quotas :=
  { ingestBytes := BitVec.allOnes 64, t3WriteBytes := BitVec.allOnes 64, attendUnits := BitVec.allOnes 32,
    commandsInFlight := BitVec.allOnes 32, pins := BitVec.allOnes 32, jobPinLimit := 100, openJobs := BitVec.allOnes 16 }

def tenant1 : Registry :=
  { tenant := 1, policy := 0, registered := true, withdrawn := false, regGen := 1, keyDigest := 0, quotas := anyQuotas,
    livePolicy := 0, liveQuotas := anyQuotas }

/-- Job 0 of tenant 1: scope 5, model 9. -/
def job0 : Job :=
  { index := 0, gen := 0, tenant := 1, closing := false, closeSlot := none, scopes := [5], clsDefault := .lc, debugConsent := true,
    rawFallback := true, modelId := 9, pinQuota := 100, keys := { command := 1, reply := 2, link := 3 }, landingKey := 77, linkCounter := 0, lanesEver := [0x800000, 0x20000],
    cancelledSinceClose := 0, counters := zeroCounters, snapshot := zeroCounters }

/-- The ring pair of lane 0x800000, one packet of which is arriving. -/
def ring0 : RingPair :=
  { port := 0, ring := 0, fn := 0, link := 0, bounceBase := 0x100000, bouncePages := 4096, enable := true, sqOrder := 4,
    cqOrder := 4, coalesce := 0, vector := 1, faultCause := 0, fault := false, sqHead := 1, sqTail := 1, cqTail := 0, cqHead := 0,
    phase := true, reserved := 1, coalescing := false, coalescePending := false, waitingEntries := [], arriving := 1 }

/-- The queue pair with QPN 0x20000, bound to job 0. -/
def qp0 : Qp :=
  { context := 0, gen := 1, lport := 0, state := .ready, partnerQpn := 3, mtu := 4096, dscp := 0,
    localIp := 0x00000000000000000000FFFF0A000001, expectedPsn := 10, nakSent := false, ackDue := 2, sendPsn := 20, sent := [],
    sending := none, retryMax := 3, retries := 0, rnrMax := 3, rnrRetries := 0, rnrWaiting := false, ackTimeout := 4,
    initiatorDepth := 16, responderResources := 16, resident := true, pinnedInCache := false, lastUse := 0, fetching := false,
    held := [], cues := [], rc := 100, rt := 100, alpha := 65536, increases := 0, readySince := 0, formed := 0, leaveDue := false }

def desc9 : ProfileDesc :=
  { modelId := 9, layers := 2, kvHeads := 8, qheadsPerKv := 8, headDim := 128, blockSize := 64, inputFormat := 1, kCodec := 1,
    vCodec := 1, ropeStyle := 0, profileFlags := 0, ropeDims := 128, latentRank := 0, ropeTheta := 0x461C4000,
    ropePosScale := 0x3F800000, maxTokens := 4096, reserved20 := 0, weightsDigest := 0 }

def profile0 : Profile :=
  { slot := 0, tenant := 1, desc := desc9, variant := 0, preference := 0, weights := [], users := 0, lost := false,
    unloading := false, sealEpoch := 0, loadSeq := 0, key := none }

def group0 : GroupSt := { t1 := some 0, t2 := none, t3 := none, dirty := .clean, moving := false, entryOk := true }

/-- A usable block of tenant 1 in T1, pinned by record 0. -/
def node3 : Node :=
  { ptr := 3, key := 1, parentLo := 0, epoch := 0, variant := 0, tenant := 1, scope := 5, valid := true, committed := true,
    evicting := false, purged := false, persistHint := false, lost := false, blockNo := 1, pinCount := 1, score := 0, lastWindow := 0,
    lastReq := 0, groups := [group0, group0], entryPresent := true, matchPriority := 0, insertSeq := 0, pinGen := 1, checkOk := true,
    keyed := true, regGen := 1, modelId := 9, layers := 2, desc := desc9, tiles := 8, pages := [], changed := false, dying := false }

def record0 : PinRecord :=
  { record := 0, gen := 0, job := 0, jobGen := 0, scope := 5, blocks := 1, lastKey := 1, parent := none, parentBlocks := 0,
    pins := [3], refs := 0, released := false, lowTier := 1 }

def port10 : PortCfg :=
  { mode := 0, adminDown := false, pfcEnable := true, ecnEnable := true, cxlEnable := true, priorities := 1 }

def cfg1 : ConfigRecord :=
  { defaultConfig with deviceNumber := 1, tenants := [tenant1], ports := List.replicate 11 port10, anchor := 5 }

/-- Index ready, every link up, one job with its ring pair and its queue pair, one operator's session. -/
def live : State :=
  { State.reset with
    power := { coldPower with step := 9, clocksOn := true, vinMv := 48000 },
    sec := { State.reset.sec with resetGen := 1, genProgrammed := true },
    persist := { erasedMedia with formatted := true, erased := false, resetGen := 1, config := cfg1 },
    cfg := cfg1,
    clk := { State.reset.clk with slate := 50, window := 300, events := [{ slate := 40, code := 1, tenant := 0, source := 0, argA := 0, resetGen := 1, argB := 0 }] },
    jobs := { State.reset.jobs with
      table := [job0],
      lanes := [{ lane := 0x800000, job := 0, lastCounter := 0, txCounter := 0 }, { lane := 0x20000, job := 0, lastCounter := 0, txCounter := 0 }] },
    index := { State.reset.index with capacity := 100, nodes := [node3], records := [record0] },
    tiers := { State.reset.tiers with
      t1Total := 1000000, t1Free := 900000,
      landing := [{ num := 0, job := 0, holder := .ingest 0, fromLc := true, consumed := false }] },
    eng := { State.reset.eng with profiles := [profile0] },
    net := { State.reset.net with
      lports := updWhere (fun l => l.num == 0) (fun l => { l with up := true, ipv4 := some 0x0A000001 }) downPorts, qps := [qp0] },
    host := { State.reset.host with
      links := [0, 1].flatMap fun p => [0, 1].map fun l => { port := p, link := l, perst := false, up := l == 0, vfs := 0 },
      funcs := [{ port := 0, link := 0, fn := 0, events := 0, mask := 0, vector := 0, msix := [], pba := [] }],
      rings := [ring0],
      windows := [{ emptyWindow 0 with cxl := true, granules := 1, lines := [(7, .any)] }, emptyWindow 1] },
    mgmt := { State.reset.mgmt with linkUp := true, recordLoaded := true, sessions := [{ num := 0, role := some .operator, provisional := false }] } }

/-! ## Packets -/

def bth0 : Bth := { lport := 0, qpn := 0x20000, psn := 10, ce := false, cnpDue := false, full := false, noRoom := false }

/-- A command packet of job 0 on its ring pair. -/
def ringPacket (op plen : Nat) (descs : List Descriptor) : Packet :=
  { path := .pcie, lane := 0x800000, bth := bth0, length := 64 + plen + 16 * descs.length, opWord := BitVec.ofNat 32 (op + 2 ^ 16),
    jobHandle := 0x100000, tag := 1, lenWord := BitVec.ofNat 32 (plen + 2 ^ 16 * descs.length), reserved14 := 0, replyRoute := 0,
    nonce := BitVec.ofNat 96 (0x800000 * 2 ^ 64 + 1), reserved2C := 0, gcmTag := 0, authentic := true, descs := descs }

/-- The same on its queue pair. -/
def qpPacket (op plen : Nat) (descs : List Descriptor) : Packet :=
  { ringPacket op plen descs with path := .rdma, lane := 0x20000, nonce := BitVec.ofNat 96 (0x20000 * 2 ^ 64 + 1) }

/-- A command packet of the operator's session. -/
def mgmtPacket (op plen : Nat) (descs : List Descriptor) : Packet :=
  { ringPacket op plen descs with path := .mgmt, lane := 0x1000000, jobHandle := 0, nonce := 0 }

/-! ## Packets that run -/

/-- The state in which intake sees a packet that its lane delivers, when it does. -/
def deliveredState (i : Instr) (p : Packet) (s : State) : Option State :=
  match p.path with
  | .mgmt => some s
  | .pcie =>
    if 0x800000 ≤ p.lane && ((findRing s (laneRing p.lane).1 (laneRing p.lane).2).map fun r => decide (0 < r.arriving)).getD false then
      some (setRing (laneRing p.lane).1 (laneRing p.lane).2 (fun r => { r with arriving := 0 }) s)
    else none
  | .rdma => match rcEnter i { p.bth with qpn := p.lane } p.length s with
    | (s1, true) =>
      if ((findQp s1 p.lane).map fun q => p.bth.psn == q.expectedPsn).getD false && decide (p.length ≤ 69632) then
        if p.bth.noRoom then none else some (advancePsn p.lane (rcPackets s1 p.lane p.length) s1)
      else none
    | _ => none

theorem delivered_of {i : Instr} {p : Packet} {s t : State} (h : deliveredState i p s = some t) : Delivered i p s t := by
  unfold deliveredState at h
  unfold Delivered
  cases hp : p.path with
  | mgmt => rw [hp] at h; exact (Option.some.inj h).symm
  | pcie =>
    rw [hp] at h
    cases hr : findRing s (laneRing p.lane).1 (laneRing p.lane).2 with
    | none => simp [hr] at h
    | some r =>
      simp only [hr, Option.map_some, Option.getD_some, Bool.and_eq_true, decide_eq_true_eq, Option.ite_none_right_eq_some] at h
      exact ⟨h.1.1, ⟨r, rfl, h.1.2⟩, (Option.some.inj h.2).symm⟩
  | rdma =>
    rw [hp] at h
    rcases he : rcEnter i { p.bth with qpn := p.lane } p.length s with ⟨s1, b⟩
    cases b with
    | false => simp [he] at h
    | true =>
      cases hq : findQp s1 p.lane with
      | none => simp [he, hq] at h
      | some q =>
        simp only [he, hq, Option.map_some, Option.getD_some, Bool.and_eq_true, decide_eq_true_eq, beq_iff_eq,
          Option.ite_none_right_eq_some, Option.ite_none_left_eq_some, Bool.not_eq_true] at h
        exact ⟨s1, q, rfl, hq, h.1.1, h.1.2, h.2.1, (Option.some.inj h.2.2).symm⟩

/-- The command of a packet that is accepted and runs, with the state in which its run begins. -/
def runState (i : Instr) (op : OpInfo) (p : Packet) (atAccept : Cmd → State → State) (s : State) : Option (Cmd × State) :=
  (deliveredState i p s).bind fun s0 => match intake i op p s0 with
    | (s1, some c0) => (findCmd (atAccept c0 s1) c0.slot).bind fun c => (moveEntry c (atAccept c0 s1)).bind fun t =>
        if c.fence then none else some (c, t)
    | _ => none

theorem runs_of {i : Instr} {op : OpInfo} {p : Packet} {atAccept : Cmd → State → State} {s t : State} {c : Cmd}
    (h : runState i op p atAccept s = some (c, t)) : Runs i op p atAccept s c t := by
  unfold runState at h
  obtain ⟨s0, h0, h⟩ := Option.bind_eq_some_iff.mp h
  split at h
  · rename_i s1 c0 hi
    obtain ⟨c1, h1, h⟩ := Option.bind_eq_some_iff.mp h
    obtain ⟨t1, h2, h⟩ := Option.bind_eq_some_iff.mp h
    split at h
    · cases h
    · rename_i hf
      cases h
      exact ⟨s0, s1, c0, delivered_of h0, hi, h1, h2, fun e => absurd e hf⟩
  · cases h

/-- A packet that runs in a state and with a command that meet a condition. -/
theorem meets {i : Instr} {op : OpInfo} {p : Packet} {atAccept : Cmd → State → State} {s : State} (cond : Cmd → State → Bool)
    (h : ((runState i op p atAccept s).map fun x => cond x.1 x.2).getD false = true) :
    ∃ c t, Runs i op p atAccept s c t ∧ cond c t = true := by
  cases hr : runState i op p atAccept s with
  | none => simp [hr] at h
  | some x => exact ⟨x.1, x.2, runs_of hr, by simpa [hr] using h⟩

/-- A packet that its lane delivers into a state that meets a condition. -/
theorem arrives {i : Instr} {p : Packet} {s : State} (cond : State → Bool)
    (h : ((deliveredState i p s).map cond).getD false = true) : ∃ t, Delivered i p s t ∧ cond t = true := by
  cases hr : deliveredState i p s with
  | none => simp [hr] at h
  | some t => exact ⟨t, delivered_of hr, by simpa [hr] using h⟩

/-- A request that enters its transport in a state that meets a condition. -/
theorem enters {i : Instr} {h : Bth} {n : Nat} {s : State} (cond : State → Bool)
    (hc : ((rcEnter i h n s).2 && cond (rcEnter i h n s).1) = true) : ∃ t, Enters i h n s t ∧ cond t = true := by
  rw [Bool.and_eq_true] at hc
  exact ⟨(rcEnter i h n s).1, Prod.ext rfl hc.1, hc.2⟩

/-- A request that enters in its PSN's turn. -/
theorem takesTurn {i : Instr} {h : Bth} {n : Nat} {s : State} (cond : State → Bool)
    (hc : ((rcEnter i h n s).2 && (cond (rcEnter i h n s).1
      && ((findQp (rcEnter i h n s).1 h.qpn).map fun q => h.psn == q.expectedPsn).getD false)) = true) :
    ∃ t, InTurn i h n s t ∧ cond t = true := by
  simp only [Bool.and_eq_true] at hc
  refine ⟨(rcEnter i h n s).1, ⟨Prod.ext rfl hc.1, ?_⟩, hc.2.1⟩
  cases hq : findQp (rcEnter i h n s).1 h.qpn with
  | none => simp [hq] at hc
  | some q => exact ⟨q, rfl, by simpa [hq] using hc.2.2⟩


/-! ## Witnesses: the queue of commands, pools, keys, handles -/

/-- A crypto unit of BE waits while the one active instance is busy. -/
def waiting : EUnit :=
  { cls := .be, work := .crypt 0 0 0 0, slots := 0, credits := 0, held := { lc := 0, shared := 0 }, creditsHeld := { lc := 0, shared := 0 },
    reruns := 0, bound := none, weights := none }

def busyCrypto : State :=
  { live with
    pending := [.bypass],
    eng := { live.eng with cryptos := { active := [0], lcq := [], beq := [waiting], k := 0, busy := [(0, waiting)] } } }

/-- Every command answers a next state, and so does a step. -/
theorem answers (i : Instr) (s : State) : ∃ t, exec i s = .next t :=
  (exec_finish i s).elim fun _ h => ⟨_, h⟩

theorem steps {s : State} {c : Instr} {rest : List Instr} (h : s.pending = c :: rest) : ∃ t, step s = .next t := by
  unfold step
  rw [h]
  exact answers c _

theorem witness_StepRunsTheFrontCommand : live.pending = [] := by decide +kernel

theorem witness_NoUnitIsLeftWaiting : NoUnitWaits busyCrypto ∧ chooseNand busyCrypto = none ∧ ∃ t, step busyCrypto = .next t :=
  ⟨by unfold NoUnitWaits; decide +kernel, by decide +kernel, steps (c := .bypass) (rest := []) rfl⟩

/-- 10 units reserved and 30 shared: LC takes within the reserve, all of both, beyond both; BE takes the shared part, beyond it. -/
theorem witness_PoolsTakeByClass :
    let p : Pool := { total := 40, reserveSize := 10, lcFree := 10, sharedFree := 30 }
    10 ≤ p.lcFree ∧ (p.lcFree < 40 ∧ 40 ≤ p.lcFree + p.sharedFree) ∧ 30 ≤ p.sharedFree
      ∧ p.take .lc 12 = some ({ lc := 10, shared := 2 }, { p with lcFree := 0, sharedFree := 28 })
      ∧ p.lcFree + p.sharedFree < 41 ∧ p.sharedFree < 31 := by decide +kernel

theorem witness_PrefixesShareTheirKeys : ([7, 8] : List U64).length = 2 * 1 ∧ 1 ≤ 2
    ∧ ∃ k, (chainKeys live 1 2 1 0 [7, 8]).getLast? = some k := ⟨rfl, by decide, _, rfl⟩

theorem witness_PinHandlesNameTheirRecord :
    (({ record0 with job := 16383, jobGen := 63, record := 1048575, gen := 16777215 } : PinRecord).job < 2 ^ 14 ∧ (63 : Nat) < 2 ^ 6
      ∧ 1048575 < 2 ^ 20 ∧ 16777215 < 2 ^ 24)
    ∧ handleJob 0x4000000000000 ≠ job0.index
    ∧ (resolvePin live job0 0).toOption = some record0
    ∧ (handleJob 0x100000 = job0.index ∧ handleJobGen 0x100000 = job0.gen
      ∧ ∀ r ∈ live.index.records, r.record = handleRecord 0x100000 → r.gen = handleGen 0x100000 → r.released = true) := by
  decide +kernel

/-! ## Witnesses: the match array -/

def entryA : MatchEntry := writeEntry
  { bank := 5, pos := 0, valid := true, priority := 200, tenant := 1, keyLo := 5, nodePtr := 3, tierHint := 0, parityA := false, parityB := false }

def entryB : MatchEntry := writeEntry { entryA with pos := 1, priority := 100, keyLo := 16389, nodePtr := 4 }

def probeA : Probe := { run := 0, block := 1, keyLo := 5, tenant := 1, mask := 15 }

/-- Two entries in bank 5; section `n` with one probe and the requests `rs`. -/
def arrayWith (n : Nat) (rs : List DollyReq) : State :=
  { live with
    marr := { clearArray with
      entries := [entryA, entryB],
      sections := updWhere (fun x => x.num == n) (fun x => { x with probes := [probeA], requests := rs }) clearArray.sections } }

theorem witness_BanksStayInOrder : BanksOrdered [entryA, entryB] ∧ ∃ t, exec (.dollyInsert 0) (arrayWith 0 [.insert 9 5 1 150 0]) = .next t :=
  ⟨by unfold BanksOrdered; decide +kernel, answers _ _⟩

theorem witness_InsertionSplitsItsBank :
    let s := arrayWith 0 [.insert 9 32773 1 150 2]
    BanksOrdered s.marr.entries ∧ ((findSection s 0).map fun x => dollyNext x.requests) = some (some (.insert 9 32773 1 150 2))
      ∧ s.marr.absent.contains (bankOf 32773) = false ∧ insertPos s.marr.entries (bankOf 32773) 150 < 256 := by
  unfold BanksOrdered; decide +kernel

theorem witness_ProbesFindTheHighestPriority : BanksOrdered (arrayWith 0 []).marr.entries
    ∧ searchBank (arrayWith 0 []) probeA = some entryA ∧ searchBank (arrayWith 0 []) { probeA with tenant := 2 } = none := by
  unfold BanksOrdered; decide +kernel

/-! ## Witnesses: the TAP, DOE, the mailbox, CXL -/

def openParams : JobOpenParams :=
  { reportGen := 1, reserved004 := 0, secret := some { secret := 0, length := 48, resetGen := 1, tenant := 1, reserved := 0 }, grantOk := true,
    modelId := 9, scopeCount := 1, joFlags := 0, reserved40E := 0, pinQuota := 10, reserved414 := 0,
    scopes := 5 :: List.replicate 15 0, reserved438 := 0 }

/-- `live` with no job, so that the lanes are free. -/
def noJob : State := { live with jobs := State.reset.jobs }

theorem witness_TapInstructionsLoad :
    let i : Instr := .jobOpen (ringPacket 0x0101 0x440 []) openParams
    ∃ t, Delivered i (ringPacket 0x0101 0x440 []) { noJob with sec := { noJob.sec with tap := .extest } } t
      ∧ (laneServed t (ringPacket 0x0101 0x440 []) && framingOk (ringPacket 0x0101 0x440 [])
        && paramLen (ringPacket 0x0101 0x440 []) == 0x440 && descCount (ringPacket 0x0101 0x440 []) == 0
        && !answersTransition t (ringPacket 0x0101 0x440 [])
        && decide (t.sec.tap ∈ [TapInstr.samplePreload, .extest, .intest, .clamp, .highz])) = true :=
  arrives _ (by decide +kernel)

theorem witness_DoeRequestsAnswered : barServed live 0 0 = true ∧ live.sec.transition = false ∧ live.power.flushing = none
    ∧ barServed { live with sec := { live.sec with transition := true } } 1 0 = true ∧ 8 ≤ 8 := by decide +kernel

theorem witness_MailboxCommandsAnswered : barServed live 0 0 = true ∧ (findWindow live 0).cxl = true := by decide +kernel

/-- The last line of the one backed granule; the fence of the first line, which a host still holds. -/
theorem witness_CxlRequestsServed :
    (cxlServed live 0 = true ∧ lineBacked (findWindow live 0) (granuleLines - 1) = true
      ∧ lineFenced (findWindow live 0) (granuleLines - 1) = false)
    ∧ hostUp live 0 0 = true
    ∧ (let s := setWindow 0 (fun w => { w with fenceFrom := some 0 }) live
       lineFenced (findWindow s 0) 7 = true ∧ ((findWindow s 0).lines.any fun l => l.1 == 7) = true) := by decide +kernel

def line64 : List Byte := List.replicate 64 0xAB
def enables64 : List Bool := List.replicate 64 true

theorem witness_CxlWriteStoresEnabledBytes : cxlServed live 0 = true ∧ lineBacked (findWindow live 0) 3 = true
    ∧ lineFenced (findWindow live 0) 3 = false ∧ ∃ t, exec (.cxlMemWrite 0 3 line64 enables64 .any) live = .next t :=
  ⟨by decide +kernel, by decide +kernel, by decide +kernel, _, rfl⟩

/-! ## Witnesses: landing writes -/

def dataBth : Bth := bth0

/-- Job 0 holds landing slot 0, at the base of the landing region, under the key 77. -/
theorem witness_LandingWritesStoreTheirBytes :
    (∃ t, InTurn (.rdmaWriteReceived bth0 77 0x400000000000 [1, 2, 3]) bth0 3 live t
      ∧ landingOk t 0x20000 77 0x400000000000 3 = true)
    ∧ ∃ u, exec (.rdmaWriteReceived bth0 77 0x400000000000 [1, 2, 3]) live = .next u :=
  ⟨takesTurn _ (by decide +kernel), _, rfl⟩

theorem witness_MemoriesStayCanonical : Memory.wf [(2, 9), (5, 1)] = true
    ∧ (∃ t, exec (.rdmaWriteReceived bth0 77 0x400000000000 [1, 2, 3]) live = .next t)
    ∧ (∀ w ∈ live.host.windows, Memory.wf w.mem = true) ∧ ∃ t, exec (.cxlMemWrite 0 3 line64 enables64 .any) live = .next t :=
  ⟨by decide, ⟨_, rfl⟩, by decide +kernel, _, rfl⟩

/-! ## Witnesses: host links, rings -/

/-- `live` with link 0 of host port 0 down. -/
def hostDown : State := setLink 0 0 (fun l => { l with up := false }) live

/-- `live` with every port in MODE 1. -/
def mode1 : State := { live with cfg := { cfg1 with ports := List.replicate 11 { port10 with mode := 1 } } }

theorem witness_HostLinksAndFunctionsReset :
    hostUp live 0 0 = true ∧ (5 : Nat) ≠ 0 ∧ barServed live 0 0 = true ∧ 127 ≤ 127
    ∧ ((findLink hostDown 0 0).any fun l => !l.up && !l.perst) = true ∧ 3 ≤ hostDown.power.step ∧ (hostCfg hostDown 0).adminDown = false
    ∧ ((findLink mode1 0 1).any fun l => !l.up && !l.perst) = true ∧ 3 ≤ mode1.power.step ∧ (hostCfg mode1 0).adminDown = false
    ∧ (hostCfg mode1 0).mode = 1 := by decide +kernel

/-- The ring pair of `live`, changed by `f`. -/
def ringWith (f : RingPair → RingPair) : State := { live with host := { live.host with rings := [f ring0] } }

theorem witness_RingRegistersWritten :
    (doorbellServed live 0 0 0 = true ∧ bitOf (0x4000000000000001 : U64).toNat 62 = true ∧ bitOf (0x4000000000000001 : U64).toNat 63 = false)
    ∧ bitOf (0x8000000000000000 : U64).toNat 63 = true
    ∧ (let s := ringWith fun r => { r with enable := false }
       ringExists s 0 0 0 = true ∧ findRing s 0 0 = some { ring0 with enable := false }
         ∧ ringConfigOk s { withControl 0x04400001 (clearRing { ring0 with enable := false }) with enable := true } = true
         ∧ ringConfigOk s { withControl 0x0B400001 (clearRing { ring0 with enable := false }) with enable := true } = false)
    ∧ (ringExists live 0 0 0 = true ∧ findRing live 0 0 = some ring0 ∧ ring0.enable = true)
    ∧ (barServed live 0 0 = true ∧ (findFunc live 0 0 0).isSome = true)
    ∧ ((findRing (ringWith fun r => { r with coalescing := true, coalescePending := true }) 0 0).any fun r =>
      r.coalescing && r.coalescePending) = true
    ∧ ((findRing (ringWith fun r => { r with coalescing := true }) 0 0).any fun r => r.coalescing && !r.coalescePending) = true := by
  decide +kernel

/-! ## Witnesses: Ethernet ports, connections -/

/-- Logical port 0 of `live` also has the address 7. -/
def twoAddresses : State :=
  { live with net := { live.net with lports := updWhere (fun l => l.num == 0) (fun l => { l with ipv6 := [7] }) live.net.lports } }

theorem witness_AddressResolutionAnswered :
    lportServed live 0 = true ∧ ((findLport live 0).any fun l => l.ipv4 == some 0x0A000001) = true
    ∧ holdsAddress twoAddresses 0 7 = true
    ∧ ((findLport twoAddresses 0).any fun l => decide (l.ipv4.map mappedV4 ≠ some 7) && l.ipv6.contains 7) = true
    ∧ linkOf live 0 = true ∧ linkOf live 16 = true := by decide +kernel

/-- Occupancies just beyond the two thresholds, on a port in each state; a pair at the last fast increase and past it. -/
theorem witness_PauseAndRateControl :
    ((ethCfg live 0).pfcEnable = true ∧ bitOf (ethCfg live 0).priorities.toNat 0 = true ∧ (0xFFFF : Nat) ≠ 0)
    ∧ (live.net.eports.find? fun e => e.num == 0).isSome = true ∧ 6291456 < 6291457
    ∧ (((setEport 0 (fun e => { e with xoff := true }) live).net.eports.find? fun e => e.num == 0).any fun e => e.xoff) = true
    ∧ 4194303 < 4194304
    ∧ (findQp live 0x20000 = some qp0 ∧ (ethCfg live (qp0.lport / 4)).ecnEnable = true)
    ∧ ((findQp (setQp 0x20000 (fun q => { q with increases := 4 }) live) 0x20000).any fun q => decide (q.increases < 5)) = true
    ∧ ((findQp (setQp 0x20000 (fun q => { q with increases := 5 }) live) 0x20000).any fun q => decide (5 ≤ q.increases)) = true := by
  decide +kernel

/-- The management link down before its record is loaded. -/
def mgmtDown : State :=
  { live with mgmt := { live.mgmt with linkUp := false, recordLoaded := false }, power := { live.power with step := 4 } }

theorem witness_LinksComeUpAndDown :
    lportUp live 0 = true
    ∧ ((findLport live 4).any fun l => l.present && !l.up) = true ∧ (ethCfg live 1).adminDown = false ∧ 4 ≤ live.power.step
    ∧ live.power.flushing = none
    ∧ (mgmtDown.mgmt.linkUp = false ∧ 4 ≤ mgmtDown.power.step ∧ mgmtDown.mgmt.recordLoaded = false)
    ∧ (portCfg live 3 0).adminDown = false := by decide +kernel

def req0 : CmReq :=
  { lport := 0, serviceId := 0x4C589410, transportRc := true, mtu := 4096, destIp := mappedV4 0x0A000001, trafficClass := 0, startPsn := 0,
    ackTimeout := 14, retry := 7, rnrRetry := 7, initiatorDepth := 16, responderResources := 16, partnerQpn := 5 }

/-- The queue pair of `live`, changed by `f`. -/
def qpWith (f : Qp → Qp) : State := { live with net := { live.net with qps := [f qp0] } }

/-- `live` with its queue pair unbound. -/
def unboundQp (f : Qp → Qp) : State := { qpWith f with jobs := State.reset.jobs }

/-- A formed message of the pair waits on its port's engine. -/
def withForm (s : State) : State :=
  queueUnit (.rdma 0) { waiting with work := .send 0x20000 (.formed 1 .lc (.rdmaWrite 0x20000 9 0x9000 0 none .none)) 64 } s

theorem witness_ConnectionsMadeAndEnded :
    (lportServed live 0 = true ∧ reqRejected live req0 = none ∧ live.net.qpPool.take.isSome = true)
    ∧ reqRejected live { req0 with mtu := 1000 } = some .unacceptable
    ∧ ((findQp (qpWith fun q => { q with state := .awaitingRtu }) 0x20000).any fun q => q.state == .awaitingRtu) = true
    ∧ findQp live 0x20000 = some qp0
    ∧ ((findQp (qpWith fun q => { q with state := .disconnecting }) 0x20000).any fun q => q.state == .disconnecting) = true
    ∧ ((findQp (unboundQp fun q => { q with readySince := 44 }) 0x20000).any fun q =>
      q.state == .ready && decide (q.readySince + 256 ≤ live.clk.window)) = true
    ∧ findLane (unboundQp fun q => { q with readySince := 44 }) 0x20000 = none
    ∧ formsOf (unboundQp fun q => { q with readySince := 44 }) 0x20000 = []
    ∧ formsOf (withForm (unboundQp fun q => { q with readySince := 44 })) 0x20000 ≠ [] := by decide +kernel

/-! ## Witnesses: RDMA traffic -/

theorem witness_RdmaRequestsInTurn :
    (∃ t, InTurn (.rdmaWriteReceived bth0 77 0x400000000000 [1]) bth0 1 live t ∧ landingOk t 0x20000 77 0x400000000000 1 = true)
    ∧ (∃ t, InTurn (.rdmaWriteReceived bth0 78 0x400000000000 [1]) bth0 1 live t ∧ (landingOk t 0x20000 78 0x400000000000 1 == false) = true)
    ∧ (∃ t, InTurn (.slotConsume bth0 77 0x400000000000 [1] 0 .good) bth0 1 live t ∧ landingOk t 0x20000 77 0x400000000000 1 = true)
    ∧ (∃ t, InTurn (.cue bth0 0x10001) bth0 0 live t ∧ (qpJob (advancePsn 0x20000 1 t) 0x20000).isSome = true)
    ∧ (∃ t, InTurn (.rdmaReadRequest bth0 77 0x400000000000 8) bth0 0 live t ∧ landingOk t 0x20000 77 0x400000000000 8 = true)
    ∧ (∃ t, InTurn (.rdmaInvalidRequest bth0) bth0 0 live t ∧ (t.power.step == 9) = true)
    ∧ (findQp live 0x20000 = some qp0 ∧ 0 < qp0.ackDue ∧ qpCarries live 0x20000 = true) :=
  ⟨takesTurn (fun t => landingOk t 0x20000 77 0x400000000000 1) (by decide +kernel),
    takesTurn (i := .rdmaWriteReceived bth0 78 0x400000000000 [1]) (h := bth0) (n := 1) (s := live) (fun t => landingOk t 0x20000 78 0x400000000000 1 == false) (by decide +kernel),
    takesTurn (i := .slotConsume bth0 77 0x400000000000 [1] 0 .good) (fun t => landingOk t 0x20000 77 0x400000000000 1) (by decide +kernel),
    takesTurn (i := .cue bth0 0x10001) (fun t => (qpJob (advancePsn 0x20000 1 t) 0x20000).isSome) (by decide +kernel),
    takesTurn (i := .rdmaReadRequest bth0 77 0x400000000000 8) (fun t => landingOk t 0x20000 77 0x400000000000 8) (by decide +kernel),
    takesTurn (i := .rdmaInvalidRequest bth0) (fun t => t.power.step == 9) (by decide +kernel), by decide +kernel⟩

def sentRead : Sent := { firstPsn := 15, lastPsn := 17, bytes := 8192, what := .readDesc 4 9 0x1000 }

/-- A pair that has sent one READ, with `rnr` RNR retries and `n` retries behind it. -/
def sentQp (rnr n : Nat) : State := qpWith fun q => { q with sent := [sentRead], rnrRetries := rnr, retries := n }

theorem witness_RequesterAnswers :
    (∃ t, Enters (.ackReceived bth0) bth0 0 (sentQp 0 0) t ∧ qpCarries t 0x20000 = true)
    ∧ (∃ t, Enters (.nakSequenceReceived bth0) bth0 0 (sentQp 0 0) t ∧ qpCarries t 0x20000 = true)
    ∧ (∃ t, Enters (.rnrNakReceived bth0 3) bth0 0 (sentQp 2 0) t
      ∧ (qpCarries t 0x20000 && ((findQp (ackUpTo 0x20000 (10 - 1) t) 0x20000).map fun q => decide (q.rnrRetries < q.rnrMax)).getD false) = true)
    ∧ (∃ t, Enters (.rnrNakReceived bth0 3) bth0 0 (sentQp 3 0) t
      ∧ (qpCarries t 0x20000 && ((findQp (ackUpTo 0x20000 (10 - 1) t) 0x20000).map fun q =>
          decide (q.rnrMax ≠ 7) && decide (q.rnrMax ≤ q.rnrRetries)).getD false) = true)
    ∧ (∃ t, Enters (.nakFatalReceived bth0 4) bth0 0 (sentQp 0 0) t ∧ (t.power.step == 9) = true)
    ∧ (qpCarries (sentQp 0 2) 0x20000 && (findQp (sentQp 0 2) 0x20000).any fun q => !q.sent.isEmpty && decide (q.retries < q.retryMax)) = true
    ∧ (qpCarries (sentQp 0 3) 0x20000 && (findQp (sentQp 0 3) 0x20000).any fun q => !q.sent.isEmpty && decide (q.retryMax ≠ 7)
      && decide (q.retryMax ≤ q.retries)) = true
    ∧ ((findQp (qpWith fun q => { q with rnrWaiting := true }) 0x20000).any fun q => q.rnrWaiting) = true
    ∧ (∃ t, Enters (.readResponseReceived bth0 4 .descriptors true) bth0 0 (sentQp 0 0) t
      ∧ ((findQp t 0x20000).bind fun q => readOf q 4) = some sentRead ∧ sentRead.what = .readDesc 4 9 0x1000)
    ∧ ((findQp (qpWith fun q => { q with fetching := true }) 0x20000).any fun q => q.fetching) = true := by
  refine ⟨enters (fun t => qpCarries t 0x20000) (by decide +kernel), enters (i := .nakSequenceReceived bth0) (fun t => qpCarries t 0x20000) (by decide +kernel),
    enters (i := .rnrNakReceived bth0 3) (fun t => qpCarries t 0x20000 && ((findQp (ackUpTo 0x20000 (10 - 1) t) 0x20000).map fun q =>
      decide (q.rnrRetries < q.rnrMax)).getD false) (by decide +kernel),
    enters (i := .rnrNakReceived bth0 3) (fun t => qpCarries t 0x20000 && ((findQp (ackUpTo 0x20000 (10 - 1) t) 0x20000).map fun q =>
      decide (q.rnrMax ≠ 7) && decide (q.rnrMax ≤ q.rnrRetries)).getD false) (by decide +kernel),
    enters (i := .nakFatalReceived bth0 4) (fun t => t.power.step == 9) (by decide +kernel), by decide +kernel, by decide +kernel, by decide +kernel, ?_,
    by decide +kernel⟩
  · obtain ⟨t, h, c⟩ := enters (i := .readResponseReceived bth0 4 .descriptors true) (h := bth0) (n := 0) (s := sentQp 0 0)
      (fun t => decide (((findQp t 0x20000).bind fun q => readOf q 4) = some sentRead)) (by decide +kernel)
    exact ⟨t, h, of_decide_eq_true c, rfl⟩

/-! ## Witnesses: engine units -/

def unit0 (w : UnitWork) : EUnit := { waiting with work := w }

/-- Instance 0 of an engine kind runs the unit. -/
def running (k : EngineKind) (u : EUnit) : State :=
  putEngine k { active := [0, 1], lcq := [], beq := [], k := 0, busy := [(0, u)] } live

/-- A unit of each kind of work runs on its engine; the last key hasher's first instance. -/
theorem witness_ComputeUnitsEnd :
    runningUnit (running .tile (unit0 (.span 0 0 0 0))) .tile 0 = some (unit0 (.span 0 0 0 0))
    ∧ runningUnit (running .tile (unit0 (.project 0 0 0 0))) .tile 0 = some (unit0 (.project 0 0 0 0))
    ∧ runningUnit (running .tile (unit0 (.projectSpan 0 0 0 0))) .tile 0 = some (unit0 (.projectSpan 0 0 0 0))
    ∧ runningUnit (running .tile (unit0 (.merge 0 0 0 0))) .tile 0 = some (unit0 (.merge 0 0 0 0))
    ∧ runningUnit (running .codec (unit0 (.decode 0 0 0 0))) .codec 0 = some (unit0 (.decode 0 0 0 0))
    ∧ runningUnit (running .codec (unit0 (.decodeSpan 0 0 0 0))) .codec 0 = some (unit0 (.decodeSpan 0 0 0 0))
    ∧ runningUnit (running .codec (unit0 (.encode 0 0))) .codec 0 = some (unit0 (.encode 0 0))
    ∧ runningUnit (running .codec (unit0 (.moveCode 0))) .codec 0 = some (unit0 (.moveCode 0))
    ∧ runningUnit (running .codec (unit0 .discard)) .codec 0 = some (unit0 .discard)
    ∧ runningUnit (running .crypto (unit0 (.crypt 0 0 0 0))) .crypto 0 = some (unit0 (.crypt 0 0 0 0))
    ∧ runningUnit (running .crypto (unit0 (.sealResult 0 0))) .crypto 0 = some (unit0 (.sealResult 0 0))
    ∧ (∀ w ∈ [UnitWork.openRecord 0, .sealIngest 0 0 0 0, .moveCrypt 0 0, .weightsCrypt 0 0 .t1 .t2 0],
      runningUnit (running .crypto (unit0 w)) .crypto 0 = some (unit0 w))
    ∧ runningUnit (running (.hasher 15) (unit0 (.hash 0 1))) (.hasher 15) 0 = some (unit0 (.hash 0 1)) ∧ 0 < 8 := by decide +kernel

/-- A first and a second failure on each kind; overruns of a mover and of the last splice engine. -/
theorem witness_FailedUnitsRunAgain :
    (∀ n ∈ [0, 1], ∀ x ∈ [(EngineKind.tile, UnitWork.span 0 0 0 0), (.tile, .project 0 0 0 0), (.tile, .merge 0 0 0 0),
        (.codec, .decode 0 0 0 0), (.crypto, .crypt 0 0 0 0), (.mover, .move 0), (.splice 3, .spliceMsg 1 2 0 0 1 (.key 0 none) 100)],
      runningUnit (running x.1 { unit0 x.2 with reruns := n }) x.1 0 = some { unit0 x.2 with reruns := n })
    ∧ isSpan (.span 0 0 0 0) = true ∧ isProject (.project 0 0 0 0) = true ∧ isMerge (.merge 0 0 0 0) = true
    ∧ overrunUnit 12 0 = some (.mover, 0) ∧ overrunUnit 16 3 = some (.splice 3, 0) := by
  decide +kernel

/-- The seal records of layer 0. -/
def seals0 : SentWhat := .sbMsg 4 0 .records 65536

/-- The one ring pair's port sends 64 KiB, and one byte more; splice port 3 is up and ends a message. -/
def sends (left : Nat) : EUnit := unit0 (.hostSend 0x800000 seals0 left)
def spliceSend : EUnit := unit0 (.spliceMsg 1 2 0 0 1 (.key 0 none) 65536)
def linked (s : State) : State := setSplice 3 (fun p => { p with phy := true, step := .up, peerDevice := 2 }) s

/-! ## Witnesses: reel cores -/

/-- Sliver 0 has the one request. -/
def asked (r : SliverReq) (s : State) : State :=
  { s with index := { s.index with
    slivers := [{ num := 0, lcq := [{ cls := .lc, seq := 7, req := r }], beq := [], k := 0, log := [], nextSeq := 8, insertSeq := 0, refills := 0, freeChunks := [], outbox := [] }] } }

def nextReq (s : State) : Option SliverReq := (sliverNext s 0).map fun x => x.1.req

/-- The run of the LOOKUP_PIN in slot 2, whose one block is being pinned. -/
def pinRun : LookupCtx :=
  { run := 4, isOver := false, slot := 2, kind := .lookupPin, tenant := 1, model := 9, scope := 5, mask := 15, hopBudget := 0, firstBlock := 1, blockTokens := 64, tokensLeft := [],
    lastKey := 1, keys := [1], probes := [.pinning], maxBlocks := 1, total := 1 }

def cmd0 (i : Instr) : Cmd :=
  { slot := 2, instr := i, tenant := 1, job := some 0, lane := 0x800000, replyLane := 0x800000, tag := 1, cls := .lc, acceptSlate := 45,
    fence := false, wait := .slivers, late := false, count := 0, dups := 0, rejects := 0, left := 1, payloadCap := none, ref := none, holds := [],
    fetched := false, phase := 1, moved := [] }

def endParams (h : U32) : IngestParams := { ingestHandle := h, count := 0, rkey := 0, reserved0C := 0 }

/-- An ingest of `n` blocks, the first of which was visible already, being inserted by the commit in slot 2. -/
def ingest0 (n : Nat) : Ingest :=
  { index := 0, gen := 0, job := 0, slot := 2, cls := .lc, scope := 5, variant := 0, baseRecord := none, base := 0, newBlocks := n, skip := 0,
    keys := [1, 2, 3].take n, baseKey := 0, pinOnCommit := false, persist := false, reserved := 0, places := [], phase := .inserting, pages := [],
    inserts := [], failedAt := none, dupPtrs := [] }

def inserting (n : Nat) : State :=
  asked (.insert 2 1) { live with
    tiers := { live.tiers with ingests := [ingest0 n] },
    jobs := { live.jobs with cmds := [{ cmd0 (.ingestCommit (ringPacket 0x0404 16 []) (endParams 0)) with left := n }] } }

/-- The answer of an insert of block `b`, whose key 2 is new, when the sliver has room, and when it has none but a node of it is
going. -/
def insertAnswer (b cap : Nat) (dying : Bool) : Option Bool :=
  let s0 := asked (.insert 2 b) (inserting 2)
  let s := { s0 with index := { s0.index with capacity := cap, nodes := [{ node3 with dying := dying }] } }
  (sliverNext s 0).bind fun (e, v) => (unanswered (putSliver v s) 2 b).map fun (g, j, pr) => (applyInsert g j pr b e.seq (putSliver v s)).1

/-- The commit of an insert into sliver 0: how many blocks are inserted then, and how many the commit makes. -/
def insertCount (n : Nat) : Option (Nat × Nat) :=
  let s := inserting n
  (sliverNext s 0).bind fun (e, v) => (unanswered (putSliver v s) 2 1).bind fun (g, j, pr) =>
    (findIngest (applyInsert g j pr 1 e.seq (putSliver v s)).2 g.index).bind fun x => (findCmd s 2).map fun c => (x.inserts.length, c.left)

/-- The node 3 after the drop of one pin of it, when `live` holds `n` in its place. -/
def dropped (n : Node) : Option Node :=
  let s := { live with index := { live.index with nodes := [n] } }
  findNode (setNode 3 (fun m => { m with pinCount := pinCountOf s m - 1, pinGen := s.sec.resetGen, lastReq := 7 })
    { s with index := { s.index with dropsInFlight := s.index.dropsInFlight - 1 } }) 3

def commit4 : Move :=
  { id := 4, ptr := 3, group := 0, src := .t1, dst := .t2, why := .demand, slot := none, cls := .lc, step := .carry, left := 0, granules := 2,
    loc := 0, failed := false, escalated := false }

/-- A confirm, a pin that hits, one that is no longer wanted and one that misses; drops that leave a node and that retire it; a
score; a commit of a move; an insert with another to come and the last one. -/
theorem witness_ReelCoresServeRequests :
    nextReq (asked (.confirm 2 1 1 1 15 none) live) = some (.confirm 2 1 1 1 15 none)
    ∧ nextReq (asked (.pin 2 1 9 1 15 none) live) = some (.pin 2 1 9 1 15 none)
    ∧ (resolveBlock 9 1 15 none live).1 = none
    ∧ (resolveBlock 1 1 15 (some { ptr := 3, priority := 0, hint := 0 }) live).1 = some (3, 0)
    ∧ wantsPin (takePin 3 7 { live with index := { live.index with lookups := [pinRun] } }) 4 1 1 = true
    ∧ wantsPin (takePin 3 7 live) 4 1 1 = false
    ∧ nextReq (asked (.score 3) live) = some (.score 3)
    ∧ nextReq (asked (.pinDrop 3) live) = some (.pinDrop 3)
    ∧ (dropped node3).any (fun m => m.keyed) = true
    ∧ (dropped { node3 with keyed := false, pinCount := 2 }).any (fun m => m.pinCount != 0) = true
    ∧ (dropped { node3 with keyed := false }).any (fun m => !m.keyed && m.pinCount == 0 && !m.dying) = true
    ∧ nextReq (asked (.stateCommit 4) live) = some (.stateCommit 4)
    ∧ (findMove { live with tiers := { live.tiers with moves := [commit4] } } 4).isSome = true
    ∧ (∀ r ∈ [SliverReq.hint 3 2 5, .purge 3 (some 2), .dropCopy 3 0 .t1 none, .dropNode 3, .insert 2 1, .skip 2 1],
      nextReq (asked r live) = some r)
    ∧ ((findNode (readNode 3 live) 3).any fun m => !m.purged && !m.dying) = true
    ∧ insertCount 2 = some (1, 2) ∧ insertCount 1 = some (1, 1)
    ∧ insertAnswer 1 100 false = some true ∧ insertAnswer 2 0 true = some false := by decide +kernel

/-- The same node at ages 1,023, 1,024 and 4,096. -/
def aged (n : Nat) (entry : Bool) : State :=
  { live with
    clk := { live.clk with window := 10000 },
    index := { live.index with nodes := [{ node3 with lastWindow := 10000 - n, entryPresent := entry }] } }

theorem witness_ReelCoresActUnasked :
    (let t := readNode 3 (aged 1023 true)
     (findNode t 3).any fun n => decide (ageOf t n < 1024)) = true
    ∧ (let t := readNode 3 (aged 1024 true)
       (findNode t 3).any fun n => decide (1024 ≤ ageOf t n) && decide (ageOf t n < 4096) && n.entryPresent && !removeDue t 3) = true
    ∧ (let t := readNode 3 (aged 4096 false)
       (findNode t 3).any fun n => decide (4096 ≤ ageOf t n) && !n.entryPresent) = true
    ∧ unitActive live 2 0 = true := by decide +kernel

/-! ## Witnesses: the match array's own work -/

/-- The array after the probe is taken, with bits of bank 5 upset. -/
def probed (upsets : List (Nat × Nat)) : State :=
  upsetBank 5 upsets { arrayWith 0 [] with marr := { clearArray with entries := [entryA, entryB] } }

/-- A request of each kind is next; a probe wins, finds either half of the winner upset, finds the winner's VALID upset, or finds
its bank absent; a sweep waits. -/
theorem witness_MatchArrayServesRequests :
    (∀ r ∈ [DollyReq.insert 9 5 1 150 0, .remove 3 5 1, .hint 3 5 1, .repair 5 1],
      ((findSection (arrayWith 0 [r]) 0).bind fun x => dollyNext x.requests) = some r)
    ∧ entryAtPos (arrayWith 0 []).marr.entries 5 1 = some entryB
    ∧ ((arrayWith 0 []).marr.sections.find? fun x => x.num == 0) = some { num := 0, probes := [probeA], requests := [] }
    ∧ ((probed []).marr.absent.contains 5 = false
      ∧ (searchBank (probed []) probeA).any (fun e => halfAOk e && halfBOk e) = true
      ∧ (searchBank (probed [(0, 105)]) probeA).any (fun e => !halfAOk e && halfBOk e) = true
      ∧ (searchBank (probed [(0, 52)]) probeA).any (fun e => halfAOk e && !halfBOk e) = true
      ∧ searchBank (probed [(0, 104)]) probeA = none)
    ∧ ({ arrayWith 0 [] with marr := { (arrayWith 0 []).marr with absent := [5] } } : State).marr.absent.contains (bankOf probeA.keyLo) = true
    ∧ ((arrayWith 3 [.sweep 1]).marr.sections.any fun x => x.requests.contains (.sweep (1 : BitVec 12).toNat)) = true := by
  decide +kernel

/-- A report of each kind about a node, and INVALIDATED about one that waits for it. -/
theorem witness_MatchArrayKeepsItself :
    (∀ r ∈ [DollyReport.valid 3, .declined 3, .cancelled 3, .displaced 3, .invalidated 3, .repaired 3 5 1],
      { live with marr := { live.marr with reports := [r] } }.marr.reports = r :: [])
    ∧ ((findNode (setNode 3 (fun n => { n with entryPresent := false }) live) 3).any fun n => !n.dying) = true
    ∧ ((findNode (setNode 3 (fun n => { n with dying := true }) live) 3).any fun n => n.dying) = true
    ∧ (3 ≤ deviceState live ∧ live.sec.transition = false ∧ live.marr.refilled.contains (sliverOf 1) = false
      ∧ ((live.index.nodes.filter fun m => sliverOf m.key == sliverOf 1 && usable live m.tenant 15 m && !m.dying
          && !entryDue live m).length ≤ 256 - (findSliver live (sliverOf 1)).refills))
    ∧ (let s := setNode 3 (fun n => { n with dying := true }) live
       removeDue s 3 = false ∧ removeDue { s with marr := { s.marr with reports := [.invalidated 3] } } 3 = true)
    ∧ 9 ≤ live.power.step := by decide +kernel

/-! ## Witnesses: faults, tiers -/

theorem witness_StopAllsAndResetFaults :
    5 ≤ live.power.step ∧ ((5 : Nat) ≠ 1 ∧ (5 : Nat) ≠ 6) ∧ ({ live with sec := { live.sec with transition := true } } : State).sec.transition = true
    ∧ live.power.step ≠ 0 ∧ live.power.clocksOn = true := by decide +kernel

/-- A node of an earlier registration that nothing pins; one sealed under the older of two epochs, with no copy in T3; the older
epoch when nothing uses it. -/
def oldNode : State := { live with index := { live.index with nodes := [{ node3 with regGen := 0, pinCount := 0 }] } }

def twoEpochs (ns : List Node) : State :=
  { live with
    persist := { live.persist with epochs := [{ tenant := 1, oldest := 4, newest := 5 }] },
    index := { live.index with nodes := ns } }

theorem witness_TierManagerWorks :
    ((findNode oldNode 3).any fun n => decide (n.regGen ≠ regGenOf oldNode n.tenant) && pinCountOf oldNode n == 0 && nodeUnheld oldNode n
      && !n.dying) = true
    ∧ (3 < weightsName ∧ (findNode live 3).any (fun n => decide (1 < n.groups.length)) = true ∧ weightsName ≤ 536870912)
    ∧ (let n := { node3 with groups := [{ group0 with t1 := none }] }
       findNode (twoEpochs [n]) 3 = some n ∧ resealable (twoEpochs [n]) n = true)
    ∧ (let n := { node3 with groups := [group0] }
       findNode (twoEpochs [n]) 3 = some n ∧ resealable (twoEpochs [n]) n = true
         ∧ (moveWithin 3 0 .t1 .reseal (twoEpochs [n])).isSome = true)
    ∧ ((4 : U32).toNat = (epochsOf (twoEpochs []) 1).oldest ∧ (epochsOf (twoEpochs []) 1).oldest < (epochsOf (twoEpochs []) 1).newest
      ∧ epochPages (twoEpochs []) 1 ((epochsOf (twoEpochs []) 1).oldest % 4) = 0
      ∧ ((twoEpochs []).eng.profiles.all fun p => !(p.tenant == 1 && hasWeights p.desc && p.sealEpoch == 4)) = true
      ∧ ((twoEpochs []).persist.weights.all fun w => !(w.tenant == 1 && w.sealEpoch == 4)) = true
      ∧ resealUnflushed (twoEpochs []) = false ∧ (twoEpochs []).index.recovering = false ∧ 9 ≤ (twoEpochs []).power.step) := by
  decide +kernel

/-! ## Witnesses: flash -/

def part0 : NandPart :=
  { part := 1, interface := .jesd230, busBits := 8, mts := 3600, onePassTlc := true, pslc := true, pageBytes := 16384, spareBytes := 2048,
    planes := 1, blocksPerPlane := 100, pagesPerBlock := 64, progTlcUs := 3000, progPslcUs := 600, eraseUs := 12000, peCycles := 3000,
    retryTable := true, suspend := true }

/-- 8 channels of one module, 32 NAND channels of one chip enable with one die. -/
def popOf (gib : Nat) : Population :=
  { ddr := List.replicate 8 [{ kind := .rdimm, part := 1, gib := gib }], nand := List.replicate 32 [{ dies := 1, page := some part0 }],
    hbmTrained := true, ddrTrained := true, badUnits := [], factoryBad := [] }

def pop0 : Population := popOf 32

def band0 : Band :=
  { row := 0, index := 4, state := .closed, stream := .host, writePtr := 64, eraseCount := 3, closedAt := 100, reads := 0, absent := [],
    weak := false, reservedFlushed := false }

def program0 : Program :=
  { id := 8, kind := .data 70, stream := .host, band := some (0, 4), place := (2, 0, 256), seqNo := 5, trimmed := false, parts := [], held := { lc := 0, shared := 0 } }

/-- 32 dies, with the bands and the map given. -/
def media (bs : List Band) (ms : List MapEntry) : State :=
  { live with
    power := { live.power with trained := some pop0 },
    flash := { live.flash with bands := bs, map := ms, programs := [program0], dirtySegs := [6], flushing := none } }

/-- A node whose extent lies in flash slot 70 and is being read. -/
def flashNode : Node := { node3 with groups := [{ group0 with t1 := none, t3 := some (70 * 32) }] }

def move0 : Move :=
  { id := 1, ptr := 3, group := 0, src := .t3, dst := .t2, why := .demand, slot := none, cls := .lc, step := .carry, left := 1, granules := 2, loc := 0,
    failed := false, escalated := false }

def reading0 : State :=
  { media [band0] [{ slot := 70, live := 3, place := some (2, 0, 256), seqNo := 5 }] with
    index := { live.index with nodes := [flashNode] },
    tiers := { live.tiers with moves := [move0] },
    flash := { (media [band0] []).flash with reads := [(3, 0, [(0, 4)])] } }

/-- The state with one operation of the NAND channels, which has been issued. -/
def issued (j : NandJob) (s : State) : State :=
  { s with flash := { s.flash with ops := [{ seq := 0, job := j, dies := [2], issued := true, cuts := [] }] } }

theorem witness_FlashProgramsAndReadsEnd :
    findProgram (media [band0] []) 8 = some program0
    ∧ (∀ j ∈ [NandJob.program 8, .read 3 0, .erase 0 4], nandRuns (issued j (media [band0] [])) j = true)
    ∧ (reading0.flash.reads.find? fun r => r.1 == 3 && r.2.1 == 0) = some (3, 0, [(0, 4)])
    ∧ (reading0.tiers.moves.find? fun m => m.ptr == 3 && m.group == 0 && m.src == .t3) = some move0
    ∧ findNode reading0 3 = some flashNode
    ∧ ((flashRun flashNode 0).head?.any fun run => !(runSlots run.1 run.2).isEmpty
      && (List.range (runSlots run.1 run.2).length).all fun i => (runSlots run.1 run.2)[i]?.isSome) = true
    ∧ (findBand (media [{ band0 with state := .erasing }] []) (4 / 65536) (4 % 65536)).state = .erasing
    ∧ (findBand (media [{ band0 with state := .erasing }] []) (31 / 32) 4).state = .erasing
    ∧ ftlRuns (media [] []) = true ∧ 31 < (geomOf (media [] [])).dies := by decide +kernel

theorem witness_JournalAndImagesReachFlash :
    (let s := { media [band0] [] with flash := { (media [band0] []).flash with markerDue := true } }
     ftlRuns s = true ∧ s.flash.flushing = none ∧ flushDue s = true)
    ∧ nandRuns (issued .flush (media [band0] [])) .flush = true
    ∧ ({ media [band0] [] with flash := { (media [band0] []).flash with flushing := some [.segment 2] } } : State).flash.flushing = some [.segment 2]
    ∧ (media [band0] []).flash.dirtySegs.contains 6 = true
    ∧ (media [band0] []).power.step = 9
    ∧ (({ live with index := { live.index with nodes := [{ node3 with changed := true }] } } : State).index.nodes.any fun n =>
      chunkOf n.ptr == 0 && n.changed) = true := by decide +kernel

/-- 97 bands, of which all but one, or all but three, are in use; and a collected band that nothing reads. -/
def fullMedia (free : Nat) : State :=
  media ((List.range (97 - free)).map fun i => { band0 with index := i }) [{ slot := 70, live := 3, place := some (2, 0, 256), seqNo := 5 }]

def collected : State :=
  { media [{ band0 with weak := true }] [] with
    flash := { (media [{ band0 with weak := true }] []).flash with gcVictim := some (0, 4), gcFlushed := true, programs := [] } }

theorem witness_GarbageIsCollected :
    (ftlRuns (fullMedia 1) = true ∧ (fullMedia 1).flash.gcVictim = none ∧ freeBands (fullMedia 1) * 100 < bandCount (fullMedia 1) * 2
      ∧ (fullestVictim (fullMedia 1)).isSome = true)
    ∧ (let s := media [{ band0 with weak := true }] []
       ftlRuns s = true ∧ s.flash.gcVictim = none ∧ bandCount s * 2 ≤ freeBands s * 100
         ∧ s.flash.bands.find? (mustMove s) = some { band0 with weak := true })
    ∧ (ftlRuns collected = true ∧ collected.flash.gcVictim = some (0, 4) ∧ collected.flash.gcFlushed = true ∧ collected.flash.gcLeft = []
      ∧ validSlots collected (findBand collected 0 4) = [] ∧ copiesFrom collected (0, 4) = false
      ∧ (collected.flash.reads.all fun r => !r.2.2.contains (0, 4)) = true)
    ∧ (findBand (media [band0] []) (4 / 65536) (4 % 65536)).state = .closed := by decide +kernel

/-! ## Witnesses: windows, parked commands, start-up -/

theorem witness_CutMarkerClosesWindow :
    (live.power.clocksOn = true ∧ 7 ≤ live.power.step ∧ live.power.flushing = none)
    ∧ (let s := { live with power := { live.power with step := 6 } }
       s.power.clocksOn = true ∧ s.power.step < 7) := by decide +kernel

/-- A JOB_QUERY parked behind FENCE with nothing before it, one that waits for a completion entry and one that waits for the job
to drain. -/
def parked (w : Wait) : State :=
  { live with jobs := { live.jobs with cmds := [{ cmd0 (.jobQuery (ringPacket 0x0103 8 []) 0) with fence := true, wait := w, phase := 0 }] } }

theorem witness_ParkedCommandsGoOn :
    ((findCmd (parked .fence) 2).any fun c => (partsOf c.instr).isSome && decide (c.wait ≠ .cqEntry) && wakeDue (parked .fence) c) = true
    ∧ ((findCmd (parked .cqEntry) 2).any fun c => (partsOf c.instr).isSome && decide (c.wait = .cqEntry)) = true
    ∧ ((parked .fence).eng.control.lcq = [] ∧ (parked .fence).eng.control.beq = [] ∧ idleInst (parked .fence).eng.control ≠ none
      ∧ ((findCmd (parked .fence) 2).map (readyLc (parked .fence))) = some [])
    ∧ ((findCmd (parked .fence) 2).any fun c => returns (parked .fence) c) = true
    ∧ ((findCmd (parked .jobDrain) 2).any fun c => !returns (parked .jobDrain) c) = true := by decide +kernel

def image0 : Image :=
  { length := 4096, format := 1, reservedZero := true, rollbackLevel := 2, fwVersion := 1, signerOk := true, signatureOk := true, bodyTagOk := true,
    imageDigest := 11, loaderDigest := 12 }

/-- A device with an image in slot A, at the start-up step `n`. -/
def startingAt (n : Nat) : State :=
  { State.reset with
    power := { coldPower with step := n, clocksOn := true, vinMv := 48000 },
    boot := { blankBoot with record0 := { valid := true, seq := 1, active := 0, fallback := false }, slotA := { image := some image0 } } }

theorem witness_StartUpStepsFollow :
    (State.reset.power.step = 0 ∧ State.reset.power.overVolt = false ∧ State.reset.power.resetIn = false ∧ State.reset.power.thermTrip = false)
    ∧ (startingAt 2).power.step = 2
    ∧ ((startingAt 3).power.step = 3 ∧ (startingAt 3).boot.strapLow = false ∧ (bootSlot (startingAt 3).boot).isSome = true)
    ∧ bootSlot State.reset.boot = none
    ∧ ((startingAt 5).power.step = 5 ∧ (startingAt 5).power.stopCause = 0 ∧ trainingCause pop0 = 0
      ∧ trainingCause (popOf 513) ≠ 0)
    ∧ ((startingAt 6).power.step = 6 ∧ (startingAt 6).power.flushing = none ∧ (startingAt 6).persist.erased = true)
    ∧ (startingAt 7).power.step = 7 ∧ (startingAt 8).power.step = 8 ∧ (startingAt 8).power.flushing = none := by decide +kernel

theorem witness_PowerEventsReset :
    (({ live with power := { live.power with sagArmed := true } } : State).power.sagArmed = true ∧ 6 ≤ live.power.step)
    ∧ ({ live with power := { live.power with flushing := some 2 } } : State).power.flushing = some 2
    ∧ live.power.step ≠ 0 ∧ (live.power.clocksOn = true ∧ live.power.refclkOk = true)
    ∧ (live.power.resetIn = false ∧ live.power.flushing = none ∧ 6 ≤ live.power.step)
    ∧ ((startingAt 5).power.resetIn = false ∧ (startingAt 5).power.step < 6)
    ∧ ({ live with power := { live.power with resetIn := true } } : State).power.resetIn = true := by decide +kernel

/-- The temperatures at each end of the ranges, in tenths of a degree; the trip with 12 pulses skipped. -/
theorem witness_TemperatureThrottlesAndTrips :
    live.power.clocksOn = true ∧ (∀ tj ∈ [1000, 1099], tj < 1100 ∧ 1000 ≤ tj) ∧ 979 < 980 ∧ (∀ tj ∈ [980, 999], 980 ≤ tj ∧ tj < 1000) ∧ 1049 < 1050
    ∧ (let s := { live with power := { live.power with skip := 12 } }
       s.power.clocksOn = true ∧ s.power.thermTrip = false ∧ s.power.skip = 12 ∧ 1100 ≤ 1100 ∧ 1000 ≤ 1100) ∧ 899 < 900 := by decide +kernel

/-! ## Witnesses: the recovery service, management sessions -/

/-- The recovery service, with or without the strap, its media trained and formatted. -/
def recovering0 (strapLow : Bool) : State :=
  { live with power := { live.power with step := 4, trained := some pop0 }, boot := { (startingAt 4).boot with recovery := true, strapLow := strapLow } }

theorem witness_RecoveryServiceAnswers :
    recServed (recovering0 false) = true ∧ (recovering0 false).boot.strapLow = false
    ∧ (imageForm image0 = true ∧ imageFailure (recovering0 false).boot.fuses image0 = none)
    ∧ (recServed (recovering0 true) = true ∧ (recovering0 true).boot.strapLow = true ∧ (2 : Byte).toNat ≤ 2
      ∧ (recovering0 true).power.trained ≠ none ∧ (recovering0 true).persist.formatted = true ∧ (recovering0 true).persist.erased = false) := by
  decide +kernel

def cert (op aud : Nat) (anchor : Digest) : ClientCert :=
  { profileOk := true, anchorDigest := anchor, selfSigned := true, operatorOu := op, auditorOu := aud }

/-- `n` sessions, the last of which is still in its handshake. -/
def sessionsOf (n : Nat) : State :=
  { live with mgmt := { live.mgmt with sessions := (List.range n).map fun i =>
    { num := i, role := if i + 1 == n then none else some .auditor, provisional := false } } }

theorem witness_ManagementSessionsOpenAndClose :
    ((sessionsOf 7).mgmt.linkUp = true ∧ (sessionsOf 7).mgmt.sessions.length < Config.maxSessions)
    ∧ Config.maxSessions ≤ (sessionsOf 8).mgmt.sessions.length
    ∧ ((sessionsOf 1).mgmt.sessions.any fun m => m.num == 0 && m.role.isNone) = true
    ∧ ({ cert 1 0 5 with profileOk := false } : ClientCert).profileOk = false ∧ (cert 1 0 5).profileOk = true
    ∧ ({ (sessionsOf 1) with mgmt := { (sessionsOf 1).mgmt with recordLoaded := false } } : State).mgmt.recordLoaded = false
    ∧ ((sessionsOf 1).mgmt.recordLoaded = true ∧ roleOf (cert 0 1 5) = some .auditor ∧ (sessionsOf 1).cfg.anchor ≠ 0
      ∧ (cert 0 1 5).anchorDigest = (sessionsOf 1).cfg.anchor ∧ (cert 1 0 6).anchorDigest ≠ (sessionsOf 1).cfg.anchor)
    ∧ (roleOf (cert 1 0 6) = some .operator ∧ ({ (sessionsOf 1) with cfg := { cfg1 with anchor := 0 } } : State).cfg.anchor = 0
      ∧ (cert 1 0 6).selfSigned = true) := by decide +kernel

/-! ## Witnesses: splice links -/

/-- Splice port 0 at a step of its bring-up. -/
def spliceAt (st : SpliceStep) (f : SplicePort → SplicePort) : State :=
  setSplice 0 (fun p => f { p with phy := true, step := st, peerDevice := 2, peerGen := 1 }) live

def report0 : PeerReport :=
  { signatureOk := true, nonceOk := true, measurement1 := (measurementsOf (spliceAt .report id)).rom,
    measurement3 := (measurementsOf (spliceAt .report id)).firmware,
    measurement6 := 0, debugUnlocked := false }

/-- Splice port 0 of that state at step 4. -/
def reporting : SplicePort :=
  { num := 0, phy := true, step := .report, peerDevice := 2, peerGen := 1, peerRoot := 0, offeredRoot := none, peerContribution := 0,
    contribution := 0, rootSent := false, txCounter := 0, frameRetries := 0 }

theorem peerPasses_of {s : State} {p : SplicePort} {r : PeerReport} (h1 : r.signatureOk = true) (h2 : r.nonceOk = true)
    (h3 : r.measurement1 = (measurementsOf s).rom) (h4 : r.measurement3 = (measurementsOf s).firmware) (h5 : r.debugUnlocked = false)
    (h6 : (s.cfg.debugState == 0 && p.peerDevice != 0 && p.peerDevice != s.cfg.deviceNumber) = true) : peerPasses s p r = true := by
  unfold peerPasses
  simp only [Bool.and_eq_true] at h6
  simp only [h1, h2, h3, h4, h5, beq_self_eq_true, Bool.true_or, Bool.and_true, Bool.not_false, h6.1.1, h6.1.2, h6.2]

theorem witness_SpliceLinksBringUp :
    ((findSplice (spliceAt .hello id) 0).any fun p => p.step == .hello) = true
    ∧ (∃ p, findSplice (spliceAt .report id) 0 = some p ∧ p.step = .report ∧ peerPasses (spliceAt .report id) p report0 = true)
    ∧ ((findSplice (spliceAt .report id) 0).any fun p => !peerPasses (spliceAt .report id) p { report0 with signatureOk := false }) = true
    ∧ ((findSplice (spliceAt .failed id) 0).any fun p => p.step == .failed) = true
    ∧ ((findSplice (spliceAt .held id) 0).any fun p => p.step == .held) = true
    ∧ ((findSplice (spliceAt .key id) 0).any fun p => p.step == .key) = true
    ∧ (∀ n ∈ [6, 7], ((findSplice (spliceAt .up fun p => { p with frameRetries := n }) 0).any fun p =>
      p.phy && p.frameRetries == n) = true) := by
  refine ⟨by decide +kernel, ?_, by decide +kernel, by decide +kernel, by decide +kernel, by decide +kernel, by decide +kernel⟩
  exact ⟨reporting, by decide +kernel, rfl, peerPasses_of rfl rfl rfl rfl rfl (by decide +kernel)⟩

def env (dst : U16) (relays : Nat) : Envelope :=
  { spFlags := 0, srcDevice := 2, dstDevice := dst, relays := relays, probes := 0, regGen := 1, tagOk := true }

def cont0 : Continuation :=
  { lookupId := 44, slot := 2, localCount := 1, sentFrom := 1, sentCount := 1, keys := [2], lastKey := 1, result1 := 0, adds := true,
    hopBudget := 3, run := pinRun, holders := [], budgetSpent := false }

theorem witness_SpliceMessagesTaken :
    (spliceUp (spliceAt .up id) 0 = true ∧ (env 1 63).tagOk = true ∧ (env 1 63).dstDevice.toNat = (spliceAt .up id).cfg.deviceNumber
      ∧ lportUp (spliceAt .up id) 0 = true)
    ∧ ((env 7 62).dstDevice.toNat ≠ (spliceAt .up id).cfg.deviceNumber ∧ (env 7 62).relays < 63 ∧ 63 ≤ (env 7 63).relays)
    ∧ ({ env 1 0 with tagOk := false } : Envelope).tagOk = false
    ∧ findCont { live with index := { live.index with continuations := [cont0] } } 44 = some cont0 := by decide +kernel

theorem witness_UnknownOpcodeRefused :
    Delivered (.unknownOpcode (mgmtPacket 0x0C01 8 [])) (mgmtPacket 0x0C01 8 []) live live
    ∧ ((mgmtPacket 0x0C01 8 []).path = .mgmt ∧ laneServed live (mgmtPacket 0x0C01 8 []) = true ∧ framingOk (mgmtPacket 0x0C01 8 []) = true
      ∧ answersTransition live (mgmtPacket 0x0C01 8 []) = false) := ⟨rfl, by decide +kernel⟩

/-! ## Witnesses: command packets -/

/-- The packet is accepted and runs, with a command and in a state that meet the condition. -/
def RunMeets (i : Instr) (op : OpInfo) (p : Packet) (atAccept : Cmd → State → State) (s : State) (cond : Cmd → State → Bool) : Prop :=
  ∃ c t, Runs i op p atAccept s c t ∧ cond c t = true

def okAnd {ε α : Type} (x : Except ε α) (f : α → Bool) : Bool :=
  match x with
  | .ok a => f a
  | .error _ => false

/-- A descriptor of a kind and a length. -/
def desc (kind len : Nat) : Descriptor := { address := 0x1000, lenKind := BitVec.ofNat 32 (len + kind * 2 ^ 24), rkey := 9 }

def toks64 : Fetched (List U64) := .opened (List.replicate 64 7)

/-- 64 tokens inline; `pins` blocks at most. -/
def lookup0 (scope : U16) (pins : U32) : LookupParams :=
  { scopeId := scope, variantMask := 0, lkFlags := 1, hopBudget := 63, reserved05 := 0, tokenCount := 64, maxBlocks := pins, tokens := toks64 }

def lookupP (op : Nat) : Packet := ringPacket op (0x10 + 8 * 64) []

def open0 (scope : U16) : IngestOpenParams :=
  { baseHandle := 0, scopeId := scope, variant := 0, ioFlags := 1, tokenCount := 64, tokens := toks64 }

def lookupChecks (p : Packet) (a : LookupParams) (pins : Bool) (c : Cmd) (t : State) : Bool :=
  (jobOf t c).any fun j => lookupForm t j p a pins && tokensAgree p 0x10 (bitOf a.lkFlags.toNat 0) a.tokenCount.toNat
    && (acceptMask t j a.variantMask).isSome && decide (a.hopBudget.toNat ≤ 63)

theorem witness_ScopesOutsideTheJobRefused :
    RunMeets (.lookup (lookupP 0x0301) (lookup0 6 0)) (opLate 0x0301) (lookupP 0x0301) atOnce live
      (fun c t => lookupChecks (lookupP 0x0301) (lookup0 6 0) false c t && (jobOf t c).any fun j => !j.scopes.contains 6)
    ∧ RunMeets (.lookupPin (lookupP 0x0302) (lookup0 6 0)) (opLate 0x0302) (lookupP 0x0302) atOnce live
      (fun c t => lookupChecks (lookupP 0x0302) (lookup0 6 0) true c t && (jobOf t c).any fun j => !j.scopes.contains 6)
    ∧ RunMeets (.ingestOpen (lookupP 0x0401) (open0 6)) (opLate 0x0401) (lookupP 0x0401) (acceptIngestOpen (open0 6)) live
      (fun c t => (jobOf t c).any fun j => !j.closing && bitsOf (open0 6).ioFlags.toNat 3 5 == 0 && descsOk t j (lookupP 0x0401) [kindToken]
        && tokensAgree (lookupP 0x0401) 0x10 (ioFlag (open0 6) 0) 64 && !j.scopes.contains 6)
    ∧ RunMeets (.purgeScope (ringPacket 0x0704 8 []) { scopeId := 6, reserved02 := 0 }) (opLate 0x0704) (ringPacket 0x0704 8 []) atOnce live
      (fun c t => (jobOf t c).any fun j => formOk (ringPacket 0x0704 8 []) 8 [] true && !j.scopes.contains 6) :=
  ⟨meets _ (by decide +kernel), meets _ (by decide +kernel), meets _ (by decide +kernel), meets _ (by decide +kernel)⟩

/-- Job 0 after its last command has gone. -/
def closedJob : State := { live with jobs := { live.jobs with table := [{ job0 with closing := true }] } }

theorem witness_JobCommandsComplete :
    (∃ t, Delivered (.jobOpen (ringPacket 0x0101 0x440 []) openParams) (ringPacket 0x0101 0x440 []) noJob t
      ∧ (laneServed t (ringPacket 0x0101 0x440 []) && framingOk (ringPacket 0x0101 0x440 []) && paramLen (ringPacket 0x0101 0x440 []) == 0x440
        && descCount (ringPacket 0x0101 0x440 []) == 0 && !answersTransition t (ringPacket 0x0101 0x440 [])
        && !openDenied t (ringPacket 0x0101 0x440 []) && openParams.reportGen.toNat == t.sec.resetGen
        && openAuthentic (ringPacket 0x0101 0x440 []) openParams && decide (openFailure t (ringPacket 0x0101 0x440 []) openParams = none)) = true)
    ∧ RunMeets (.jobClose (ringPacket 0x0102 8 []) 0) (opEarly 0x0102) (ringPacket 0x0102 8 []) (closeAccept (ringPacket 0x0102 8 []) 0) live
      (fun _ _ => formOk (ringPacket 0x0102 8 []) 8 [] true)
    ∧ ((findJob closedJob 0).any fun j => closeDue closedJob j) = true
    ∧ RunMeets (.jobQuery (ringPacket 0x0103 8 []) 0) (opEarly 0x0103) (ringPacket 0x0103 8 []) atOnce live
      (fun c t => formOk (ringPacket 0x0103 8 []) 8 [] true && (jobOf t c).isSome) :=
  ⟨arrives _ (by decide +kernel), meets _ (by decide +kernel), by decide +kernel, meets _ (by decide +kernel)⟩

/-! A profile with weights: one smoothing vector per record. -/

def desc5 : ProfileDesc := { desc9 with kCodec := 5, weightsDigest := 7 }

def record5 (l : U16) : WeightsRecord :=
  { layer := l, recordFlags := 1, reserved3 := 0, latentScale := 0, ropeScale := 0, smoothOffset := BitVec.ofNat 32 (smoothOffset desc5),
    ukOffset := BitVec.ofNat 32 (ukOffset desc5), uvOffset := BitVec.ofNat 32 (uvOffset desc5), reservedZero := true,
    ropeFreq := List.replicate 64 0, smooth := List.replicate (smoothLen desc5 / 4) 0x3F800000, uk := [], ukScales := [], uv := [],
    uvScales := [] }

def sealed5 : List SealedRecord := [{ tagOk := true, plain := record5 0 }, { tagOk := true, plain := record5 1 }]

def blob5 : Nat := 2 * (recordSize desc5 + 16)

def load9 : ModelLoadParams :=
  { profile := desc9, preference := 0, mlFlags := 0, reserved082 := 0, wrappedZero := true, secret := none, blobLen := 0, blob := .opened [],
    digestOk := true }

def load5 (flags : Byte) : ModelLoadParams :=
  { profile := desc5, preference := 0, mlFlags := flags, reserved082 := 0, wrappedZero := false,
    secret := some { key := 0, length := 112, resetGen := 1, tenant := 1, reserved26 := 0, modelId := 9, reserved2C := 0, weightsDigest := 7 },
    blobLen := blob5, blob := .opened sealed5, digestOk := true }

def loadP5 : Packet := qpPacket 0x0201 0x290 [desc 2 blob5]

/-- `live` with the profiles given. -/
def withProfiles (ps : List Profile) : State := { live with eng := { live.eng with profiles := ps } }

/-- `live` with no profile and a T3 copy of the weights. -/
def withCopy : State :=
  { withProfiles [] with
    persist := { live.persist with
      weights := [{ tenant := 1, desc := desc5, variant := 0, records := [record5 0, record5 1], sealEpoch := 0, unloadedAt := none }] } }

def loadChecks (p : Packet) (a : ModelLoadParams) (c : Cmd) (t : State) : Bool :=
  let u := freeEntries t
  (jobOf u c).any fun j => paramLen p == 0x290 && descsOk u j p [kindWeights] && a.profile.modelId == j.modelId && loadFormOk u j p a
    && decide (keyFailure u j a = none)

def loadFound (a : ModelLoadParams) (c : Cmd) (t : State) : Bool :=
  (jobOf (freeEntries t) c).any fun j => (loadedVariant (freeEntries t) j a.profile).any fun x => !x.lost

def loadNew (a : ModelLoadParams) (c : Cmd) (t : State) : Bool :=
  let u := freeEntries t
  (jobOf u c).any fun j => decide (loadedVariant u j a.profile = none) && (loadVariant u j a.profile).isSome
    && decide (u.eng.profiles.length < Config.maxProfiles)
    && decide (u.tiers.weightsT1 + a.profile.layers.toNat * recordSize a.profile / 512 ≤ 2 ^ 25)

def name9 (flags : Byte) : ModelNameParams := { modelId := 9, variant := 0, ulFlags := flags, reserved := 0 }

def withEntry : State :=
  { live with persist := { live.persist with variants := [{ tenant := 1, variant := 0, preference := 0, desc := desc9 }] } }

theorem witness_ModelLoads :
    RunMeets (.modelLoad (qpPacket 0x0201 0x290 []) load9) (opEarly 0x0201) (qpPacket 0x0201 0x290 []) atOnce live
      (fun c t => loadChecks (qpPacket 0x0201 0x290 []) load9 c t && loadFound load9 c t)
    ∧ RunMeets (.modelLoad loadP5 (load5 0)) (opEarly 0x0201) loadP5 atOnce (withProfiles [{ profile0 with desc := desc5 }])
      (fun c t => loadChecks loadP5 (load5 0) c t && loadFound (load5 0) c t)
    ∧ RunMeets (.modelLoad (qpPacket 0x0201 0x290 []) load9) (opEarly 0x0201) (qpPacket 0x0201 0x290 []) atOnce (withProfiles [])
      (fun c t => loadChecks (qpPacket 0x0201 0x290 []) load9 c t && loadNew load9 c t)
    ∧ RunMeets (.modelLoad loadP5 (load5 1)) (opEarly 0x0201) loadP5 atOnce withCopy
      (fun c t => loadChecks loadP5 (load5 1) c t && loadNew (load5 1) c t && (jobOf (freeEntries t) c).any fun j =>
        (persistedCopy (freeEntries t) j (load5 1)).any fun w => decide (w.records = [record5 0, record5 1])
          && (List.range 2).all fun l => ((w.records[l]?).map (recordOk desc5 l)).getD false)
    ∧ RunMeets (.modelLoad loadP5 (load5 0)) (opEarly 0x0201) loadP5 atOnce (withProfiles [])
      (fun c t => loadChecks loadP5 (load5 0) c t && loadNew (load5 0) c t && (jobOf (freeEntries t) c).any fun j =>
        decide (persistedCopy (freeEntries t) j (load5 0) = none) && sealed5.length == (load5 0).profile.layers.toNat
          && sealed5.all (fun r => r.tagOk)
          && (List.range 2).all fun l => ((sealed5[l]?).map fun r => recordOk desc5 l r.plain).getD false) :=
  ⟨meets _ (by decide +kernel), meets _ (by decide +kernel), meets _ (by decide +kernel), meets _ (by decide +kernel), meets _ (by decide +kernel)⟩

theorem witness_ModelCommandsComplete :
    (∀ f ∈ ([0, 1] : List Byte), bitsOf f.toNat 1 7 = 0)
    ∧ RunMeets (.modelUnload (ringPacket 0x0202 8 []) (name9 1)) (opEarly 0x0202) (ringPacket 0x0202 8 []) atOnce live
      (fun c t => formOk (ringPacket 0x0202 8 []) 8 [] true && (jobOf t c).any fun j => j.modelId == 9 && (variantProfile t j.tenant 9 0).isSome)
    ∧ RunMeets (.modelQuery (ringPacket 0x0203 8 []) (name9 0)) (opEarly 0x0203) (ringPacket 0x0203 8 []) atOnce withEntry
      (fun c t => formOk (ringPacket 0x0203 8 []) 8 [] true && (jobOf (freeEntries t) c).any fun j => j.modelId == 9
        && ((variantEntries (freeEntries t) j.tenant 9).find? fun e => e.variant == 0).isSome) :=
  ⟨by decide, meets _ (by decide +kernel), meets _ (by decide +kernel)⟩

def extend0 (flags : Byte) : ExtendParams :=
  { pinHandle := 0, variantMask := 1, lkFlags := flags, hopBudget := 0, reserved0B := 0, tokenCount := 64, maxBlocks := 1, reserved14 := 0,
    tokens := toks64 }

theorem witness_LookupCommandsStart :
    RunMeets (.lookup (lookupP 0x0301) (lookup0 5 0)) (opLate 0x0301) (lookupP 0x0301) atOnce live
      (fun c t => lookupChecks (lookupP 0x0301) (lookup0 5 0) false c t && (jobOf t c).any fun j => scopeAllowed j 5)
    ∧ RunMeets (.lookupPin (lookupP 0x0302) (lookup0 5 1)) (opLate 0x0302) (lookupP 0x0302) atOnce live
      (fun c t => lookupChecks (lookupP 0x0302) (lookup0 5 1) true c t && (jobOf t c).any fun j => scopeAllowed j 5
        && (acceptMask t j 0).any fun m => pinBound (inputBlocks t j m 0 64) 1 == 1
          && decide (pinShortage t j (pinBound (inputBlocks t j m 0 64) 1) (pinBound (inputBlocks t j m 0 64) 1) none = none))
    ∧ (∀ f ∈ ([1, 3] : List Byte), bitsOf f.toNat 2 6 = 0 ∧ bitOf f.toNat 0 = true)
    ∧ RunMeets (.lookupExtend (ringPacket 0x0303 (0x18 + 8 * 64) []) (extend0 3)) (opLate 0x0303) (ringPacket 0x0303 (0x18 + 8 * 64) []) atOnce live
      (fun c t => (jobOf t c).any fun j => descsOk t j (ringPacket 0x0303 (0x18 + 8 * 64) []) [kindToken, kindReplyPayload]
        && tokensAgree (ringPacket 0x0303 (0x18 + 8 * 64) []) 0x18 true 64 && decide (acceptMask t j 1 = some 1)
        && okAnd (resolvePin t j 0) fun r => !extending t r.record && !growing t r.record
          && (let n := pinBound (inputBlocks t j 1 r.blocks 64) 1
              decide (pinShortage t j (r.blocks + n) n none = none) && decide (pinShortage t j n n (some r.record) = none)))
    ∧ RunMeets (.unpin (ringPacket 0x0304 16 []) { pinHandle := 0, reserved08 := 0 }) (opLate 0x0304) (ringPacket 0x0304 16 [])
        (acceptUnpin (ringPacket 0x0304 16 []) { pinHandle := 0, reserved08 := 0 }) live
      (fun c t => formOk (ringPacket 0x0304 16 []) 16 [] true && c.phase == 1 && (jobOf t c).isSome)
    ∧ okAnd (resolvePin live job0 0) (fun _ => true) = true :=
  ⟨meets _ (by decide +kernel), meets _ (by decide +kernel), by decide, meets _ (by decide +kernel), meets _ (by decide +kernel),
    by decide +kernel⟩

/-- An ingest that takes records. -/
def takingIngest : State := { live with tiers := { live.tiers with ingests := [{ ingest0 2 with phase := .taking, slot := 9 }] } }

def pull0 : IngestParams := { ingestHandle := 0, count := 2, rkey := 9, reserved0C := 0 }
def push0 : IngestParams := { ingestHandle := 0, count := 4096, rkey := 0, reserved0C := 0 }
def pullP : Packet := qpPacket 0x0402 16 [desc 4 4096]
def pushP : Packet := qpPacket 0x0403 16 [desc 5 48]

theorem witness_IngestCommandsComplete :
    RunMeets (.ingestOpen (lookupP 0x0401) (open0 5)) (opLate 0x0401) (lookupP 0x0401) (acceptIngestOpen (open0 5)) live
      (fun c t => c.phase == 0 && c.cls == .lc && decide (Config.ingestHeadroom < t.tiers.ingestPool.free) && (jobOf t c).any fun j =>
        !j.closing && descsOk t j (lookupP 0x0401) [kindToken] && tokensAgree (lookupP 0x0401) 0x10 true 64
          && okAnd (ingestBase t j (open0 5)) (fun b => b.isNone) && !ioFlag (open0 5) 1 && !ingestSpent t j.tenant
          && (openProfile t j (open0 5) c.holds).any fun pr => !pr.lost && 64 / blockSize pr.desc == 1 && decide (1 ≤ maxBlock pr.desc))
    ∧ RunMeets (.ingestPull pullP pull0) (opLate 0x0402) pullP (acceptOnIngest pull0) takingIngest
      (fun c t => paramLen pullP == 16 && pullKeysOk pullP pull0 && (jobOf t c).any fun j => descsOk t j pullP [kindRemoteBuffer]
        && !ingestSpent t j.tenant && okAnd (ingestFor t j c 0) fun g => (ingestProfile t g).any fun pr => !pr.lost)
    ∧ RunMeets (.ingestPushSlots pushP push0) (opLate 0x0403) pushP (acceptOnIngest push0) takingIngest
      (fun c t => paramLen pushP == 16 && decide (c.payloadCap = some 48) && (jobOf t c).any fun j => descsOk t j pushP [kindReplyPayload]
        && !ingestSpent t j.tenant && okAnd (ingestFor t j c 0) (fun g => (ingestProfile t g).any fun pr => !pr.lost)
        && min (min 4096 ((48 - 32) / 8)) (min (Config.jobLandingSlots - jobSlots t j.index) (landingFree t c.cls)) == 2)
    ∧ RunMeets (.ingestCommit (ringPacket 0x0404 16 []) (endParams 0)) (opLate 0x0404) (ringPacket 0x0404 16 [])
        (commitAccept (ringPacket 0x0404 16 []) (endParams 0)) takingIngest
      (fun c t => endForm (ringPacket 0x0404 16 []) (endParams 0) && c.phase == 1 && (jobOf t c).any fun j => (findIngest t 0).any fun g =>
        ((ingestProfile t g).any fun pr => !pr.lost) && !(t.jobs.cmds.any fun x => pullOf g x && decide (x.acceptSlate < c.acceptSlate))
          && !ingestBusy t g && !purgeBefore t j.tenant g.scope c.acceptSlate && !baseBusy t g)
    ∧ RunMeets (.ingestAbort (ringPacket 0x0405 16 []) (endParams 0)) (opLate 0x0405) (ringPacket 0x0405 16 [])
        (abortAccept (ringPacket 0x0405 16 []) (endParams 0)) takingIngest
      (fun c t => endForm (ringPacket 0x0405 16 []) (endParams 0) && c.phase == 1 && (jobOf t c).isSome) :=
  ⟨meets _ (by decide +kernel), meets _ (by decide +kernel), meets _ (by decide +kernel), meets _ (by decide +kernel), meets _ (by decide +kernel)⟩

/-! A delivery of block 1 to the queue pair. -/

def deliver0 : DeliverParams :=
  { pinHandle := 0, firstBlock := 1, blockCount := 1, deliveryId := 3, firstLayer := 0, layerCount := 0, lead := 8, outForm := 0, dlvFlags := 0,
    reserved17 := 0, qpn := 0x20000, dataRkey := 9, layerStride := 0x1000000, vOffset := 0x800000, headStride := 0x10000, tokenStride := 0x100,
    sealAddr := 0x9000, sealLayerStride := 0x100000, sealRkey := 9, rawRkey := 0, rawAddr := 0, rawLayerStride := 0,
    blockTable := .opened [0x4000] }

def deliverP : Packet := qpPacket 0x0501 0x60 [desc 3 24]

/-- The storyboard of the delivery in slot 2. -/
def sb0 : Storyboard :=
  { id := 4, slot := 2, job := 0, cls := .lc, prm := deliver0, record := 0, target := 0x20000, toHost := false, opened := false, begun := false, blockTable := [],
    ptrs := [3], slots := [0], firstLayer := 0, lastLayer := 1, state := .built, enable := 1, current := 0, abort := none, layers := [],
    ackedBytes := 0, lateSeen := false, rawSeen := false, notices := 0, lastNotice := none, cancels := [], reserved := 0 }

/-- Its block table has arrived. -/
def tableRead : State :=
  { live with
    jobs := { live.jobs with cmds := [{ cmd0 (.deliver deliverP deliver0) with wait := .descRead, fetched := true }] },
    eng := { live.eng with storyboards := [sb0] } }

/-- The same on a latent profile. -/
def latentSb : State :=
  { live with
    eng := { live.eng with
      storyboards := [{ sb0 with opened := true }],
      profiles := [{ profile0 with desc := { desc9 with kCodec := 6, vCodec := 6, latentRank := 512 } }] } }

def named0 : DeliveryNameParams := { qpn := 0x20000, deliveryId := 3, targetFlags := 0, reserved07 := 0 }

/-- The storyboard with its table read, on the ring pair. -/
def hostSb : Storyboard := { sb0 with target := 0x800000, toHost := true, opened := true }

theorem witness_MoversAndPortEnginesEnd :
    runningUnit (running .mover (unit0 (.move 0))) .mover 0 = some (unit0 (.move 0))
    ∧ runningUnit (running .mover (unit0 (.weightsMove 0 0 .t2 .t1 0))) .mover 0 = some (unit0 (.weightsMove 0 0 .t2 .t1 0))
    ∧ runningUnit (running .mover (unit0 (.stageTile 0 0 0 0))) .mover 0 = some (unit0 (.stageTile 0 0 0 0))
    ∧ runningUnit (running .mover (unit0 (.storeIngest 0 0 0 0))) .mover 0 = some (unit0 (.storeIngest 0 0 0 0)) ∧ readBad .corrected = false
    ∧ runningUnit (running (.rdma 0) (unit0 (.send 0x20000 seals0 96))) (.rdma 0) 0 = some (unit0 (.send 0x20000 seals0 96))
    ∧ runningUnit (running (.rdma 0) (unit0 (.resend 0x20000 15 seals0 96))) (.rdma 0) 0 = some (unit0 (.resend 0x20000 15 seals0 96))
    ∧ (∀ left ∈ [65536, 65537], let s := { running (.host 0) (sends left) with eng.storyboards := [hostSb] }
      runningUnit s (.host 0) 0 = some (sends left) ∧ messageWanted (endUnit (.host 0) 0 (sends left) s) seals0 = true
        ∧ leavesRegion (endUnit (.host 0) 0 (sends left) s) 0x800000 seals0 left = false)
    ∧ runningUnit (running (.host 0) (unit0 (.hostRead 0x800000 0 0 64))) (.host 0) 0 = some (unit0 (.hostRead 0x800000 0 0 64))
    ∧ (let s := linked (running (.splice 3) spliceSend)
       runningUnit s (.splice 3) 0 = some spliceSend ∧ spliceUp (endUnit (.splice 3) 0 spliceSend s) 3 = true
         ∧ (findSplice (endUnit (.splice 3) 0 spliceSend s) 3).isSome = true) := by decide +kernel

theorem witness_DeliverCommandsComplete :
    RunMeets (.deliver deliverP deliver0) (opLate 0x0501) deliverP (acceptDeliver deliverP deliver0) live
      (fun c t => (ownSb t c).any fun b => !b.opened)
    ∧ ((findCmd tableRead 2).any fun c => decide (c.instr = .deliver deliverP deliver0) && c.wait == .descRead && c.fetched
      && (ownSb tableRead c).any fun b => !b.opened && (findJob tableRead b.job).isSome && b.state != .draining && !lostAmong tableRead b.ptrs) = true
    ∧ ([0x4000] : List U64).length = deliver0.blockCount.toNat ∧ toHost deliver0 = false
    ∧ (tableRead.eng.control.lcq = [] ∧ tableRead.eng.control.beq = [] ∧ idleInst tableRead.eng.control ≠ none
      ∧ ((findCmd tableRead 2).map (readyLc tableRead)) = some [])
    ∧ RunMeets (.deliverCancel (ringPacket 0x0502 8 []) named0) (opLate 0x0502) (ringPacket 0x0502 8 []) atOnce tableRead
      (fun c t => deliveryForm (ringPacket 0x0502 8 []) named0 && (jobOf t c).any fun j => (namedSb t j named0).isSome)
    ∧ RunMeets (.deliverStatus (ringPacket 0x0503 8 []) named0) (opLate 0x0503) (ringPacket 0x0503 8 []) atOnce tableRead
      (fun c t => deliveryForm (ringPacket 0x0503 8 []) named0 && (jobOf t c).any fun j => (namedSb t j named0).isSome)
    ∧ ((findSb latentSb 4).any fun b => mayTurnRaw latentSb b 0) = true :=
  ⟨meets _ (by decide +kernel), by decide +kernel, by decide, by decide, by decide +kernel, meets _ (by decide +kernel), meets _ (by decide +kernel),
    by decide +kernel⟩

/-! A session over block 1. -/

def attendOpen0 : AttendOpenParams :=
  { pinHandle := 0, firstBlock := 1, blockCount := 1, maxEntries := 1, querySlots := 1, scale := 0x3F800000, softcap := 0, windowBlocks := 0,
    firstLayer := 0, layerCount := 0, aoFlags := 0, reserved22 := 0, gatherCycles := 0, qpn := 0x20000, resultRkey := 9 }

def attendOpenP : Packet := qpPacket 0x0601 0x30 [desc 5 48]

def member0 (flags : U16) : Membership :=
  { index := 0, gen := 0, job := 0, cls := .lc, prm := { attendOpen0 with aoFlags := flags }, record := 0, tenant := 1, ptrs := [3], slots := [0],
    group := 0, firstLayer := 0, lastLayer := 1, lastAttend := none, broken := false, closeSlot := none }

def withMember (flags : U16) : State := { live with eng := { live.eng with memberships := [member0 flags] } }

def query0 : QueryBlock :=
  { nonce := 0, entryCount := 1, layer := 0, tagOk := true, qpos := 64 :: List.replicate 63 0, queries := List.replicate (64 * 128) 0x3F80 }

def attend0 : AttendParams :=
  { session := 0, layer := 0, entryCount := 1, querySlot := 0, resultAddr := 0x200000, queryOffset := 0, query := query0 }

/-- On the host path the query lies in the data area. -/
def attendHost0 : AttendParams := { attend0 with queryOffset := 0x100000 }

def attendChecks (p : Packet) (a : AttendParams) (c : Cmd) (t : State) : Bool :=
  (jobOf t c).any fun j => okAnd (resolveSession t j a.session) fun m => m.closeSlot.isNone
    && (memberDesc t m).any fun d => attendForm t j p a m d c.slot

def batch0 : Batch :=
  { id := 6, group := 0, layer := 0, members := [], isOpen := true, started := [], staged := [], spansDone := [], rowsDone := [], partials := [] }

theorem witness_AttendCommandsComplete :
    RunMeets (.attendOpen attendOpenP attendOpen0) (opLate 0x0601) attendOpenP (acceptAttendOpen attendOpen0) live
      (fun c t => c.cls == .lc && attendOpenForm attendOpenP attendOpen0 && (jobOf t c).any fun j => !j.closing
        && descsOk t j attendOpenP [kindReplyPayload] && addressesFit c attendOpen0 && qpOfJob t j 0x20000
        && decide ((t.eng.memberships.filter fun m => m.job == j.index).length < Config.jobMemberships)
        && okAnd (heldRecord t j c 0) fun r => decide (1 ≤ r.blocks) && (blockProfiles t j c.holds (rangePtrs t r.record 1 1)).any fun ps =>
          !ps.any (·.lost) && (ps.head?.map (·.desc)).any fun d => (attendLayers d attendOpen0).isSome
            && decide (queryHeads d * d.headDim.toNat * 2 ≤ 2097152)
            && decide (jobSlots t j.index + querySlotUnits d 1 ≤ Config.jobLandingSlots))
    ∧ RunMeets (.attend (ringPacket 0x0602 0x18 []) attendHost0) (opLate 0x0602) (ringPacket 0x0602 0x18 []) atOnce (withMember 0x20)
      (fun c t => attendChecks (ringPacket 0x0602 0x18 []) attendHost0 c t && !c.fetched && attendHost (member0 0x20).prm)
    ∧ RunMeets (.attend (qpPacket 0x0602 0x18 []) attend0) (opLate 0x0602) (qpPacket 0x0602 0x18 []) atOnce (withMember 0)
      (fun c t => attendChecks (qpPacket 0x0602 0x18 []) attend0 c t && !attendHost (member0 0).prm && !bitOf query0.nonce.toNat 95
        && queryOk (member0 0) desc9 attend0 && !lostAmong t [3] && !((member0 0).slots.any fun x => ((findProfile t x).map (·.lost)).getD false)
        && !attendSpent t 1)
    ∧ RunMeets (.attendClose (ringPacket 0x0603 8 []) { session := 0, reserved04 := 0 }) (opLate 0x0603) (ringPacket 0x0603 8 []) atOnce (withMember 0)
      (fun c t => formOk (ringPacket 0x0603 8 []) 8 [] true && (jobOf t c).any fun j => okAnd (resolveSession t j 0) fun m => m.closeSlot.isNone)
    ∧ ((findBatch { live with eng := { live.eng with batches := [batch0] } } 6).any fun b => b.isOpen) = true :=
  ⟨meets _ (by decide +kernel), meets _ (by decide +kernel), meets _ (by decide +kernel), meets _ (by decide +kernel), by decide +kernel⟩

/-! Cache control over block 1, in T1 alone, in T1 and T2, or in T2 alone. -/

def range0 (op flags : Byte) : RangeParams :=
  { pinHandle := 0, firstBlock := 1, lastBlock := 1, firstLayer := 0, layerCount := 0, opArg := op, opFlags := flags, reserved16 := 0 }

def heldIn (t1 t2 : Option Nat) : State :=
  { live with index := { live.index with nodes := [{ node3 with groups := [{ group0 with t1 := t1, t2 := t2 }, { group0 with t1 := t1, t2 := t2 }] }] } }

/-- In T2 and T3. -/
def deepHeld : State :=
  { live with index := { live.index with nodes := [{ node3 with groups := [{ group0 with t1 := none, t2 := some 0, t3 := some 64 }] }] } }

def rangeChecks (op : Nat) (a : RangeParams) (c : Cmd) (t : State) : Bool :=
  formOk (ringPacket op 0x18 []) 0x18 [] true && (jobOf t c).any fun j => okAnd (namedRange t j a) fun ptrs => ptrs == [3]

/-- What is left to do after an EVICT has begun. -/
def evictLeft (a : RangeParams) (c : Cmd) (t : State) : List (Nat × Nat) :=
  let u := (evictTodo t [3]).foldl (fun w x => evictOne c.slot c.cls x w) t
  let v := (evictTodo2 u a.opArg.toNat [3]).foldl (fun w x => evictOne2 c.slot c.cls x w) u
  evictTodo v [3] ++ evictTodo2 v a.opArg.toNat [3]

def evicts (op : Byte) (s : State) (cond : Cmd → State → Bool) : Prop :=
  RunMeets (.evict (ringPacket 0x0701 0x18 []) (range0 op 0)) (opLate 0x0701) (ringPacket 0x0701 0x18 []) atOnce s
    (fun c t => rangeChecks 0x0701 (range0 op 0) c t && cond c t)

def promotes (op flags : Byte) (target : Tier) (s : State) (some : Bool) : Prop :=
  RunMeets (.promote (ringPacket 0x0702 0x18 []) (range0 op flags)) (opLate 0x0702) (ringPacket 0x0702 0x18 []) atOnce s
    (fun c t => rangeChecks 0x0702 (range0 op flags) c t && decide (promoteLayers (range0 op flags) 2 = Option.some (0, 2))
      && (promoteTodo t target 0 2 [3]).isEmpty != some)

theorem witness_EvictionsComplete :
    evicts 3 (heldIn (some 0) none) (fun _ _ => true)
    ∧ evicts 1 (heldIn none (some 0)) (fun c t => (evictLeft (range0 1 0) c t).isEmpty)
    ∧ evicts 1 (heldIn (some 0) (some 0)) (fun c t => !(evictLeft (range0 1 0) c t).isEmpty)
    ∧ evicts 2 (heldIn none (some 0)) (fun c t => (evictLeft (range0 2 0) c t).isEmpty)
    ∧ evicts 2 deepHeld (fun c t => !(evictLeft (range0 2 0) c t).isEmpty) :=
  ⟨meets _ (by decide +kernel), meets _ (by decide +kernel), meets _ (by decide +kernel), meets _ (by decide +kernel), meets _ (by decide +kernel)⟩

theorem witness_CacheControlCommandsComplete :
    promotes 1 1 .t1 (heldIn none (some 0)) true ∧ promotes 1 0 .t1 (heldIn (some 0) none) false ∧ promotes 1 0 .t1 (heldIn none (some 0)) true
    ∧ promotes 2 0 .t2 (heldIn none (some 0)) false
    ∧ RunMeets (.hint (ringPacket 0x0703 0x18 []) (range0 5 0)) (opLate 0x0703) (ringPacket 0x0703 0x18 []) atOnce live
      (fun c t => rangeChecks 0x0703 (range0 5 0) c t && decide ((5 : Byte).toNat < 8) && !(bitOf (5 : Byte).toNat 0 && bitOf (5 : Byte).toNat 1))
    ∧ RunMeets (.purgeScope (ringPacket 0x0704 8 []) { scopeId := 5, reserved02 := 0 }) (opLate 0x0704) (ringPacket 0x0704 8 []) atOnce live
      (fun c t => formOk (ringPacket 0x0704 8 []) 8 [] true && (jobOf t c).any fun j => scopeAllowed j 5)
    ∧ RunMeets (.purgeTenant (ringPacket 0x0705 8 []) 0) (opLate 0x0705) (ringPacket 0x0705 8 []) atOnce live
      (fun _ _ => formOk (ringPacket 0x0705 8 []) 8 [] true) :=
  ⟨meets _ (by decide +kernel), meets _ (by decide +kernel), meets _ (by decide +kernel), meets _ (by decide +kernel), meets _ (by decide +kernel),
    meets _ (by decide +kernel), meets _ (by decide +kernel)⟩

/-- The tenant has 3 live epochs, the most with which a rotation still opens one. -/
def threeEpochs : State := { live with persist := { live.persist with epochs := [{ tenant := 1, oldest := 4, newest := 6 }] } }

theorem witness_KeyRotationCompletes :
    RunMeets (.keyRotateOpen (ringPacket 0x0802 8 []) { reserved01 := 0 }) (opEarly 0x0802) (ringPacket 0x0802 8 []) atOnce threeEpochs
      (fun c t => formOk (ringPacket 0x0802 8 []) 8 [] true && decide ((epochsOf t c.tenant).newest + 1 - (epochsOf t c.tenant).oldest < 4)
        && decide ((epochsOf t c.tenant).newest ≠ 0xFFFFFFFF))
    ∧ RunMeets (.keyRotateQuery (ringPacket 0x0802 8 []) { reserved01 := 0 }) (opEarly 0x0802) (ringPacket 0x0802 8 []) atOnce threeEpochs
      (fun _ _ => formOk (ringPacket 0x0802 8 []) 8 [] true) :=
  ⟨meets _ (by decide +kernel), meets _ (by decide +kernel)⟩

/-! ## Witnesses: management commands -/

def mgmtDesc (kind len : Nat) : Descriptor := { address := 0, lenKind := BitVec.ofNat 32 (len + kind * 2 ^ 24), rkey := 0 }

/-- A command of the operator's session runs from `s`. -/
def mgmtMeets (i : Packet → Instr) (op : OpInfo) (plen : Nat) (descs : List Descriptor) (s : State) (cond : Packet → Cmd → State → Bool) : Prop :=
  RunMeets (i (mgmtPacket op.opcode plen descs)) op (mgmtPacket op.opcode plen descs) atOnce s (cond (mgmtPacket op.opcode plen descs))

/-- No other maintenance command waits. -/
def myTurn (c : Cmd) (t : State) : Bool := t.jobs.cmds.all fun d => !isMaintenance d.instr || decide (c.acceptSlate ≤ d.acceptSlate)

theorem turnHasCome_of {c : Cmd} {t : State} (h : myTurn c t = true) : TurnHasCome t c := by
  intro d hd hm
  have := List.all_eq_true.mp h d hd
  simpa [hm] using this

def attest0 : AttestParams := { callerNonce := 5, atFlags := 0, reserved21 := 0 }

def token0 : DebugToken :=
  { tokenFormat := 1, debugScope := 3, resetGen := 1, deviceIdOk := true, reservedZero := true, authorityOk := true, signatureOk := true }

theorem witness_ReportsAndCountersRead :
    mgmtMeets (.attest · attest0) (opBoth 0x0801) 0x28 [mgmtDesc 5 1488] live (fun p c t => formOk p 0x28 [kindReplyPayload] true
      && !reportsRefused t && !(atJobClaims attest0 && p.path == .mgmt) && c.payloadCap.any fun cap => decide (32 + attestLen attest0 ≤ cap))
    ∧ mgmtMeets (.statsRead · { set := 2, reserved01 := 0 }) (opBoth 0x0901) 8 [mgmtDesc 5 4096] live
      (fun p c t => formOk p 8 [kindReplyPayload] true && (statsSet t p (jobOf t c) 2).isSome)
    ∧ mgmtMeets (.eventsRead · { fromSlate := 0, maxRecords := 4096, reserved0A := 0 }) (opBoth 0x0902) 16 [mgmtDesc 5 4096] live
      (fun p _ t => formOk p 16 [kindReplyPayload] true && t.clk.events.head?.isSome)
    ∧ mgmtMeets (.debugUnlock · { tokenLen := 1152, reserved02 := 0, token := token0 }) (opMgmt 0x0A0D false) 1160 [] live
      (fun p c t => myTurn c t && formOk p 1160 [] true && !t.sec.transition
        && decide (tokenFailure t { tokenLen := 1152, reserved02 := 0, token := token0 } = none)) :=
  ⟨meets _ (by decide +kernel), meets _ (by decide +kernel), meets _ (by decide +kernel), meets _ (by decide +kernel)⟩

def window0 (n : U32) : HostWindowParams := { port := 0, reserved01 := 0, granules := n, reserved08 := 0 }
def quota0 : QuotaSetParams := { tenant := 1, reserved02 := 0, quotas := anyQuotas, reserved2A := 0 }
def class0 (tenant : U16) (policy reserve : Byte) : ClassSetParams :=
  { tenant := tenant, classPolicy := policy, beFloor := 0, lcReserve := reserve, reserved05 := 0 }
def route0 (entry port : Byte) (dest : U16) : SpliceRouteParams := { entry := entry, destDevice := dest, outPort := port, rsFlags := 1, reserved06 := 0 }
def port0 (kind flags prios : Byte) : PortConfigParams :=
  { portKind := kind, port := 0, mode := 0, pcFlags := flags, pfcPriorities := prios, reserved05 := 0 }

def mgmtPort : State := { live with cfg := { cfg1 with ports := cfg1.ports.set 10 defaultPort } }

theorem witness_SettingsAreRecorded :
    (∀ n ∈ ([0, 1, 2048] : List U32), mgmtMeets (.hostWindowSet · (window0 n)) (opMgmt 0x0A01 false) 16 [] live
      (fun p _ t => formOk p 16 [] true && decide (n.toNat ≤ 2048) && (findWindow t 0).waitSlot.isNone && (findWindow t 0).fenceFrom.isNone
        && (findWindow t 0).granules == 1))
    ∧ mgmtMeets (.tenantQuotaSet · quota0) (opMgmt 0x0A02 false) 0x30 [] live
      (fun p _ t => formOk p 0x30 [] true && quotaForm quota0 && (findTenant t 1).isSome)
    ∧ mgmtMeets (.classSet · (class0 0 0 50)) (opMgmt 0x0A03 false) 8 [] live (fun p _ _ => formOk p 8 [] true && classForm (class0 0 0 50))
    ∧ mgmtMeets (.classSet · (class0 1 2 0)) (opMgmt 0x0A03 false) 8 [] live
      (fun p _ t => formOk p 8 [] true && classForm (class0 1 2 0) && (findTenant t 1).isSome)
    ∧ mgmtMeets (.wearBudgetSet · { dailyBudget := 1000000 }) (opMgmt 0x0A08 false) 8 [] live (fun p _ _ => formOk p 8 [] true)
    ∧ mgmtMeets (.spliceRouteWrite · (route0 63 3 9)) (opMgmt 0x0A09 false) 8 [] live
      (fun p _ _ => formOk p 8 [] true && bitsOf (route0 63 3 9).rsFlags.toNat 1 7 == 0)
    ∧ mgmtMeets (.spliceDeviceNumberSet · (route0 0 0 9)) (opMgmt 0x0A09 false) 8 [] live
      (fun p _ t => formOk p 8 [] true && t.cfg.deviceNumber != 9)
    ∧ mgmtMeets (.portConfig · (port0 1 2 1)) (opMgmt 0x0A07 false) 8 [] live
      (fun p _ t => formOk p 8 [] true && portForm (port0 1 2 1) && decide (portCfg t 1 0 ≠ portBlock (port0 1 2 1)))
    ∧ mgmtMeets (.portConfig · (port0 4 0 0)) (opMgmt 0x0A07 false) 8 [] mgmtPort
      (fun p _ t => formOk p 8 [] true && portForm (port0 4 0 0) && decide (portCfg t 4 0 = portBlock (port0 4 0 0)))
    ∧ mgmtMeets (.portConfig · (port0 4 0 0)) (opMgmt 0x0A07 false) 8 [] live
      (fun p _ t => formOk p 8 [] true && portForm (port0 4 0 0) && decide (portCfg t 4 0 ≠ portBlock (port0 4 0 0))) := by
  refine ⟨?_, meets _ (by decide +kernel), meets _ (by decide +kernel), meets _ (by decide +kernel), meets _ (by decide +kernel),
    meets _ (by decide +kernel), meets _ (by decide +kernel), meets _ (by decide +kernel), meets _ (by decide +kernel), meets _ (by decide +kernel)⟩
  intro n hn
  simp only [List.mem_cons, List.not_mem_nil, or_false] at hn
  rcases hn with rfl | rfl | rfl
  · exact meets _ (by decide +kernel)
  · exact meets _ (by decide +kernel)
  · exact meets _ (by decide +kernel)

def spare0 (kind : Byte) (unit : U32) : SpareMapParams := { unitKind := kind, reserved02 := 0, unit := unit, reserved08 := 0 }
def stage0 : FwStageParams := { imageLen := 4096, reserved04 := 0, imageDigest := 11, image := image0 }
def reset0 (kind port : Byte) : DeviceResetParams := { portKind := kind, port := port, reserved03 := 0 }
def register0 : TenantRegisterParams := { tenant := 2, reserved002 := 0, pubExponent := 65537, modulus := 1 <<< 4095 }
def remove0 (flags : Byte) : TenantRemoveParams := { tenant := 1, trmFlags := flags, reserved03 := 0 }

def staged0 : State := { live with boot := { live.boot with staged := some (1, 11) } }

def removing : State :=
  { noJob with jobs := { noJob.jobs with cmds := [{ cmd0 (.tenantRemove (mgmtPacket 0x0A0C 8 []) (remove0 1)) with job := none, wait := .jobDrain }] } }

def removes (flags : Byte) (s : State) (cond : Cmd → State → Bool) : Prop :=
  RunMeets (.tenantRemove (mgmtPacket 0x0A0C 8 []) (remove0 flags)) (opMgmt 0x0A0C false) (mgmtPacket 0x0A0C 8 [])
    (removeAccept (mgmtPacket 0x0A0C 8 []) (remove0 flags)) s (fun c t => myTurn c t && c.phase == 0
      && removeForm t (mgmtPacket 0x0A0C 8 []) (remove0 flags) && cond c t)

theorem witness_MaintenanceCommandsComplete :
    mgmtMeets (.spareMapRead · (spare0 0 0)) (opMgmt 0x0A04 true) 16 [mgmtDesc 5 4096] live (fun p _ _ => formOk p 16 [kindReplyPayload] true)
    ∧ mgmtMeets (.spareMapRetire · (spare0 4 1)) (opMgmt 0x0A04 false) 16 [] live
      (fun p c t => myTurn c t && formOk p 16 [] true && unitActive t 4 1)
    ∧ mgmtMeets (.fwStage · stage0) (opMgmt 0x0A05 false) 0x48 [mgmtDesc 6 4096] live
      (fun p c t => myTurn c t && formOk p 0x48 [kindFirmware] true && stage0.imageLen.toNat == descBytes kindFirmware p
        && decide (stage0.imageLen.toNat ≤ slotBytes) && imageForm image0 && decide (imageFailure t.boot.fuses image0 = none))
    ∧ mgmtMeets (.fwActivate · { slot := 1, faFlags := 1, reserved02 := 0 }) (opMgmt 0x0A06 false) 8 [] staged0
      (fun p c t => myTurn c t && formOk p 8 [] true && decide (t.boot.staged = some (1, 11)) && !t.sec.transition)
    ∧ mgmtMeets (.deviceResetCompute · (reset0 0 0)) (opMgmt 0x0A0A false) 8 [] live
      (fun p c t => myTurn c t && formOk p 8 [] true && !t.sec.transition)
    ∧ mgmtMeets (.deviceResetFull · (reset0 0 0)) (opMgmt 0x0A0A false) 8 [] live (fun p c t => myTurn c t && formOk p 8 [] true)
    ∧ mgmtMeets (.deviceResetPort · (reset0 3 3)) (opMgmt 0x0A0A false) 8 [] live
      (fun p c t => myTurn c t && formOk p 8 [] true && portExists 3 3)
    ∧ mgmtMeets (.tenantRegister · register0) (opMgmt 0x0A0B false) 0x208 [] live
      (fun p c t => myTurn c t && c.phase == 0 && formOk p 0x208 [] true && registerForm register0 && tenantJobs t 2 == 0
        && regGenOf t 2 != 0xFFFFFFFF)
    ∧ removes 0 noJob (fun _ t => tenantJobs t 1 == 0)
    ∧ removes 1 live (fun _ t => tenantJobs t 1 != 0 && forced (remove0 1))
    ∧ ((removalOf removing 1).isSome && tenantJobs removing 1 == 0) = true :=
  ⟨meets _ (by decide +kernel), meets _ (by decide +kernel), meets _ (by decide +kernel), meets _ (by decide +kernel), meets _ (by decide +kernel),
    meets _ (by decide +kernel), meets _ (by decide +kernel), meets _ (by decide +kernel), meets _ (by decide +kernel), meets _ (by decide +kernel),
    by decide +kernel⟩

/-! ## Ill-formed terms: one for each check of WellFormed -/

theorem illFormed_packets :
    (∀ p ∈ [{ ringPacket 0x0103 8 [] with lane := 0x802000 }, { qpPacket 0x0103 8 [] with lane := 0x20001 },
        { qpPacket 0x0103 8 [] with bth := { bth0 with lport := 16 } }, { mgmtPacket 0x0103 8 [] with lane := 0xFFFFFF }, ringPacket 0x0104 8 []],
      wellFormed (.jobQuery p 0) = false)
    ∧ wellFormed (.unknownOpcode (ringPacket 0x0103 8 [])) = false ∧ wellFormed (.unknownOpcode { ringPacket 0x0104 8 [] with lane := 5 }) = false
    ∧ wellFormed (.fwStage (mgmtPacket 0x0A05 0x48 []) { stage0 with imageLen := 4095 }) = false
    ∧ wellFormed (.jobQuery (ringPacket 0x0103 8 []) 0) = true := by decide +kernel

theorem illFormed_hostRows :
    wellFormed (.getVersion 2) = false ∧ wellFormed (.hostLinkDown 0 2) = false ∧ wellFormed (.hostLinkDown 2 0) = false
    ∧ wellFormed (.rpDisable 0 1 2047) = false ∧ wellFormed (.rpDisable 0 0 4096) = false
    ∧ wellFormed (.cxlMemWrite 0 0 [1] enables64 .any) = false ∧ wellFormed (.cxlMemWrite 0 0 line64 [true] .any) = false
    ∧ wellFormed (.registerWrite 0 0 0 0 3 0) = false := by decide +kernel

theorem illFormed_netRows :
    wellFormed (.rxOtherDrop 16) = false ∧ wellFormed (.pfcPauseRefresh 4 0) = false ∧ wellFormed (.pfcPauseTimeExpiry 0 8) = false
    ∧ wellFormed (.dhcpReply 17 0) = false ∧ wellFormed (.cmRtu 0x1FFFF) = false ∧ wellFormed (.cmRtu 0x800000) = false
    ∧ wellFormed (.ackReceived { bth0 with qpn := 0x800000 }) = false ∧ wellFormed (.ackReceived { bth0 with lport := 16 }) = false
    ∧ wellFormed (.nakFatalReceived bth0 2) = false ∧ wellFormed (.nakFatalReceived bth0 6) = false := by decide +kernel

theorem illFormed_unitRows :
    wellFormed (.mergeUnitEnd 264 .passed) = false ∧ wellFormed (.codecUnitEnd 68 .passed) = false ∧ wellFormed (.moverUnitEnd 48 .passed .good) = false
    ∧ wellFormed (.engineUnitOverrun 2 0) = false ∧ wellFormed (.matchProbeResult 4 [] []) = false ∧ wellFormed (.matchProbeResult 0 [(256, 0)] []) = false
    ∧ wellFormed (.matchProbeResult 0 [] [(0, 53)]) = false
    ∧ wellFormed (.continuityScan [(16896, 0, 0)]) = false ∧ wellFormed (.continuityScan [(0, 0, 106)]) = false ∧ wellFormed (.sliverPin 6144) = false
    ∧ wellFormed (.controlCoreFault 0 0) = false ∧ wellFormed (.controlCoreFault 7 0) = false ∧ wellFormed (.patrolScrub .t3 0 0 0 .good) = false := by
  decide +kernel

def matchOut0 : MatchOutBody :=
  { lookupId := 0, holderDevice := 1, hopsUsed := 0, lowerBound := false, budgetSpent := false, firstBlock := 0, extendedCount := 0, tierHint := 0 }

def matchIn0 : MatchInBody :=
  { lookupId := 0, tenant := 1, variantMask := 1, miFlags := 0, hopBudget := 0, countSoFar := 0, lastKey := 0, keys := [] }

theorem illFormed_platformRows :
    wellFormed (.startup 44800 false) = false ∧ wellFormed (.startup 65000 false) = false ∧ wellFormed (.sagWarn 42200) = false
    ∧ wellFormed (.vinBelowReset 36200) = false ∧ wellFormed (.vinOverVoltage 65800) = false ∧ wellFormed (.thermalTick 48 0 0) = false
    ∧ wellFormed (.thermalTripRelease 900 0) = false ∧ wellFormed (.spliceLinkDown 4) = false
    ∧ wellFormed (.matchOut 0 (env 1 256) matchOut0) = false ∧ wellFormed (.matchIn 0 (env 1 0) matchIn0) = false := by decide +kernel

/-! ## Steps and values worked from the spec -/

/-- The next state, and whether it meets a condition. -/
def after (i : Instr) (s : State) (cond : State → Bool) : Bool :=
  match exec i s with
  | .next t => cond t
  | _ => false

/-- Table 2.7: tiles of EM-60 in each codec, in bytes. -/
theorem test_tile_sizes : ([0, 1, 2, 3, 4, 5] : List Byte).map (fun c => tileLen { desc9 with kCodec := c, vCodec := c })
    = [32768, 16896, 16896, 12800, 8704, 10240] := by decide +kernel

/-- EM-28-L (chapter 2): one latent page is 28,672 bytes; chapter 5: its record is padded to 1.5 MiB, W_UV at 0x63400. -/
theorem test_latent_sizes :
    let d := { desc9 with kvHeads := 16, kCodec := 6, vCodec := 6, latentRank := 384, ropeDims := 64 }
    pageLen d = 28672 ∧ ukOffset d = 0x400 ∧ uvOffset d = 0x63400 ∧ recordSize d = 0x180000 := by decide +kernel

/-- Table 5.8, the elements as BF16. -/
theorem test_mx4_group :
    let xs := [0x3F40, 0xBE4D, 0x3FA1, 0x4020, 0xC0AA, 0x407A, 0x3E80, 0xBF80].map (decodeFp fmtBF16) ++ List.replicate 24 zeroF
    (encodeMx fmtE2M1 2 xs).2 = 0x7F ∧ (packNibbles (encodeMx fmtE2M1 2 xs).1).take 4 = [0x82, 0x43, 0x6F, 0xA0] := by decide +kernel

/-- The same group decoded to OUT_FP8 (chapter 5). -/
theorem test_mx4_decoded :
    outRow false ((decodeToken 4 32 (fun _ => natF 1) ([0x82, 0x43, 0x6F, 0xA0] ++ List.replicate 12 0) [0x7F]).take 8)
      = [0x38, 0x80, 0x3C, 0x40, 0xCC, 0x48, 0x00, 0xB8] := by decide +kernel

/-- The standards' own examples (R40, R205, R390): FIPS 197 C.3, SP 800-38B D.3 Mlen 0, GCM's case 13, and CRC-32C of
"123456789". -/
theorem test_aes_block : beNat (aesBlock (roundKeys (beBytes 32 0x000102030405060708090a0b0c0d0e0f101112131415161718191a1b1c1d1e1f))
    (beBytes 16 0x00112233445566778899aabbccddeeff)) = 0x8ea2b7ca516745bfeafc49904b496089 := by decide +kernel

theorem test_cmac_empty : beNat (aesCmac (beBytes 32 0x603deb1015ca71be2b73aef0857d77811f352c073b6108d72d9810a30914dff4) [])
    = 0x028962f61b7bf89efc6b551f4667d983 := by decide +kernel

theorem test_gcm_empty : beNat (gcmTag (zeroBytes 32) 0 [] []) = 0x530f8afbc74536b9a963b4f1c4cb738b := by decide +kernel

theorem test_crc32c : crc32c (ascii "123456789") = 0xE3069283 := by decide +kernel

/-- FIPS 180-4: SHA-512 of "abc". -/
theorem test_sha512 : beNat (sha512 (ascii "abc"))
    = 0xddaf35a193617abacc417349ae20413112e6fa4e89a97ea20a9eeee64b55d39a2192992a274fc1a836ba3c23a3feebbd454d4423643ce80e2a9ac94fa54ca49f := by
  decide +kernel

/-- Writing the value that an unlisted byte reads as removes it from the list. -/
theorem test_memory_zero_removes : memPut 3 0 [(3, 7), (5, 1)] = [(5, 1)] ∧ memRead (memPut 3 0 [(3, 7), (5, 1)]) 3 = 0 := by decide

/-- R338: a due CNP at alpha 1 halves the rate; alpha stays 1. -/
theorem test_cnp_halves : after (.cnpReceived 0x20000 true) (qpWith fun q => { q with rc := 6553600 })
    (fun t => (findQp t 0x20000).any fun q => q.rc == 3276800 && q.rt == 6553600 && q.alpha == 65536) = true := by decide +kernel

/-- R336: 6 MiB is not yet above the threshold. -/
theorem test_pfc_threshold : after (.pfcPauseRefresh 0 6291456) live (fun t => t.net.eports.all fun e => !e.xoff) = true
    ∧ after (.pfcPauseRefresh 0 6291457) live (fun t => (t.net.eports.find? fun e => e.num == 0).any fun e => e.xoff) = true := by decide +kernel

/-- R104: an entry of PRIORITY 150 goes between those of 200 and 100. -/
theorem test_insert_between : after (.dollyInsert 0) (arrayWith 0 [.insert 9 32773 1 150 0])
    (fun t => (entryAtPos t.marr.entries 5 1).any (fun e => e.nodePtr == 9) && (entryAtPos t.marr.entries 5 2).any (fun e => e.nodePtr == 4)) = true := by
  decide +kernel

/-- The completion entries written, by their status. -/
def replied (t : State) : List Status :=
  t.out.filterMap fun o => match o with
    | .completion _ _ _ _ (.reply r) _ => some r.status
    | _ => none

/-- JOB_QUERY of a live job replies ST_OK (R308); a LOOKUP in a scope outside the job ST_DENIED (R30). -/
theorem test_replies :
    after (.jobQuery (ringPacket 0x0103 8 []) 0) live (fun t => replied t == [.ok]) = true
    ∧ after (.lookup (lookupP 0x0301) (lookup0 6 0)) live (fun t => replied t == [.denied]) = true
    ∧ statusCode .ok = 0 ∧ statusCode .denied = 0x13 := by decide +kernel

/-- R454, R453: one marker takes one slate number and closes one window. -/
theorem test_marker : after .cutMarker { live with power := { live.power with step := 6 } }
    (fun t => t.clk.window == 301 && t.clk.slate == 51) = true := by decide +kernel

/-- R468: at 100.0 °C one more pulse is skipped, at 97.9 °C one fewer. -/
theorem test_throttle : after (.thermalTick 0 1000 500) live (fun t => t.power.skip == 1) = true
    ∧ after (.thermalTick 0 979 500) { live with power := { live.power with skip := 3 } } (fun t => t.power.skip == 2) = true := by decide +kernel

/-- R378: an enabled byte is stored, another is not. -/
theorem test_cxl_enables : after (.cxlMemWrite 0 3 line64 (true :: List.replicate 63 false) .any) live
    (fun t => memRead (findWindow t 0).mem 192 == 0xAB && memRead (findWindow t 0).mem 193 == 0) = true := by decide +kernel

/-- Table 17.8: power in range leads to the PLL step. -/
theorem test_startup : after (.startup 48000 false) State.reset (fun t => t.power.step == 2) = true := by decide +kernel

/-- R417: EXTEST is loaded while a job is open, and acts as BYPASS. -/
theorem test_tap : after .extest live (fun t => t.sec.tap == .extest && tapActs t == .bypass) = true
    ∧ after .extest noJob (fun t => tapActs t == .extest) = true := by decide +kernel
end Sys2Proof.Tests
end

section
/-! SUPPORT. The proofs about the cache model of the spec's chapter 2. -/
namespace Sys2Proof.Machine

/-! ## A scope outside the job's scopes (R30) -/

/-- A job may not name a scope that is not among its own. -/
theorem scopeAllowed_eq_false {j : Job} {scope : U16} (h : scope ∉ j.scopes) : scopeAllowed j scope = false := by
  simpa [scopeAllowed] using h

/-- R78's test 4: a LOOKUP or LOOKUP_PIN that passes the tests before it is denied when its scope is outside the job's. -/
theorem lookupRun_denied {p : Packet} {a : LookupParams} {pins : Bool} {c : Cmd} {t : State} {j : Job} {mask : Nat}
    (hj : jobOf t c = some j) (hform : lookupForm t j p a pins = true)
    (htok : tokensAgree p 0x10 (bitOf a.lkFlags.toNat 0) a.tokenCount.toNat = true)
    (hmask : acceptMask t j a.variantMask = some mask) (hhop : a.hopBudget.toNat ≤ 63) (hscope : a.scopeId ∉ j.scopes) :
    lookupRun p a pins c t = fail c .denied t := by
  simp [lookupRun, hj, hform, htok, hmask, Nat.not_lt.mpr hhop, scopeAllowed_eq_false hscope]

/-- An ingest of a first block, which names no base record, has no base to start from in a scope outside the job's (R30). -/
theorem ingestBase_denied (t : State) {j : Job} {a : IngestOpenParams} (hbase : a.baseHandle = 0)
    (hscope : a.scopeId ∉ j.scopes) : ingestBase t j a = .error .denied := by
  simp [ingestBase, hbase, scopeAllowed_eq_false hscope]

/-- INGEST_OPEN of a first block that passes the form tests ends with the failure of its base. -/
theorem runIngestOpen_denied {p : Packet} {a : IngestOpenParams} {c : Cmd} {t : State} {j : Job} (hj : jobOf t c = some j)
    (hopen : j.closing = false) (hflags : bitsOf a.ioFlags.toNat 3 5 = 0) (hdescs : descsOk t j p [kindToken] = true)
    (htok : tokensAgree p 0x10 (ioFlag a 0) a.tokenCount.toNat = true) (hbase : a.baseHandle = 0)
    (hscope : a.scopeId ∉ j.scopes) : runIngestOpen p a c t = fail c .denied t := by
  simp [runIngestOpen, hj, hopen, hflags, hdescs, htok, ingestBase_denied t hbase hscope]

/-- PURGE_SCOPE of good form is denied when its scope is outside the job's (R185). -/
theorem runPurgeScope_denied {p : Packet} {a : PurgeScopeParams} {c : Cmd} {t : State} {j : Job} (hj : jobOf t c = some j)
    (hform : formOk p 8 [] true = true) (hres : a.reserved02 = 0) (hscope : a.scopeId ∉ j.scopes) :
    runPurgeScope p a c t = fail c .denied t := by
  simp [runPurgeScope, hj, hform, hres, scopeAllowed_eq_false hscope]

/-! ## The commands' steps -/

theorem exec_lookup (p : Packet) (a : LookupParams) (s : State) :
    exec (.lookup p a) s = finish s (command (.lookup p a) (opLate 0x0301) p atOnce (runLookup p a) s) := rfl

theorem exec_lookupPin (p : Packet) (a : LookupParams) (s : State) :
    exec (.lookupPin p a) s = finish s (command (.lookupPin p a) (opLate 0x0302) p atOnce (runLookupPin p a) s) := rfl

theorem exec_ingestOpen (p : Packet) (a : IngestOpenParams) (s : State) :
    exec (.ingestOpen p a) s = finish s (command (.ingestOpen p a) (opLate 0x0401) p (acceptIngestOpen a)
      (fun c u => sweepProfiles (runIngestOpen p a c u)) s) := rfl

theorem exec_purgeScope (p : Packet) (a : PurgeScopeParams) (s : State) :
    exec (.purgeScope p a) s = finish s (command (.purgeScope p a) (opLate 0x0704) p atOnce (runPurgeScope p a) s) := rfl

/-- Settles O9: each of the four commands reaches its own run, whose test of the scope comes right after the format tests and
answers ST_DENIED. -/
theorem scopesOutsideTheJobRefused : Obligations.ScopesOutsideTheJobRefused := by
  unfold Obligations.ScopesOutsideTheJobRefused
  refine ⟨?lookup, ?lookupPin, ?ingestOpen, ?purgeScope⟩
  case lookup =>
    intro s t p a c j mask hruns hj hform htok hmask hhop hscope
    rw [exec_lookup]
    exact runs_to hruns (lookupRun_denied hj hform htok hmask hhop hscope)
  case lookupPin =>
    intro s t p a c j mask hruns hj hform htok hmask hhop hscope
    rw [exec_lookupPin]
    exact runs_to hruns (lookupRun_denied hj hform htok hmask hhop hscope)
  case ingestOpen =>
    intro s t p a c j hruns hj hopen hflags hdescs htok hbase hscope
    rw [exec_ingestOpen]
    exact runs_to hruns (congrArg sweepProfiles (runIngestOpen_denied hj hopen hflags hdescs htok hbase hscope))
  case purgeScope =>
    intro s t p a c j hruns hj hform hres hscope
    rw [exec_purgeScope]
    exact runs_to hruns (runPurgeScope_denied hj hform hres hscope)

end Sys2Proof.Machine
end

section
/-! Obligation O6: what a class takes from a pool's two parts, and what a take given back leaves (R326). -/
namespace Sys2Proof.Machine

/-! ## What a take answers -/

theorem Pool.take_lc_of_le {p : Pool} {n : Nat} (h : n ≤ p.lcFree + p.sharedFree) :
    p.take .lc n = some ({ lc := min n p.lcFree, shared := n - p.lcFree },
      { p with lcFree := p.lcFree - n, sharedFree := p.sharedFree - (n - p.lcFree) }) :=
  if_pos h

theorem Pool.take_be_of_le {p : Pool} {n : Nat} (h : n ≤ p.sharedFree) :
    p.take .be n = some ({ lc := 0, shared := n }, { p with sharedFree := p.sharedFree - n }) :=
  if_pos h

theorem Pool.take_lc_eq_none {p : Pool} {n : Nat} (h : p.lcFree + p.sharedFree < n) : p.take .lc n = none :=
  if_neg (Nat.not_le.mpr h)

theorem Pool.take_be_eq_none {p : Pool} {n : Nat} (h : p.sharedFree < n) : p.take .be n = none :=
  if_neg (Nat.not_le.mpr h)

/-! ## A take given back -/

/-- `q` is `p` without the units of `t`, each part of which `p` had free. -/
structure Pool.Without (p : Pool) (t : Taken) (q : Pool) : Prop where
  lc_le : t.lc ≤ p.lcFree
  shared_le : t.shared ≤ p.sharedFree
  rest : q = { p with lcFree := p.lcFree - t.lc, sharedFree := p.sharedFree - t.shared }

/-- A take of either class hands out `n` units and removes just these, part by part. -/
theorem Pool.take_without {p q : Pool} {c : Cls} {n : Nat} {t : Taken} (h : p.take c n = some (t, q)) :
    t.lc + t.shared = n ∧ p.Without t q := by
  have hsome : (p.take c n).isSome = true := by rw [h]; rfl
  rw [Pool.take_isSome] at hsome
  cases c with
  | lc =>
    have hn : n ≤ p.lcFree + p.sharedFree := of_decide_eq_true hsome
    rw [Pool.take_lc_of_le hn] at h
    cases h
    refine ⟨?sum, ?lc_le, ?shared_le, ?rest⟩
    case sum => show min n p.lcFree + (n - p.lcFree) = n; omega
    case lc_le => exact Nat.min_le_right n p.lcFree
    case shared_le => show n - p.lcFree ≤ p.sharedFree; omega
    case rest =>
      have hreserve : p.lcFree - n = p.lcFree - min n p.lcFree := by omega
      rw [hreserve]
  | be =>
    have hn : n ≤ p.sharedFree := of_decide_eq_true hsome
    rw [Pool.take_be_of_le hn] at h
    cases h
    exact ⟨Nat.zero_add n, Nat.zero_le _, hn, rfl⟩

/-- Units given back to the parts that they left restore the pool. -/
theorem Pool.Without.give_eq {p q : Pool} {t : Taken} (h : p.Without t q) : q.give t = p := by
  simp [Pool.give, h.rest, Nat.sub_add_cancel h.lc_le, Nat.sub_add_cancel h.shared_le]

/-- Settles O6: each class's take by its own equation, and a take given back through the units that it removed. -/
theorem poolsTakeByClass : Obligations.PoolsTakeByClass := by
  unfold Obligations.PoolsTakeByClass
  refine ⟨?reserve, ?reserveThenShared, ?sharedOnly, ?giveBack, ?short⟩
  case reserve =>
    intro p n hn
    rw [Pool.take_lc_of_le (Nat.le_add_right_of_le hn), Nat.min_eq_left hn, Nat.sub_eq_zero_of_le hn, Nat.sub_zero]
  case reserveThenShared =>
    intro p n hlt hn
    rw [Pool.take_lc_of_le hn, Nat.min_eq_right (Nat.le_of_lt hlt), Nat.sub_eq_zero_of_le (Nat.le_of_lt hlt)]
  case sharedOnly => exact fun p n => Pool.take_be_of_le
  case giveBack =>
    intro p q c n t h
    obtain ⟨hsum, hwithout⟩ := Pool.take_without h
    exact ⟨hsum, hwithout.give_eq⟩
  case short => exact fun p n => ⟨Pool.take_lc_eq_none, Pool.take_be_eq_none⟩

end Sys2Proof.Machine
end

section
/-! Obligation O15: what the TAP loads and executes, and the JOB_OPEN that meets boundary scan (R417). -/
namespace Sys2Proof.Machine

/-! ## What the TAP executes -/

/-- Of the seven TAP instructions, all but IDCODE and BYPASS are boundary scan. -/
theorem boundaryScan_iff (s : State) :
    boundaryScan s = true ↔ s.sec.tap ∈ [TapInstr.samplePreload, .extest, .intest, .clamp, .highz] := by
  unfold boundaryScan
  cases s.sec.tap <;> decide

theorem tapActs_of_not_boundaryScan {s : State} (h : boundaryScan s = false) : tapActs s = s.sec.tap := by
  simp [tapActs, h]

theorem tapActs_of_boundaryScan {s : State} (h : boundaryScan s = true) :
    tapActs s = if s.jobs.table = [] then s.sec.tap else .bypass := by
  cases hjobs : s.jobs.table with
  | nil => simp [tapActs, hjobs]
  | cons j js => simp [tapActs, h, hjobs]

/-! ## The instructions' steps -/

/-- The commands that load a boundary-scan instruction, each with the instruction that it loads. -/
def scanLoads : List (Instr × TapInstr) :=
  [(.samplePreload, .samplePreload), (.extest, .extest), (.intest, .intest), (.clamp, .clamp), (.highz, .highz)]

theorem exec_idcode (s : State) : exec .idcode s = .next (settled s (emit (.idcodeRead Config.idcode) (loadTap .idcode s))) := rfl

theorem exec_bypass (s : State) : exec .bypass s = .next (settled s (loadTap .bypass s)) := rfl

theorem exec_scanLoads (s : State) {x : Instr × TapInstr} (hx : x ∈ scanLoads) :
    exec x.1 s = .next (settled s (loadTap x.2 s)) := by
  simp only [scanLoads, List.mem_cons, List.not_mem_nil, or_false] at hx
  obtain rfl | rfl | rfl | rfl | rfl := hx <;> rfl

/-- The load of one of these commands puts boundary scan into the instruction register. -/
theorem boundaryScan_loadTap (s : State) {x : Instr × TapInstr} (hx : x ∈ scanLoads) : boundaryScan (loadTap x.2 s) = true :=
  (boundaryScan_iff _).mpr (List.mem_map_of_mem (f := Prod.snd) hx)

theorem exec_jobOpen (p : Packet) (a : JobOpenParams) (s : State) :
    exec (.jobOpen p a) s = .next (settled s (onLane (.jobOpen p a) p (doJobOpen p a) s)) := rfl

/-! ## JOB_OPEN during boundary scan -/

/-- The first numbered check of R306 fails under boundary scan, whatever the lane and the tenant. -/
theorem openDenied_of_boundaryScan {s : State} (p : Packet) (h : boundaryScan s = true) : openDenied s p = true := by
  simp [openDenied, h]

/-- A JOB_OPEN that passes its framing and the reset test and fails check 1 gets a plain ST_DENIED, and nothing else happens. -/
theorem doJobOpen_denied {s : State} {p : Packet} {a : JobOpenParams} (hpath : p.path ≠ .mgmt) (hserved : laneServed s p = true)
    (hframing : framingOk p = true) (hlen : paramLen p = 0x440) (hdescs : descCount p = 0)
    (htransition : answersTransition s p = false) (hdenied : openDenied s p = true) :
    doJobOpen p a s = plainReply p.lane p.tag .denied noFlags 0 0 s := by
  simp [doJobOpen, hpath, hserved, hframing, hlen, hdescs, htransition, hdenied]

/-- Settles O15: the load of each instruction, what the TAP then executes by whether it is boundary scan (log 105), and check 1 of
JOB_OPEN (log 17). -/
theorem tapInstructionsLoad : Obligations.TapInstructionsLoad := by
  unfold Obligations.TapInstructionsLoad
  refine ⟨?always, ?scan, ?jobOpen⟩
  case always =>
    exact fun s => ⟨exec_idcode s, exec_bypass s, tapActs_of_not_boundaryScan rfl, tapActs_of_not_boundaryScan rfl⟩
  case scan =>
    intro s x hx
    exact ⟨exec_scanLoads s hx, tapActs_of_boundaryScan (boundaryScan_loadTap s hx)⟩
  case jobOpen =>
    intro s t p a hdelivered hpath hserved hframing hlen hdescs htransition htap
    have hdenied : openDenied t p = true := openDenied_of_boundaryScan p ((boundaryScan_iff t).mpr htap)
    rw [exec_jobOpen, onLane_delivered _ hdelivered,
      doJobOpen_denied hpath hserved hframing hlen hdescs htransition hdenied]

end Sys2Proof.Machine
end

section
/-! Obligations O1 to O5: what a step runs, how every command ends, and what reset leaves. -/
namespace Sys2Proof.Machine

/-- A step that answers `t` ends as some command's end: settled from what the command made, or the idle block. -/
theorem step_cases {s t : State} (h : step s = .next t) : (s.pending = [] ∧ t = s) ∨ ∃ s0 u, t = settled s0 u := by
  unfold step at h
  split at h
  · next hp => exact .inl ⟨hp, (Host.Outcome.next.inj h).symm⟩
  · next c rest _ =>
    obtain ⟨u, hu⟩ := exec_finish c { s with pending := rest }
    rw [hu, finish_eq] at h
    exact .inr ⟨_, u, (Host.Outcome.next.inj h).symm⟩

/-- Settles O1: both clauses are the two branches of `step`. -/
theorem stepRunsTheFrontCommand : Obligations.StepRunsTheFrontCommand := by
  unfold Obligations.StepRunsTheFrontCommand
  refine ⟨fun s c rest => rfl, fun s hidle => ?_⟩
  simp [step, hidle]

/-- Settles O2: every meaning ends in `finish`, whose issue of NAND operations and dispatch change only their own fields. -/
theorem everyCommandAnswers : Obligations.EveryCommandAnswers := by
  unfold Obligations.EveryCommandAnswers
  intro i s
  obtain ⟨u, hu⟩ := exec_finish i s
  have hissue : IssueOnly { u with pending := s.pending } { issueNand u with pending := s.pending } := by
    have h := issueNand_issueOnly u
    unfold IssueOnly at *
    rw [h]
  exact ⟨u, hu, settled_pending s u, hissue, dispatchOnly_pending (pumpAll_dispatchOnly (issueNand u)) s.pending⟩

/-! ## Reset -/

/-- An engine that holds no queued unit has none to start. -/
theorem dispatchOne_none_of_empty {k : EngineKind} {s : State} (hl : (getEngine s k).lcq = []) (hb : (getEngine s k).beq = []) :
    dispatchOne k s = none := by
  rw [dispatchOne_none, chooseUnit_none, hl, hb]
  simp

/-- An engine of a row of idle engines, or the engine that stands for one beyond the row, has empty queues. -/
theorem replicate_idleEngine_queues (m n i : Nat) :
    (((List.replicate m (idleEngine n))[i]?).getD (idleEngine 0)).lcq = [] ∧
    (((List.replicate m (idleEngine n))[i]?).getD (idleEngine 0)).beq = [] := by
  rw [List.getElem?_replicate]
  split <;> exact ⟨rfl, rfl⟩

/-- At reset the queues of every engine are empty. -/
theorem reset_queues (k : EngineKind) : (getEngine State.reset k).lcq = [] ∧ (getEngine State.reset k).beq = [] := by
  cases k with
  | tile | codec | crypto | mover | control => exact ⟨rfl, rfl⟩
  | hasher n | rdma n | host n | splice n => exact replicate_idleEngine_queues _ _ n

/-- A channel without operations has none to issue. -/
theorem chooseNand_none_of_no_ops {s : State} (h : s.flash.ops = []) : chooseNand s = none := by
  simp [chooseNand, h, sortBy]

/-- Settles O3: at reset every queue is empty. -/
theorem noUnitWaitsAtReset : Obligations.NoUnitWaitsAtReset := by
  unfold Obligations.NoUnitWaitsAtReset
  exact ⟨fun k _ => dispatchOne_none_of_empty (reset_queues k).1 (reset_queues k).2, chooseNand_none_of_no_ops rfl⟩

/-- Settles O4: an idle block keeps what holds, and a command's end leaves nothing waiting whatever the command did. -/
theorem noUnitIsLeftWaiting : Obligations.NoUnitIsLeftWaiting := by
  unfold Obligations.NoUnitIsLeftWaiting
  refine ⟨fun s t hs ht => ?units, fun s t hs ht => ?nand⟩
  case units =>
    obtain ⟨-, rfl⟩ | ⟨s0, u, rfl⟩ := step_cases ht
    · exact hs
    · exact settled_noUnitWaits s0 u
  case nand =>
    obtain ⟨-, rfl⟩ | ⟨s0, u, rfl⟩ := step_cases ht
    · exact hs
    · exact settled_noNandWaits s0 u

/-- Settles O5: the fields of `State.reset` as the definitions give them. -/
theorem resetLeavesTheBlockIdle : Obligations.ResetLeavesTheBlockIdle := by
  unfold Obligations.ResetLeavesTheBlockIdle
  have hlports : ∀ l ∈ State.reset.net.lports, l.up = false := by
    intro l hl
    obtain ⟨n, -, rfl⟩ := List.mem_map.mp hl
    rfl
  refine ⟨rfl, rfl, rfl, rfl, rfl, rfl, rfl, rfl, rfl, rfl, rfl, rfl, hlports, ?links, ?windows, rfl⟩
  case links => simp [State.reset, State.cold]
  case windows => simp [State.reset, State.cold, emptyWindow]

end Sys2Proof.Machine
end

section
/-! Obligations O7 and O8: the keys of a chain of blocks, and pin handles. -/
namespace Sys2Proof.Machine

/-! ## Chains of block keys (R37, R38, R40, R74) -/

theorem length_chainKeys (s : State) (tenant t : Nat) : ∀ (n : Nat) (prev : BlockKey) (toks : List U64),
    (chainKeys s tenant t n prev toks).length = n
  | 0, _, _ => rfl
  | n + 1, prev, toks => by simp [chainKeys, length_chainKeys s tenant t n]

/-- The keys of `n` blocks are those of their `t * n` tokens. -/
theorem chainKeys_take_tokens (s : State) (tenant t : Nat) : ∀ (n : Nat) (prev : BlockKey) (toks : List U64),
    chainKeys s tenant t n prev (toks.take (t * n)) = chainKeys s tenant t n prev toks
  | 0, _, _ => rfl
  | n + 1, prev, toks => by
    have hfirst : (toks.take (t * (n + 1))).take t = toks.take t := by
      rw [List.take_take, Nat.min_eq_left (Nat.le_mul_of_pos_right t n.succ_pos)]
    have hrest : (toks.take (t * (n + 1))).drop t = (toks.drop t).take (t * n) := by
      rw [List.drop_take, Nat.mul_succ, Nat.add_sub_cancel]
    simp only [chainKeys, hfirst, hrest, chainKeys_take_tokens s tenant t n]

/-- A chain goes on from its last key, or from what it started from when it is empty. -/
theorem chainKeys_add (s : State) (tenant t n : Nat) : ∀ (m : Nat) (prev : BlockKey) (toks : List U64),
    chainKeys s tenant t (m + n) prev toks = chainKeys s tenant t m prev toks
      ++ chainKeys s tenant t n (((chainKeys s tenant t m prev toks).getLast?).getD prev) (toks.drop (t * m))
  | 0, prev, toks => by simp [chainKeys]
  | m + 1, prev, toks => by
    have hdrop : (toks.drop t).drop (t * m) = toks.drop (t * (m + 1)) := by
      rw [List.drop_drop, Nat.mul_succ, Nat.add_comm]
    rw [Nat.add_right_comm]
    simp only [chainKeys, chainKeys_add s tenant t n m, hdrop, List.cons_append, List.getLast?_cons, Option.getD_some]

/-- Settles O7: a chain depends on its own tokens, and a longer one is a shorter one continued. -/
theorem prefixesShareTheirKeys : Obligations.PrefixesShareTheirKeys := by
  unfold Obligations.PrefixesShareTheirKeys
  refine ⟨length_chainKeys, ?ownTokens, ?shorter, ?continued⟩
  case ownTokens =>
    intro s tenant t n prev a x y ha
    rw [← chainKeys_take_tokens, ← chainKeys_take_tokens s tenant t n prev (a ++ y), List.take_left' ha, List.take_left' ha]
  case shorter =>
    intro s tenant t m n prev toks hmn
    obtain ⟨k, rfl⟩ := Nat.exists_eq_add_of_le hmn
    rw [chainKeys_add, List.take_left' (length_chainKeys s tenant t m prev toks)]
  case continued =>
    intro s tenant t m n prev k toks hk
    rw [chainKeys_add, hk, Option.getD_some]

/-! ## Pin handles (Table 2.6, R54) -/

/-- The number that a pin handle spells, whose fields do not overlap. -/
theorem pinHandle_toNat {r : PinRecord} (hjob : r.job < 2 ^ 14) (hjobGen : r.jobGen < 2 ^ 6) (hrecord : r.record < 2 ^ 20)
    (hgen : r.gen < 2 ^ 24) : (pinHandle r).toNat = r.job * 2 ^ 50 + r.jobGen * 2 ^ 44 + r.record * 2 ^ 24 + r.gen := by
  rw [pinHandle, BitVec.toNat_ofNat, Nat.mod_eq_of_lt (by omega)]

theorem pinHandle_fields {r : PinRecord} (hjob : r.job < 2 ^ 14) (hjobGen : r.jobGen < 2 ^ 6) (hrecord : r.record < 2 ^ 20)
    (hgen : r.gen < 2 ^ 24) : handleJob (pinHandle r) = r.job ∧ handleJobGen (pinHandle r) = r.jobGen ∧
      handleRecord (pinHandle r) = r.record ∧ handleGen (pinHandle r) = r.gen := by
  simp only [handleJob, handleJobGen, handleRecord, handleGen, bitsOf, pinHandle_toNat hjob hjobGen hrecord hgen]
  omega

/-- A handle of another job, or of an earlier use of the job's index, is denied. -/
theorem resolvePin_other_job {s : State} {j : Job} {h : U64} (hne : handleJob h ≠ j.index ∨ handleJobGen h ≠ j.gen) :
    resolvePin s j h = .error .denied := by
  simp [resolvePin, hne]

/-- What a handle that resolves names. -/
theorem resolvePin_ok {s : State} {j : Job} {h : U64} {r : PinRecord} (hr : resolvePin s j h = .ok r) :
    r ∈ s.index.records ∧ r.job = j.index ∧ r.jobGen = j.gen ∧ r.record = handleRecord h ∧ r.gen = handleGen h ∧ r.released = false := by
  unfold resolvePin at hr
  split at hr
  · cases hr
  · split at hr
    · next x hx =>
      split at hr
      · next hown =>
        cases hr
        have hnamed := List.find?_some hx
        simp only [Bool.and_eq_true, beq_iff_eq, Bool.not_eq_true'] at hown hnamed
        exact ⟨List.mem_of_find?_eq_some hx, hown.1, hown.2, hnamed.1.1, hnamed.1.2, hnamed.2⟩
      · cases hr
    · cases hr

/-- A handle of the own job that names no live record is a bad parameter. -/
theorem resolvePin_no_record {s : State} {j : Job} {h : U64} (hjob : handleJob h = j.index) (hgen : handleJobGen h = j.gen)
    (hnone : ∀ r ∈ s.index.records, r.record = handleRecord h → r.gen = handleGen h → r.released = true) :
    resolvePin s j h = .error .badParam := by
  have hfind : (s.index.records.find? fun r => r.record == handleRecord h && r.gen == handleGen h && !r.released) = none := by
    simpa [List.find?_eq_none] using hnone
  simp [resolvePin, hjob, hgen, hfind]

/-- Settles O8: the fields by the handle's number, and each way that `resolvePin` can end. -/
theorem pinHandlesNameTheirRecord : Obligations.PinHandlesNameTheirRecord := by
  unfold Obligations.PinHandlesNameTheirRecord
  exact ⟨fun _ => pinHandle_fields, fun _ _ _ => resolvePin_other_job, fun _ _ _ _ => resolvePin_ok, fun _ _ _ => resolvePin_no_record⟩

end Sys2Proof.Machine
end

section
/-! Obligations O12, O13, O14, O33 and O34: the match array. -/
namespace Sys2Proof.Machine

/-! ## The dolly's events keep every bank in order (R104, R105) -/

/-- A change of some entries that moves none, and makes none valid, keeps the order. -/
theorem banksOrdered_updWhere {es : List MatchEntry} (p : MatchEntry → Bool) (f : MatchEntry → MatchEntry)
    (hf : ∀ x, (f x).bank = x.bank ∧ (f x).pos = x.pos ∧ (f x).priority = x.priority ∧ ((f x).valid = true → x.valid = true))
    (h : BanksOrdered es) : BanksOrdered (updWhere p f es) := by
  refine banksOrdered_map _ (fun x => ?_) h
  split
  · exact hf x
  · exact ⟨rfl, rfl, rfl, id⟩

theorem doDollyInsert_banksOrdered (sect : Nat) {s : State} (h : BanksOrdered s.marr.entries) :
    BanksOrdered (doDollyInsert sect s).marr.entries := by
  refine dollyStep_entries sect _ s _ h fun r g ss hr => ?_
  cases r with
  | insert ptr lo tenant pri hint => cases hr; exact insertEntry_banksOrdered ptr lo tenant pri hint h
  | sweep | repair | remove | hint => cases hr

theorem doDollyRemove_banksOrdered (sect : Nat) {s : State} (h : BanksOrdered s.marr.entries) :
    BanksOrdered (doDollyRemove sect s).marr.entries := by
  refine dollyStep_entries sect _ s _ h fun r g ss hr => ?_
  cases r with
  | remove ptr lo tenant => cases hr; exact banksOrdered_updWhere _ _ (fun x => ⟨rfl, rfl, rfl, fun hv => by cases hv⟩) h
  | sweep | repair | insert | hint => cases hr

theorem doDollyHint_banksOrdered (sect : Nat) {s : State} (h : BanksOrdered s.marr.entries) :
    BanksOrdered (doDollyHint sect s).marr.entries := by
  refine dollyStep_entries sect _ s _ h fun r g ss hr => ?_
  cases r with
  | hint ptr lo v => cases hr; exact banksOrdered_updWhere _ _ (fun x => ⟨rfl, rfl, rfl, id⟩) h
  | sweep | repair | insert | remove => cases hr

/-- The entries after a repair: its position rewritten, whatever half B says. -/
theorem doDollyRepair_banksOrdered (sect : Nat) {s : State} (h : BanksOrdered s.marr.entries) :
    BanksOrdered (doDollyRepair sect s).marr.entries := by
  refine dollyStep_entries sect _ s _ h fun r g ss hr => ?_
  cases r with
  | repair bank pos =>
    cases hr
    have hrewritten : BanksOrdered (updWhere (fun x => x.bank == bank && x.pos == pos) rewriteEntry s.marr.entries) :=
      banksOrdered_updWhere _ _ (fun x => ⟨rfl, rfl, rfl, fun hv => by cases hv⟩) h
    dsimp only
    split
    · exact hrewritten
    · split <;> exact hrewritten
  | sweep | hint | insert | remove => cases hr

/-- What a sweep leaves in the entries and the nodes. -/
theorem doTenantSweep_entries {t : BitVec 12} {s : State}
    (h : (s.marr.sections.any fun x => x.requests.contains (.sweep t.toNat)) = true) :
    (doTenantSweep t s).marr.entries = updWhere (fun e : MatchEntry => e.tenant == t.toNat) clearEntry s.marr.entries ∧
    (doTenantSweep t s).index.nodes
      = updWhere (fun m : Node => m.tenant == t.toNat) (fun m => { m with entryPresent := false }) s.index.nodes := by
  simp only [doTenantSweep, h, if_true, drainOutboxes_entries, drainOutboxes_nodes, and_self]

theorem doTenantSweep_banksOrdered (t : BitVec 12) {s : State} (h : BanksOrdered s.marr.entries) :
    BanksOrdered (doTenantSweep t s).marr.entries := by
  by_cases hs : (s.marr.sections.any fun x => x.requests.contains (.sweep t.toNat)) = true
  · rw [(doTenantSweep_entries hs).1]
    exact banksOrdered_updWhere _ _ (fun x => ⟨rfl, rfl, rfl, fun hv => by cases hv⟩) h
  · simpa only [doTenantSweep, if_neg hs] using h

/-- A step whose own effect keeps the banks in order leaves them in order. -/
theorem banksOrdered_of_settled {s u t : State} (h : BanksOrdered u.marr.entries) (ht : finish s u = .next t) :
    BanksOrdered t.marr.entries := by
  rw [finish_eq] at ht
  cases ht
  rwa [settled_marr]

/-- Settles O12: each of the five events keeps the order. -/
theorem banksStayInOrder : Obligations.BanksStayInOrder := by
  unfold Obligations.BanksStayInOrder
  have hreset : BanksOrdered State.reset.marr.entries := by
    intro x hx
    exact absurd hx List.not_mem_nil
  refine ⟨hreset, fun s t sect tenant h i hi ht => ?_⟩
  simp only [List.mem_cons, List.not_mem_nil, or_false] at hi
  obtain rfl | rfl | rfl | rfl | rfl := hi
  · exact banksOrdered_of_settled (doDollyInsert_banksOrdered sect h) ht
  · exact banksOrdered_of_settled (doDollyRemove_banksOrdered sect h) ht
  · exact banksOrdered_of_settled (doDollyHint_banksOrdered sect h) ht
  · exact banksOrdered_of_settled (doDollyRepair_banksOrdered sect h) ht
  · exact banksOrdered_of_settled (doTenantSweep_banksOrdered tenant h) ht

/-! ## Where an insertion puts its entry (R104, R105) -/

/-- Entries of `es` as an insertion at position `p` of bank `b` moves them: a valid one of the bank stays on its side of `p`, those
from `p` on ending behind it, and the other banks are as they were. -/
structure MovedAside (es : List MatchEntry) (b p : Nat) (moved : List MatchEntry) : Prop where
  source : ∀ y ∈ moved, y.valid = true → y.bank = b → ∃ z ∈ es, z.valid = true ∧ z.bank = b ∧ z.priority = y.priority ∧
    (y.pos < p → z.pos < p) ∧ (p < y.pos → p ≤ z.pos)
  others : ∀ y, y.bank ≠ b → (y ∈ moved ↔ y ∈ es)

/-- An entry overwritten in place moves none. -/
theorem movedAside_filter (es : List MatchEntry) (b p q : Nat) : MovedAside es b p (es.filter fun x => !(x.bank == b && x.pos == q)) where
  source y hy hv hb := ⟨y, (List.mem_filter.mp hy).1, hv, hb, rfl, id, Nat.le_of_lt⟩
  others y hb := by simp [hb]

/-- A shift by one place from `p` on. -/
theorem movedAside_shift (es : List MatchEntry) {b p last : Nat} (hp : p ≤ last + 1) :
    MovedAside es b p (shiftEntries es b p last) where
  source y hy hv hb := by
    obtain ⟨z, hz, hvz, hbank, hpri, ⟨hne, -⟩ | ⟨hzb, -, ⟨hle, -, rfl⟩ | ⟨-, rfl⟩⟩⟩ := mem_shiftEntries hp hy hv
    · exact absurd (hbank ▸ hb) hne
    · exact ⟨z, hz, hvz, hzb, rfl, fun h => by dsimp only at h; omega, fun _ => hle⟩
    · exact ⟨y, hz, hvz, hzb, rfl, id, Nat.le_of_lt⟩
  others y hb := by
    constructor
    · intro hy
      obtain ⟨z, hz, hzy⟩ := List.mem_map.mp hy
      split at hzy
      · next hc =>
        subst hzy
        simp only [Bool.and_eq_true, beq_iff_eq] at hc
        exact absurd hc.1.1.1 hb
      · exact hzy ▸ (List.mem_filter.mp hz).1
    · intro hy
      exact List.mem_map.mpr ⟨y, List.mem_filter.mpr ⟨hy, by simp [hb]⟩, by simp [hb]⟩

/-- The entry that an insertion writes at its place. -/
def insertedEntry (es : List MatchEntry) (ptr : Nat) (lo : U64) (tenant pri hint : Nat) : MatchEntry :=
  writeEntry { bank := bankOf lo, pos := insertPos es (bankOf lo) pri, valid := true, priority := pri, tenant := tenant, keyLo := lo,
               nodePtr := ptr, tierHint := hint, parityA := false, parityB := false }

/-- An insertion into a bank with room writes its entry and moves others aside. -/
theorem insertEntry_entries {s : State} {ptr : Nat} {lo : U64} {tenant pri hint : Nat}
    (hbank : s.marr.absent.contains (bankOf lo) = false) (hroom : insertPos s.marr.entries (bankOf lo) pri < 256) :
    ∃ moved, MovedAside s.marr.entries (bankOf lo) (insertPos s.marr.entries (bankOf lo) pri) moved ∧
      (insertEntry ptr lo tenant pri hint s).marr.entries = insertedEntry s.marr.entries ptr lo tenant pri hint :: moved := by
  unfold insertEntry
  simp only [hbank, Bool.false_or, decide_eq_true_eq, if_neg (Nat.not_le.mpr hroom)]
  split
  · next h hhole =>
    have hge := List.find?_some hhole
    simp only [Bool.and_eq_true, decide_eq_true_eq] at hge
    split
    · exact ⟨_, movedAside_filter _ _ _ _, rfl⟩
    · exact ⟨_, movedAside_shift _ (by omega), rfl⟩
  · refine ⟨_, ?_, by split <;> rfl⟩
    split
    · exact movedAside_filter _ _ _ _
    · exact movedAside_shift _ (by omega)

/-- The state in which a section has taken a request off its queue. -/
def requestTaken (sect : Nat) (r : DollyReq) (s : State) : State :=
  { s with marr := { s.marr with
      sections := updWhere (fun y : Section => y.num == sect) (fun y => { y with requests := y.requests.erase r }) s.marr.sections } }

/-- An event whose section's next request it takes: the request's effect, after which the outboxes move up. -/
theorem dollyStep_next {sect : Nat} {f : DollyReq → Option (State → State)} {s : State} {x : Section} {r : DollyReq}
    {g : State → State} (hx : findSection s sect = some x) (hr : dollyNext x.requests = some r) (hg : f r = some g) :
    dollyStep sect f s = drainOutboxes (g (requestTaken sect r s)) := by
  simp only [dollyStep, hx, Option.bind_some, hr, hg, requestTaken]

/-- Settles O13: the new entry splits what the insertion moved aside, since its position split the bank before. -/
theorem insertionSplitsItsBank : Obligations.InsertionSplitsItsBank := by
  unfold Obligations.InsertionSplitsItsBank
  intro s t sect x ptr lo tenant pri hint hordered hx hr hbank hroom ht
  obtain ⟨moved, hmoved, hentries⟩ := insertEntry_entries (ptr := ptr) (tenant := tenant) (hint := hint)
    (s := requestTaken sect (.insert ptr lo tenant pri hint) s) hbank hroom
  have hte : t.marr.entries = insertedEntry s.marr.entries ptr lo tenant pri hint :: moved := by
    have hstep : exec (.dollyInsert sect) s = finish s (doDollyInsert sect s) := rfl
    rw [hstep, finish_eq] at ht
    cases ht
    rw [settled_marr, doDollyInsert, dollyStep_next hx hr rfl, drainOutboxes_entries]
    exact hentries
  rw [hte]
  have hsplits := fun (z : MatchEntry) (hz : z ∈ s.marr.entries) (hv : z.valid = true) (hb : z.bank = bankOf lo) =>
    insertPos_splits (pri := pri) hordered hz hv hb
  refine ⟨_, List.mem_cons_self, rfl, rfl, rfl, rfl, rfl, rfl, rfl, ?before, ?behind, ?others⟩
  case before =>
    intro y hy hv hb hlt
    rcases List.mem_cons.mp hy with rfl | hy
    · exact absurd hlt (Nat.lt_irrefl _)
    · obtain ⟨z, hz, hvz, hzb, hpri, hbefore, -⟩ := hmoved.source y hy hv hb
      exact hpri ▸ (hsplits z hz hvz hzb).1 (hbefore hlt)
  case behind =>
    intro y hy hv hb hlt
    rcases List.mem_cons.mp hy with rfl | hy
    · exact absurd hlt (Nat.lt_irrefl _)
    · obtain ⟨z, hz, hvz, hzb, hpri, -, hbehind⟩ := hmoved.source y hy hv hb
      exact hpri ▸ (hsplits z hz hvz hzb).2 (hbehind hlt)
  case others =>
    intro y hb
    have hne : y ≠ insertedEntry s.marr.entries ptr lo tenant pri hint := fun h => hb (h ▸ rfl)
    rw [List.mem_cons, or_iff_right hne]
    exact hmoved.others y hb

/-! ## The winner of a search (R101, R104) -/

theorem entryMatches_valid {q : Probe} {e : MatchEntry} (h : entryMatches q e = true) : e.valid = true ∧ e.bank = bankOf q.keyLo := by
  simp only [entryMatches, Bool.and_eq_true, beq_iff_eq] at h
  exact h.1.1.1

/-- Settles O14: the winner stands at the lowest position of its bank, which in an ordered bank is the highest PRIORITY. -/
theorem probesFindTheHighestPriority : Obligations.ProbesFindTheHighestPriority := by
  unfold Obligations.ProbesFindTheHighestPriority
  intro s q hordered
  have hspec := searchBank_spec s q
  refine ⟨fun hnone => by rwa [hnone] at hspec, fun e he => ?_⟩
  rw [he] at hspec
  obtain ⟨hmem, hmatch, hlowest⟩ := hspec
  refine ⟨hmem, hmatch, fun x hx hxm => ⟨?_, fun _ => hlowest x hx hxm⟩⟩
  obtain ⟨hv, hb⟩ := entryMatches_valid hmatch
  obtain ⟨hxv, hxb⟩ := entryMatches_valid hxm
  obtain ⟨-, hsame, hbehind⟩ := hordered e hmem x hx hv hxv (hb.trans hxb.symm)
  rcases Nat.eq_or_lt_of_le (hlowest x hx hxm) with heq | hlt
  · exact Nat.le_of_eq (congrArg (·.priority) (hsame heq).symm)
  · exact hbehind hlt

/-! ## Requests, probes and sweeps -/

/-- A repair at a position that holds a valid entry. -/
theorem doDollyRepair_next {sect : Nat} {s : State} {x : Section} {bank pos : Nat} {e : MatchEntry} (hx : findSection s sect = some x)
    (hr : dollyNext x.requests = some (.repair bank pos)) (he : entryAtPos s.marr.entries bank pos = some e) :
    doDollyRepair sect s = drainOutboxes
      (let t := requestTaken sect (.repair bank pos) s
      let u := countFault 7 1 { t with marr := { t.marr with
        repaired := (physBank s bank, pos) :: s.marr.repaired,
        entries := updWhere (fun x => x.bank == bank && x.pos == pos) rewriteEntry s.marr.entries } }
      if halfBOk e then dollyReport (.repaired e.nodePtr bank (tagLo e.keyLo)) u else u) := by
  rw [doDollyRepair, dollyStep_next hx hr rfl]
  have he' : entryAtPos (requestTaken sect (.repair bank pos) s).marr.entries bank pos = some e := he
  simp only [he']
  rfl

section Probe
variable {s t : State} {sect : Nat} {x : Section} {q : Probe} {rest : List Probe} {upsetsA upsetsB : List (Nat × Nat)}
  (hx : s.marr.sections.find? (fun x => x.num == sect) = some x) (hp : x.probes = q :: rest)
  (ht : t = upsetBank (bankOf q.keyLo) (halfUpsets upsetsA upsetsB) { s with marr := { s.marr with
    sections := updWhere (fun y : Section => y.num == sect) (fun y => { y with probes := rest }) s.marr.sections } })
include hx hp ht

/-- The first queued probe in its bank as upsets have left it. -/
theorem doMatchProbeResult_front : doMatchProbeResult sect upsetsA upsetsB s = advanceRuns
    (if t.marr.absent.contains (bankOf q.keyLo) then probeResult q.run q.block none t
      else match searchBank t q with
        | none => probeResult q.run q.block none t
        | some e =>
          if halfAOk e && halfBOk e then
            probeResult q.run q.block (some { ptr := e.nodePtr, priority := e.priority, hint := e.tierHint }) t
          else probeResult q.run q.block none (parityError e.bank e.pos t)) := by
  subst ht
  simp only [doMatchProbeResult, hx, hp] <;> rfl

/-- An absent bank and one without a match both miss. -/
theorem doMatchProbeResult_miss (hmiss : t.marr.absent.contains (bankOf q.keyLo) = true ∨ searchBank t q = none) :
    doMatchProbeResult sect upsetsA upsetsB s = advanceRuns (probeResult q.run q.block none t) := by
  rw [doMatchProbeResult_front hx hp ht]
  rcases hmiss with habsent | hnone
  · rw [if_pos habsent]
  · simp [hnone]

/-- A winner both of whose halves pass is what the probe answers. -/
theorem doMatchProbeResult_hit {e : MatchEntry} (hbank : t.marr.absent.contains (bankOf q.keyLo) = false) (he : searchBank t q = some e)
    (ha : halfAOk e = true) (hb : halfBOk e = true) : doMatchProbeResult sect upsetsA upsetsB s
      = advanceRuns (probeResult q.run q.block (some { ptr := e.nodePtr, priority := e.priority, hint := e.tierHint }) t) := by
  rw [doMatchProbeResult_front hx hp ht, if_neg (Bool.eq_false_iff.mp hbank)]
  simp [he, ha, hb]

/-- A winner of which a half fails its parity misses, and is repaired. -/
theorem doMatchProbeResult_badParity {e : MatchEntry} (hbank : t.marr.absent.contains (bankOf q.keyLo) = false)
    (he : searchBank t q = some e) (hbad : halfAOk e = false ∨ halfBOk e = false) : doMatchProbeResult sect upsetsA upsetsB s
      = advanceRuns (probeResult q.run q.block none (parityError e.bank e.pos t)) := by
  have hboth : (halfAOk e && halfBOk e) = false := Bool.and_eq_false_iff.mpr hbad
  rw [doMatchProbeResult_front hx hp ht, if_neg (Bool.eq_false_iff.mp hbank)]
  simp [he, hboth]

end Probe

/-- Settles O33: each request by the dolly's step, the probe by what its search finds, the sweep by what it leaves. -/
theorem matchArrayServesRequests : Obligations.MatchArrayServesRequests := by
  unfold Obligations.MatchArrayServesRequests
  refine ⟨?requests, ?probes, ?sweep⟩
  case requests =>
    intro s sect x r hx hr
    refine ⟨?_, ?_, ?_, ?_⟩
    · rintro ptr lo tenant pri hint rfl
      exact finish_of_eq (by rw [doDollyInsert, dollyStep_next hx hr rfl]; rfl)
    · rintro ptr lo tenant rfl
      exact finish_of_eq (by rw [doDollyRemove, dollyStep_next hx hr rfl]; rfl)
    · rintro ptr lo h rfl
      exact finish_of_eq (by rw [doDollyHint, dollyStep_next hx hr rfl]; rfl)
    · rintro bank pos e u rfl he rfl
      exact finish_of_eq (doDollyRepair_next hx hr he)
  case probes =>
    intro s sect x q rest hx hp upsetsA upsetsB t ht
    refine ⟨fun hmiss => finish_of_eq (doMatchProbeResult_miss hx hp ht hmiss), fun e hbank he => ⟨fun ha hb => ?_, fun hbad => ?_⟩⟩
    · exact finish_of_eq (doMatchProbeResult_hit hx hp ht hbank he ha hb)
    · exact finish_of_eq (doMatchProbeResult_badParity hx hp ht hbank he hbad)
  case sweep =>
    intro s tenant h
    obtain ⟨hentries, hnodes⟩ := doTenantSweep_entries h
    exact ⟨settled s (doTenantSweep tenant s), rfl, by rw [settled_marr, hentries], by rw [settled_index, hnodes]⟩

/-! ## Reports, refills and the scan (R112 to R119) -/

/-- An invalidated entry's node leaves the index once it is dying and no removal of it is due. -/
theorem doDollyReport_invalidated {s u : State} {rest : List DollyReport} {ptr : Nat} {n : Node}
    (hreports : s.marr.reports = .invalidated ptr :: rest)
    (hu : u = setNode ptr (fun n => { n with entryPresent := false }) { s with marr := { s.marr with reports := rest } })
    (hn : findNode u ptr = some n) : doDollyReport s = if n.dying && !removeDue u ptr then freeNode ptr u else u := by
  subst hu
  simp only [doDollyReport, hreports, hn, Option.map_some, Option.getD_some]

theorem findSliver_num (s : State) (n : Nat) : (findSliver s n).num = n := by
  unfold findSliver
  cases h : s.index.slivers.find? fun v => v.num == n with
  | none => rfl
  | some v =>
    have hnum := List.find?_some h
    exact beq_iff_eq.mp hnum

/-- The core just stored is the one found. -/
theorem findSliver_putSliver (v : Sliver) (s : State) : findSliver (putSliver v s) v.num = v := by
  simp [findSliver, putSliver]

theorem askInsert_requestsOnly (n : Node) (s : State) : RequestsOnly s (askInsert n s) := issueDolly_requestsOnly _ _ s

/-- Moving requests leaves the record of which slivers were refilled. -/
theorem RequestsOnly.refilled {s t : State} (h : RequestsOnly s t) : t.marr.refilled = s.marr.refilled := by
  obtain ⟨_, _, _, rfl⟩ := h
  rfl

/-- A refill that its window has room for asks for all of its nodes. -/
theorem doMatchArrayRefill_all {s : State} {n : Nat} {asked : List Node} (hstate : 3 ≤ deviceState s) (htrans : s.sec.transition = false)
    (honce : s.marr.refilled.contains n = false)
    (hasked : asked = sortBy (fun a b => decide (valueOf s b < valueOf s a) || (valueOf s a == valueOf s b && decide (a.insertSeq < b.insertSeq)))
        (s.index.nodes.filter fun m => sliverOf m.key == n && usable s m.tenant 15 m && !m.dying && !entryDue s m))
    (hroom : asked.length ≤ 256 - (findSliver s n).refills) :
    doMatchArrayRefill n s =
      let s1 := asked.foldl (fun t m => askInsert m t) s
      let s2 := putSliver { findSliver s1 n with refills := (findSliver s n).refills + asked.length } s1
      { s2 with marr := { s2.marr with refilled := n :: s2.marr.refilled } } := by
  subst hasked
  simp only [doMatchArrayRefill, Nat.not_lt.mpr hstate, htrans, honce, decide_false, Bool.or_self, Bool.false_eq_true, if_false,
    List.take_of_length_le hroom, Nat.min_eq_right hroom, if_pos hroom]

/-- A refill asks through the outboxes, counts what it asked for and is noted as done. -/
theorem refill_effects {s t : State} {n k : Nat} {asked : List Node}
    (ht : t = (let s1 := asked.foldl (fun t m => askInsert m t) s
      let s2 := putSliver { findSliver s1 n with refills := k } s1
      { s2 with marr := { s2.marr with refilled := n :: s2.marr.refilled } })) :
    t.marr.refilled = n :: s.marr.refilled ∧ t.marr.sections = (asked.foldl (fun t m => askInsert m t) s).marr.sections ∧
      (findSliver t n).refills = k ∧ (findSliver t n).outbox = (findSliver (asked.foldl (fun t m => askInsert m t) s) n).outbox := by
  have hasks := foldl_requestsOnly _ (fun s m => askInsert_requestsOnly m s) asked s
  generalize asked.foldl (fun t m => askInsert m t) s = s1 at ht hasks ⊢
  have hfind : findSliver t n = { findSliver s1 n with refills := k } := by
    have h := findSliver_putSliver { findSliver s1 n with refills := k } s1
    rw [findSliver_num] at h
    rw [ht]
    exact h
  refine ⟨?_, by rw [ht]; rfl, by rw [hfind], by rw [hfind]⟩
  rw [ht, ← hasks.refilled]
  rfl

theorem findSliver_settled (s u : State) (n : Nat) : findSliver (settled s u) n = findSliver u n := by
  simp only [findSliver, settled_index]

/-- From step 9 on the scan checks its position and goes on to the next. -/
theorem doContinuityScan_running {s t : State} {upsets : List (Nat × Nat × Nat)} (hstep : 9 ≤ s.power.step)
    (ht : t = (badAt (upsetAll upsets s) s.marr.scanPos).foldl (fun u e => scanError e u) (upsetAll upsets s)) :
    doContinuityScan upsets s = { t with marr := { t.marr with scanPos := (s.marr.scanPos + 1) % 256 } } := by
  subst ht
  simp only [doContinuityScan, if_neg (Nat.not_lt.mpr hstep)]

/-- Settles O34: each report by its kind, the refill by what it asks for, the scan by its position. -/
theorem matchArrayKeepsItself : Obligations.MatchArrayKeepsItself := by
  unfold Obligations.MatchArrayKeepsItself
  refine ⟨?reports, ?refill, ?scan⟩
  case reports =>
    intro s r rest hreports
    refine ⟨?valid, ?dropped, ?displaced, ?invalidated, ?repaired⟩
    case valid =>
      rintro ptr rfl
      exact finish_of_eq (by simp only [doDollyReport, hreports])
    case dropped =>
      rintro ptr (rfl | rfl) <;> exact finish_of_eq (by simp only [doDollyReport, hreports])
    case displaced =>
      rintro ptr rfl
      exact finish_of_eq (by simp only [doDollyReport, hreports])
    case invalidated =>
      rintro ptr n u rfl hu hn
      have hreport := doDollyReport_invalidated hreports hu hn
      refine ⟨fun hstays => finish_of_eq (hreport.trans (if_neg ?_)), fun hdying hdue => finish_of_eq (hreport.trans (if_pos ?_))⟩
      · rcases hstays with h | h <;> simp [h]
      · simp [hdying, hdue]
    case repaired =>
      rintro ptr bank tag rfl
      exact finish_of_eq (by simp only [doDollyReport, hreports])
  case refill =>
    intro s n asked hstate htrans honce hasked hroom
    obtain ⟨hrefilled, hsections, hrefills, houtbox⟩ := refill_effects (doMatchArrayRefill_all hstate htrans honce hasked hroom)
    refine ⟨settled s (doMatchArrayRefill n s), rfl, ?_, ?_, ?_, ?_⟩
    · rw [settled_marr, hrefilled]
    · rw [settled_marr, hsections]
    · rw [findSliver_settled, hrefills]
    · rw [findSliver_settled, houtbox]
  case scan =>
    intro s t upsets hstep ht
    exact finish_of_eq (doContinuityScan_running hstep ht)

end Sys2Proof.Machine
end

section
/-! Obligations O10, O11 and O16 to O19: the landing region, the host windows, and what a host port answers. -/
namespace Sys2Proof.Machine

/-! ## What the transport of a queue pair may change -/

/-- Nothing but what is sent and the network's own state differs. -/
def TransportOnly (s t : State) : Prop := t = { s with out := t.out, net := t.net }

theorem TransportOnly.refl (s : State) : TransportOnly s s := rfl

theorem TransportOnly.trans {s t u : State} (h : TransportOnly s t) (h2 : TransportOnly t u) : TransportOnly s u := by
  unfold TransportOnly at *
  rw [h2, h]

theorem emit_transportOnly (o : Output) (s : State) : TransportOnly s (emit o s) := rfl
theorem setQp_transportOnly (qpn : Nat) (f : Qp → Qp) (s : State) : TransportOnly s (setQp qpn f s) := rfl
theorem countPort_transportOnly (p i n : Nat) (s : State) : TransportOnly s (countPort p i n s) := rfl
theorem touchQp_transportOnly (qpn : Nat) (s : State) : TransportOnly s (touchQp qpn s) := rfl

theorem noteCe_transportOnly (h : Bth) (s : State) : TransportOnly s (noteCe h s) := by
  unfold noteCe
  dsimp only
  split
  · exact .refl s
  · split <;> rfl

theorem needContext_transportOnly (qpn : Nat) (s : State) : TransportOnly s (needContext qpn s) := by
  unfold needContext
  split
  · exact .refl s
  · split <;> rfl

/-- Whether a packet is dropped, held or goes on, only the transport notices. -/
theorem rcEnter_transportOnly (i : Instr) (h : Bth) (bytes : Nat) (s : State) : TransportOnly s (rcEnter i h bytes s).1 := by
  unfold rcEnter
  split
  · exact .refl s
  · split
    · exact countPort_transportOnly _ _ _ s
    · split
      · exact countPort_transportOnly _ _ _ s
      · split
        · exact .refl s
        · have hentered := (touchQp_transportOnly h.qpn s).trans (noteCe_transportOnly h _)
          dsimp only
          split
          · exact hentered
          · split
            · exact hentered.trans ((setQp_transportOnly _ _ _).trans (needContext_transportOnly _ _))
            · exact hentered.trans (countPort_transportOnly _ _ _ _)

theorem sendAck_transportOnly (qpn : Nat) (s : State) : TransportOnly s (sendAck qpn s) := by
  unfold sendAck
  split <;> rfl

theorem advancePsn_transportOnly (qpn n : Nat) (s : State) : TransportOnly s (advancePsn qpn n s) := by
  unfold advancePsn
  dsimp only
  split
  · exact (setQp_transportOnly _ _ s).trans (sendAck_transportOnly _ _)
  · exact setQp_transportOnly _ _ s

theorem sendNak_transportOnly (h : Bth) (psn : BitVec 24) (k : Nak) (s : State) : TransportOnly s (sendNak h psn k s) := by
  unfold sendNak
  cases k <;> rfl

/-- The PSN check ends in the transport, or hands what it leaves to the request's own effect. -/
theorem rcAccept_cases {h : Bth} {n : Nat} {refuse : Option Nak} {again k : State → State} (hagain : ∀ s, TransportOnly s (again s))
    (s : State) : TransportOnly s (rcAccept h n refuse again k s) ∨ ∃ u, TransportOnly s u ∧ rcAccept h n refuse again k s = k u := by
  unfold rcAccept
  split
  · exact .inl (.refl s)
  · dsimp only
    split
    · split
      · exact .inl (sendNak_transportOnly _ _ _ s)
      · exact .inr ⟨_, advancePsn_transportOnly _ _ s, rfl⟩
    · split
      · split
        · exact .inl (.refl s)
        · exact .inl ((setQp_transportOnly _ _ s).trans (sendNak_transportOnly _ _ _ _))
      · exact .inl (hagain s)

/-! ## RDMA WRITE (R347, R348) -/

/-- A WRITE, wherever it ends, leaves the landing region as it was or with its data stored. -/
theorem rdmaWrite_landing (h : Bth) (rkey : U32) (addr : U64) (data : List Byte) (s : State) :
    (receive (.rdmaWriteReceived h rkey addr data) h data.length (doRdmaWrite h rkey addr data) s).tiers.landingMem = s.tiers.landingMem
    ∨ (receive (.rdmaWriteReceived h rkey addr data) h data.length (doRdmaWrite h rkey addr data) s).tiers.landingMem
      = memWrite addr.toNat data s.tiers.landingMem := by
  have henter := rcEnter_transportOnly (.rdmaWriteReceived h rkey addr data) h data.length s
  unfold receive
  split
  · next s1 he =>
    have hs1 : TransportOnly s s1 := by rw [he] at henter; exact henter
    exact .inl (by rw [hs1])
  · next s1 he =>
    have hs1 : TransportOnly s s1 := by rw [he] at henter; exact henter
    obtain hend | ⟨u, hu, heq⟩ := rcAccept_cases (h := h) (n := rcPackets s1 h.qpn data.length)
      (refuse := landingNak s1 h.qpn rkey addr.toNat data.length) (k := placeData addr.toNat data) (sendAck_transportOnly h.qpn) s1
    · exact .inl (by rw [doRdmaWrite, hs1.trans hend])
    · exact .inr (by rw [doRdmaWrite, heq, hs1.trans hu]; rfl)

/-- A WRITE that enters in turn with a good key and grant places its data, once its PSNs are used. -/
theorem receive_write_inTurn {s t : State} {h : Bth} {rkey : U32} {addr : U64} {data : List Byte}
    (hturn : InTurn (.rdmaWriteReceived h rkey addr data) h data.length s t)
    (hok : landingOk t h.qpn rkey addr.toNat data.length = true) :
    receive (.rdmaWriteReceived h rkey addr data) h data.length (doRdmaWrite h rkey addr data) s
      = placeData addr.toNat data (advancePsn h.qpn (rcPackets t h.qpn data.length) t) := by
  obtain ⟨henter, q, hq, hpsn⟩ := hturn
  have hnak : landingNak t h.qpn rkey addr.toNat data.length = none := if_pos hok
  rw [receive, henter]
  show rcAccept h _ (landingNak t h.qpn rkey addr.toNat data.length) _ _ t = _
  rw [hnak]
  exact rcAccept_in_turn hq hpsn

theorem placeData_landingMem (addr : Nat) (data : List Byte) (s : State) :
    (placeData addr data s).tiers.landingMem = memWrite addr data s.tiers.landingMem := rfl

/-- Settles O10: the transport touches no memory and no table, and the placed bytes read back. -/
theorem landingWritesStoreTheirBytes : Obligations.LandingWritesStoreTheirBytes := by
  unfold Obligations.LandingWritesStoreTheirBytes
  intro s t u h rkey addr data hturn hok hu
  have hexec : exec (.rdmaWriteReceived h rkey addr data) s
      = finish s (receive (.rdmaWriteReceived h rkey addr data) h data.length (doRdmaWrite h rkey addr data) s) := rfl
  rw [hexec, receive_write_inTurn hturn hok, finish_eq] at hu
  cases hu
  have htransport : TransportOnly s (advancePsn h.qpn (rcPackets t h.qpn data.length) t) := by
    have henter := rcEnter_transportOnly (.rdmaWriteReceived h rkey addr data) h data.length s
    rw [hturn.1] at henter
    exact henter.trans (advancePsn_transportOnly _ _ t)
  rw [htransport]
  refine ⟨fun x => ?_, settled_jobs_table _ _, settled_index _ _, settled_host _ _, settled_cfg _ _, settled_persist _ _⟩
  rw [settled_tiers, placeData_landingMem, memRead_memWrite]

/-! ## Host windows -/

theorem findWindow_settled (s u : State) (port : Nat) : findWindow (settled s u) port = findWindow u port := by
  simp only [findWindow, settled_host]

/-- A port with a backed line has its window. -/
theorem window_isSome_of_lineBacked {s : State} {port line : Nat} (h : lineBacked (findWindow s port) line = true) :
    (s.host.windows.find? fun w => w.port == port).isSome = true := by
  cases hw : s.host.windows.find? fun w => w.port == port with
  | some w => rfl
  | none =>
    rw [findWindow, hw] at h
    simp [lineBacked, emptyWindow] at h

theorem findWindow_setWindow_self {s : State} {port : Nat} {f : HostWindow → HostWindow} (hf : ∀ w, (f w).port = w.port)
    (hw : (s.host.windows.find? fun w => w.port == port).isSome = true) :
    findWindow (setWindow port f s) port = f (findWindow s port) := by
  obtain ⟨w, hw⟩ := Option.isSome_iff_exists.mp hw
  have hfind : (setWindow port f s).host.windows.find? (fun w => w.port == port) = some (f w) := by
    rw [← Option.map_some, ← hw]
    exact find?_updWhere _ f (fun x hx => by rwa [hf x]) _
  rw [findWindow, findWindow, hfind, hw, Option.getD_some, Option.getD_some]

theorem findWindow_setWindow_ne {s : State} {port p : Nat} {f : HostWindow → HostWindow} (hf : ∀ w, (f w).port = w.port)
    (hp : p ≠ port) : findWindow (setWindow port f s) p = findWindow s p := by
  have hother : ∀ n, n = port → (n == p) = false := fun n hn => by simpa [hn] using Ne.symm hp
  have hfind : (setWindow port f s).host.windows.find? (fun w => w.port == p) = s.host.windows.find? fun w => w.port == p :=
    find?_updWhere_of_ne _ _ f (fun x hx => hother _ (beq_iff_eq.mp hx)) (fun x hx => by rw [hf x]; exact hother _ (beq_iff_eq.mp hx)) _
  rw [findWindow, findWindow, hfind]

/-! ## A CXL.mem write (R383) -/

/-- What a stored, enabled byte of the first `n` of a line reads as, and every other byte. -/
theorem memRead_foldl_writeLine (line : Nat) (data : List Byte) (enables : List Bool) (m : List Host.Cell) (a : Nat) : ∀ n : Nat,
    memRead ((List.range n).foldl (fun m i => if enables.getD i false then memPut (64 * line + i) (data.getD i 0) m else m) m) a
      = if 64 * line ≤ a ∧ a < 64 * line + n ∧ enables.getD (a - 64 * line) false = true then data.getD (a - 64 * line) 0
        else memRead m a
  | 0 => by rw [if_neg (by omega)]; rfl
  | n + 1 => by
    rw [List.range_succ, List.foldl_append, List.foldl_cons, List.foldl_nil]
    have ih := memRead_foldl_writeLine line data enables m a n
    by_cases ha : a = 64 * line + n
    · subst ha
      rw [if_neg (by omega)] at ih
      have hrange : 64 * line ≤ 64 * line + n ∧ 64 * line + n < 64 * line + (n + 1) := by omega
      by_cases he : enables.getD n false = true
      · rw [if_pos he, memRead_memPut, if_pos rfl, Nat.add_sub_cancel_left, if_pos ⟨hrange.1, hrange.2, he⟩]
      · rw [if_neg he, ih, Nat.add_sub_cancel_left, if_neg (fun h => he h.2.2)]
    · have hput : memRead (memPut (64 * line + n) (data.getD n 0) ((List.range n).foldl (fun m i =>
          if enables.getD i false then memPut (64 * line + i) (data.getD i 0) m else m) m)) a
          = memRead ((List.range n).foldl (fun m i =>
          if enables.getD i false then memPut (64 * line + i) (data.getD i 0) m else m) m) a := by
        rw [memRead_memPut, if_neg ha]
      have hsame : (64 * line ≤ a ∧ a < 64 * line + (n + 1) ∧ enables.getD (a - 64 * line) false = true)
          ↔ (64 * line ≤ a ∧ a < 64 * line + n ∧ enables.getD (a - 64 * line) false = true) := by
        constructor
        · exact fun h => ⟨h.1, by omega, h.2.2⟩
        · exact fun h => ⟨h.1, by omega, h.2.2⟩
      rw [ite_congr (propext hsame) (fun _ => rfl) (fun _ => rfl), ← ih]
      split
      · exact hput
      · rfl

theorem memRead_writeLine (line : Nat) (data : List Byte) (enables : List Bool) (m : List Host.Cell) (a : Nat) :
    memRead (writeLine line data enables m) a
      = if 64 * line ≤ a ∧ a < 64 * line + 64 ∧ enables.getD (a - 64 * line) false = true then data.getD (a - 64 * line) 0
        else memRead m a :=
  memRead_foldl_writeLine line data enables m a 64

/-- A window after a write to one of its lines. -/
def lineWritten (line : Nat) (data : List Byte) (enables : List Bool) (grant : LineState) (w : HostWindow) : HostWindow :=
  grantLine line grant
    { w with mem := writeLine line data enables w.mem,
             poisoned := if (List.range 64).all (fun i => enables.getD i false) then w.poisoned.filter (fun l => l != line)
               else w.poisoned }

/-- A write to a backed, unfenced line. -/
theorem exec_cxlMemWrite_stored {s : State} {port line : Nat} {data : List Byte} {enables : List Bool} {grant : LineState}
    (hserved : cxlServed s port = true) (hbacked : lineBacked (findWindow s port) line = true)
    (hfence : lineFenced (findWindow s port) line = false) : exec (.cxlMemWrite port line data enables grant) s
      = .next (settled s (emit (.cxlWriteDone port line) (setWindow port (lineWritten line data enables grant) s))) :=
  finish_of_eq (by simp only [hserved, hbacked, hfence, Bool.not_true, Bool.false_eq_true, if_false]; rfl)

/-- Settles O19: the stored line reads back by its enables, and no other window is touched. -/
theorem cxlWriteStoresEnabledBytes : Obligations.CxlWriteStoresEnabledBytes := by
  unfold Obligations.CxlWriteStoresEnabledBytes
  intro s t port line data enables grant hserved hbacked hfence ht
  rw [exec_cxlMemWrite_stored hserved hbacked hfence] at ht
  cases ht
  refine ⟨fun a => ?bytes, fun p hp => ?others, by rw [settled_tiers]; rfl, by rw [settled_index]; rfl, by rw [settled_cfg]; rfl⟩
  case bytes =>
    have hwindow : findWindow (emit (.cxlWriteDone port line) (setWindow port (lineWritten line data enables grant) s)) port
        = lineWritten line data enables grant (findWindow s port) :=
      findWindow_setWindow_self (fun _ => rfl) (window_isSome_of_lineBacked hbacked)
    rw [findWindow_settled, hwindow]
    exact memRead_writeLine line data enables (findWindow s port).mem a
  case others =>
    rw [findWindow_settled]
    exact findWindow_setWindow_ne (fun _ => rfl) hp

/-! ## The canonical form of both memories -/

/-- A change of a window that keeps the form of its memory keeps that of every window. -/
theorem setWindow_wf {s : State} {port : Nat} {f : HostWindow → HostWindow}
    (hf : ∀ w, Memory.wf w.mem = true → Memory.wf (f w).mem = true) (h : ∀ w ∈ s.host.windows, Memory.wf w.mem = true) :
    ∀ w ∈ (setWindow port f s).host.windows, Memory.wf w.mem = true := by
  intro w hw
  obtain ⟨x, hx, rfl⟩ := List.mem_map.mp hw
  split
  · exact hf x (h x hx)
  · exact h x hx

/-- The four ends of a CXL.mem write: not served, unbacked, fenced, stored. -/
theorem exec_cxlMemWrite_cases (s : State) (port line : Nat) (data : List Byte) (enables : List Bool) (grant : LineState) :
    exec (.cxlMemWrite port line data enables grant) s = .next (settled s s) ∨
    ∃ f, (∀ w, (f w).mem = w.mem ∨ (f w).mem = writeLine line data enables w.mem) ∧
      exec (.cxlMemWrite port line data enables grant) s
        = .next (settled s (emit (.cxlWriteDone port line) (setWindow port f s))) := by
  by_cases hserved : cxlServed s port = true
  · refine .inr ?_
    by_cases hbacked : lineBacked (findWindow s port) line = true
    · by_cases hfence : lineFenced (findWindow s port) line = true
      · exact ⟨fun w => { w with fencedWrites := w.fencedWrites + 1 }, fun w => .inl rfl, finish_of_eq (by
          simp only [hserved, hbacked, hfence, Bool.not_true, Bool.false_eq_true, if_false, if_true])⟩
      · exact ⟨_, fun w => .inr rfl, exec_cxlMemWrite_stored hserved hbacked (Bool.eq_false_iff.mpr hfence)⟩
    · exact ⟨fun w => { w with misses := w.misses + 1 }, fun w => .inl rfl, finish_of_eq (by
        simp only [hserved, hbacked, Bool.not_true, Bool.not_false, Bool.false_eq_true, if_false, if_true])⟩
  · exact .inl (finish_of_eq (by simp only [hserved, Bool.not_false, if_true]))

/-- Settles O11: stored bytes keep the canonical form, and no other end of a WRITE touches the memories. -/
theorem memoriesStayCanonical : Obligations.MemoriesStayCanonical := by
  unfold Obligations.MemoriesStayCanonical
  refine ⟨⟨rfl, ?reset⟩, ?landing, ?windows⟩
  case reset =>
    have hwindows : State.reset.host.windows = [emptyWindow 0, emptyWindow 1] := rfl
    simp [hwindows, emptyWindow, wf_nil]
  case landing =>
    intro s t h rkey addr data hwf ht
    have hexec : exec (.rdmaWriteReceived h rkey addr data) s
        = finish s (receive (.rdmaWriteReceived h rkey addr data) h data.length (doRdmaWrite h rkey addr data) s) := rfl
    rw [hexec, finish_eq] at ht
    cases ht
    rw [settled_tiers]
    obtain heq | heq := rdmaWrite_landing h rkey addr data s
    · rwa [heq]
    · rw [heq]
      exact wf_memWrite data addr.toNat hwf
  case windows =>
    intro s t port line data enables grant hwf ht
    obtain heq | ⟨f, hf, heq⟩ := exec_cxlMemWrite_cases s port line data enables grant
    · rw [heq] at ht
      cases ht
      rwa [settled_host]
    · rw [heq] at ht
      cases ht
      rw [settled_host, emit_host]
      refine setWindow_wf (fun w hw => ?_) hwf
      obtain hmem | hmem := hf w
      · rwa [hmem]
      · rw [hmem]
        exact wf_writeLine line data enables hw

/-! ## What a host port answers -/

/-- Settles O18: each request by the tests that it passes. -/
theorem cxlRequestsServed : Obligations.CxlRequestsServed := by
  unfold Obligations.CxlRequestsServed
  refine ⟨?read, ?write, ?bar2, ?birsp, ?timeout⟩
  case read =>
    intro s port line grant hserved hbacked hfence
    exact finish_of_eq (by simp only [hserved, hbacked, hfence, Bool.not_true, Bool.or_self, Bool.false_eq_true, if_false])
  case write =>
    intro s port line data enables grant hserved hbacked hfence
    exact exec_cxlMemWrite_stored hserved hbacked hfence
  case bar2 =>
    intro s port offset hup
    exact finish_of_eq (if_pos hup)
  case birsp => exact fun s port line => rfl
  case timeout =>
    intro s port line hfence hheld
    exact finish_of_eq (if_pos (by rw [hfence, hheld]; rfl))

/-- A mailbox that is served answers. -/
theorem mailboxAnswer_served {s : State} {port : Nat} (hbar : barServed s port 0 = true) (hcxl : (findWindow s port).cxl = true)
    (o : Output) : mailboxAnswer port o s = emit o s := if_pos (by rw [mailboxServed, hbar, hcxl]; rfl)

theorem barServed_setWindow (port p link : Nat) (f : HostWindow → HostWindow) (s : State) :
    barServed (setWindow p f s) port link = barServed s port link := rfl

/-- A port that runs CXL has its window. -/
theorem window_isSome_of_cxl {s : State} {port : Nat} (h : (findWindow s port).cxl = true) :
    (s.host.windows.find? fun w => w.port == port).isSome = true := by
  cases hw : s.host.windows.find? fun w => w.port == port with
  | some w => rfl
  | none =>
    rw [findWindow, hw] at h
    cases h

/-- The answer to CLEAR_EVENT_RECORDS, from the window that it leaves. -/
theorem clearEventRecords_served {s : State} {port : Nat} (hbar : barServed s port 0 = true) (hcxl : (findWindow s port).cxl = true) :
    exec (.clearEventRecords port) s = .next (settled s (emit (.mailbox port 0x0101 (findWindow s port).granules 0)
      (setWindow port (fun w => { w with eventRecords := 0 }) s))) := by
  have hserved : mailboxServed s port = true := by rw [mailboxServed, hbar, hcxl]; rfl
  have hwindow : findWindow (setWindow port (fun w => { w with eventRecords := 0 }) s) port
      = { findWindow s port with eventRecords := 0 } :=
    findWindow_setWindow_self (fun _ => rfl) (window_isSome_of_cxl hcxl)
  have hanswer := mailboxAnswer_served (s := setWindow port (fun w => { w with eventRecords := 0 }) s) (port := port)
    (by rw [barServed_setWindow, hbar]) (by rw [hwindow]; exact hcxl)
  exact finish_of_eq (by rw [if_pos hserved, answerMailbox, hanswer, hwindow])

/-- Settles O17: every opcode of a mailbox that is served. -/
theorem mailboxCommandsAnswered : Obligations.MailboxCommandsAnswered := by
  unfold Obligations.MailboxCommandsAnswered
  intro s port hbar hcxl
  have hanswer := mailboxAnswer_served hbar hcxl
  exact ⟨finish_of_eq (hanswer _), finish_of_eq (hanswer _), finish_of_eq (hanswer _), finish_of_eq (hanswer _),
    finish_of_eq (hanswer _), clearEventRecords_served hbar hcxl, fun opcode => finish_of_eq (hanswer _)⟩

/-- A DOE mailbox that is served answers. -/
theorem doeAnswer_served {s : State} {port : Nat} (hbar : barServed s port 0 = true) (o : Output) : doeAnswer port o s = emit o s :=
  if_pos hbar

/-- Settles O16: each request of a served mailbox, with the answer that its tests choose. -/
theorem doeRequestsAnswered : Obligations.DoeRequestsAnswered := by
  unfold Obligations.DoeRequestsAnswered
  refine ⟨?always, ?measured, ?busy⟩
  case always =>
    intro s port hbar
    have hanswer := doeAnswer_served hbar
    exact ⟨finish_of_eq (hanswer _), finish_of_eq (hanswer _), finish_of_eq (hanswer _), finish_of_eq (hanswer _),
      fun _ => finish_of_eq (hanswer _), finish_of_eq (hanswer _), fun _ _ => finish_of_eq (hanswer _)⟩
  case measured =>
    intro s port hbar htransition hflushing
    have hgiven : reportsRefused s = false := by simp [reportsRefused, htransition, hflushing]
    refine ⟨fun nonce => finish_of_eq ?_, fun index nonce hindex => finish_of_eq ?_⟩
    · simp [doeAnswer_served hbar, hgiven]
    · have hnamed : (decide (index ≤ 8) || index == 0xFF) = true := by simpa using hindex
      simp only [doeAnswer_served hbar, hgiven, hnamed, Bool.false_eq_true, if_false, if_true]
  case busy =>
    intro s port nonce hbar htransition
    have hrefused : reportsRefused s = true := by simp [reportsRefused, htransition]
    refine ⟨finish_of_eq ?_, fun index => finish_of_eq ?_⟩
    · simp [doeAnswer_served hbar, hrefused, spdmBusy]
    · simp [doeAnswer_served hbar, hrefused, spdmBusy]

end Sys2Proof.Machine
end

section
/-! Obligations O20 and O21: host links, functions and the registers of ring pairs. -/
namespace Sys2Proof.Machine

/-! ## Links and functions (Table 13.12) -/

/-- The VFs that a VF Enable asks for, where every MODE has that many. -/
theorem exec_vfEnable {s : State} {port link numVfs : Nat} (hbar : barServed s port link = true) (hn : numVfs ≤ 127) :
    exec (.vfEnableChange port link true numVfs) s = .next (settled s (goOn
      (setFunctions port link numVfs (setLink port link (fun l => { l with vfs := numVfs }) (resetLink port link s))))) := by
  have hmost : min numVfs (if (hostCfg s port).mode == 1 then 127 else 255) = numVfs := by
    split <;> omega
  exact finish_of_eq (by simp only [hbar, if_true, hmost])

/-- A link that the MODE has trains from step 3 on, out of PERST. -/
theorem exec_hostLinkTrained {s : State} {port link : Nat} (acceptsCxl : Bool) {l : HostLink} (hl : findLink s port link = some l)
    (hdown : l.up = false) (hperst : l.perst = false) (hstep : 3 ≤ s.power.step) (hadmin : (hostCfg s port).adminDown = false)
    (hmode : link = 1 → (hostCfg s port).mode = 1) :
    exec (.hostLinkTrained port link acceptsCxl) s = .next (settled s (portUp 2 port (hostCfg s port).mode
      (if link == 0 then setWindow port (fun w =>
          { w with cxl := (hostCfg s port).cxlEnable && (hostCfg s port).mode == 0 && acceptsCxl })
            (setFunctions port link 0 (setLink port link (fun l => { l with up := true, vfs := 0 }) s))
        else setFunctions port link 0 (setLink port link (fun l => { l with up := true, vfs := 0 }) s)))) := by
  have hhas : (link == 1 && (hostCfg s port).mode != 1) = false := by
    by_cases h : link = 1
    · simp [hmode h]
    · simp [h]
  simp only [exec, execHostLinkTrained, hl, hdown, hperst, hadmin, hhas, decide_eq_false (Nat.not_lt.mpr hstep), Bool.or_self,
    Bool.false_eq_true, if_false]
  rfl

/-- Settles O20: each event by the tests that it passes. -/
theorem hostLinksAndFunctionsReset : Obligations.HostLinksAndFunctionsReset := by
  unfold Obligations.HostLinksAndFunctionsReset
  refine ⟨?config, ?flrVf, ?flrPf, ?vfEnable, ?vfDisable, ?down, ?release, ?trained0, ?trained1⟩
  case config => exact fun s port link fn hup => finish_of_eq (if_pos hup)
  case flrVf =>
    intro s port link fn hup hfn
    exact finish_of_eq (by rw [if_pos hup, if_neg (by simpa using hfn)])
  case flrPf => exact fun s port link hup => finish_of_eq (if_pos hup)
  case vfEnable => exact fun s port link numVfs hbar hn => exec_vfEnable hbar hn
  case vfDisable => exact fun s port link numVfs hbar => finish_of_eq (if_pos hbar)
  case down => exact fun s port link _ => ⟨rfl, rfl⟩
  case release => exact fun s port link => rfl
  case trained0 =>
    intro s port acceptsCxl l hl hdown hperst hstep hadmin
    exact exec_hostLinkTrained acceptsCxl hl hdown hperst hstep hadmin (fun h => absurd h Nat.zero_ne_one)
  case trained1 =>
    intro s port acceptsCxl l hl hdown hperst hstep hadmin hmode
    have htrained := exec_hostLinkTrained acceptsCxl hl hdown hperst hstep hadmin (fun _ => hmode)
    rw [hmode] at htrained
    exact htrained

/-! ## Ring pairs and registers (R363 to R375) -/

/-- Enabling a ring pair that is not enabled starts it, or leaves it in FAULT with cause 1. -/
theorem enableRing_disabled {s : State} {port link ring : Nat} {control : U32} {r : RingPair} (hr : findRing s port ring = some r)
    (hdisabled : r.enable = false) : enableRing port link ring control s = putRing port link ring
      (fun _ => if ringConfigOk s { withControl control (clearRing r) with enable := true }
        then { withControl control (clearRing r) with enable := true }
        else { withControl control (clearRing r) with enable := true, fault := true, faultCause := 1 }) s := by
  simp only [enableRing, hr, Option.getD_some, hdisabled, Bool.false_eq_true, if_false]

/-- Settles O21: each register access by the tests that it passes. -/
theorem ringRegistersWritten : Obligations.RingRegistersWritten := by
  unfold Obligations.RingRegistersWritten
  refine ⟨?sqTail, ?cqHead, ?enable, ?badConfig, ?disable, ?registers, ?expirySends, ?expiryEnds⟩
  case sqTail =>
    intro s port link ring value entries hserved hsq hcq
    have hhead : applyCqHead port ring value s = s := if_neg (Bool.eq_false_iff.mp hcq)
    exact finish_of_eq (by rw [if_pos hserved, hhead, applySqTail, if_pos hsq])
  case cqHead =>
    intro s port link ring value hserved hcq
    exact finish_of_eq (by rw [if_pos hserved, applyCqHead, if_pos hcq])
  case enable =>
    intro s port link ring control r hexists hr hdisabled hok
    exact finish_of_eq (by rw [if_pos hexists, enableRing_disabled hr hdisabled, if_pos hok])
  case badConfig =>
    intro s port link ring control r hexists hr hdisabled hbad
    exact finish_of_eq (by rw [if_pos hexists, enableRing_disabled hr hdisabled, if_neg (Bool.eq_false_iff.mp hbad)])
  case disable =>
    intro s port link ring r hexists hr henabled
    have hrow : (ringExists s port link ring && ((findRing s port ring).map (·.enable)).getD false) = true := by
      simp [hexists, hr, henabled]
    exact finish_of_eq (if_pos hrow)
  case registers =>
    intro s port link fn value hbar hfn
    have hrow : (barServed s port link && (findFunc s port link fn).isSome) = true := by simp [hbar, hfn]
    exact ⟨finish_of_eq (if_pos hrow), finish_of_eq (if_pos hrow), finish_of_eq (if_pos hrow)⟩
  case expirySends =>
    intro s port ring r hr hcoalescing hpending
    exact finish_of_eq (by simp only [hr, hcoalescing, hpending, Bool.and_self, if_true])
  case expiryEnds =>
    intro s port ring r hr hcoalescing hpending
    exact finish_of_eq (by simp only [hr, hcoalescing, hpending, Bool.and_false, Bool.false_eq_true, if_false])

end Sys2Proof.Machine
end

section
/-! Obligations O22 to O25: what the Ethernet ports answer, flow control, links and connections. -/
namespace Sys2Proof.Machine

/-! ## Addresses (R334, R482) -/

theorem holdsAddress_of_ipv4 {s : State} {lport : Nat} {l : LogicalPort} {ip : U32} (hl : findLport s lport = some l)
    (hip : l.ipv4 = some ip) : holdsAddress s lport (mappedV4 ip) = true := by
  simp [holdsAddress, hl, hip]

theorem holdsAddress_of_ipv6 {s : State} {lport : Nat} {l : LogicalPort} {ip : BitVec 128} (hl : findLport s lport = some l)
    (hip : l.ipv6.contains ip = true ∨ linkLocal l.num = ip) : holdsAddress s lport ip = true := by
  simp only [holdsAddress, hl, Option.map_some, Option.getD_some, Bool.or_eq_true, beq_iff_eq]
  rcases hip with h | h
  · exact .inl (.inr h)
  · exact .inr h

/-- An echo request to an address that the port holds, in the version that its packet names. -/
theorem exec_icmpEcho_answered {s : State} {lport : Nat} {target : BitVec 128} {v6 : Bool} {l : LogicalPort}
    (hserved : lportServed s lport = true) (hl : findLport s lport = some l) (hholds : holdsAddress s lport target = true)
    (hversion : (l.ipv4.map mappedV4 == some target) = !v6) :
    exec (.icmpEcho lport target v6) s = .next (settled s (emit (.echoReply lport) s)) :=
  finish_of_eq (by simp [hserved, hholds, hl, hversion])

/-- Settles O22: each frame by the port's addresses, each lease by the port's link. -/
theorem addressResolutionAnswered : Obligations.AddressResolutionAnswered := by
  unfold Obligations.AddressResolutionAnswered
  refine ⟨?arp, ?neighbour, ?echo4, ?echo6, ?dropped, ?dhcp, ?router, ?expiry6, ?expiry4⟩
  case arp =>
    intro s lport target l hserved hl hip
    exact finish_of_eq (by simp [hserved, hl, hip])
  case neighbour =>
    intro s lport target hserved hholds
    exact finish_of_eq (by simp [hserved, hholds])
  case echo4 =>
    intro s lport ip l hserved hl hip
    exact exec_icmpEcho_answered hserved hl (holdsAddress_of_ipv4 hl hip) (by simp [hip])
  case echo6 =>
    intro s lport target l hserved hl hnot4 hip
    exact exec_icmpEcho_answered hserved hl (holdsAddress_of_ipv6 hl hip) (by simpa using hnot4)
  case dropped => exact fun s lport hserved => finish_of_eq (if_pos hserved)
  case dhcp => exact fun s port ip hup => finish_of_eq (if_pos hup)
  case router => exact fun s port pfx hup => finish_of_eq (if_pos hup)
  case expiry6 => exact fun s port ip => rfl
  case expiry4 => exact fun s port ip => rfl

/-! ## Flow control and rates (R336, R338) -/

/-- A priority that the port enables is heeded. -/
theorem exec_pfcFrame_heeded {s : State} {port prio : Nat} (quanta : Nat) (hpfc : (ethCfg s port).pfcEnable = true)
    (hprio : bitOf (ethCfg s port).priorities.toNat prio = true) : exec (.pfcFrameReceived port prio quanta) s
      = finish s (if quanta == 0 then setEport port (fun e => { e with paused := e.paused.filter fun p => p != prio }) s
        else countPort (4 * port) 5 1 (setEport port (fun e => { e with paused := prio :: e.paused.filter fun p => p != prio }) s)) :=
  finish_of_eq (by rw [hpfc, hprio, Bool.and_self, if_pos rfl])

/-- The occupancy of a port with PFC decides whether the partner must pause. -/
theorem exec_pfcPauseRefresh_enabled {s : State} {port occupancy : Nat} {e : EthPort}
    (he : s.net.eports.find? (fun e => e.num == port) = some e) (hpfc : (ethCfg s port).pfcEnable = true) :
    exec (.pfcPauseRefresh port occupancy) s
      = finish s (if (if 6291456 < occupancy then true else if occupancy < 4194304 then false else e.xoff) then
          countPort (4 * port) 4 1 (emit (.pfc port (ethCfg s port).priorities true) (setEport port (fun e => { e with xoff := true })
            (setEport port (fun e => { e with rxBytes := min occupancy 8388608 }) s)))
        else if e.xoff then emit (.pfc port (ethCfg s port).priorities false) (setEport port (fun e => { e with xoff := false })
            (setEport port (fun e => { e with rxBytes := min occupancy 8388608 }) s))
        else setEport port (fun e => { e with rxBytes := min occupancy 8388608 }) s) := by
  simp only [exec, execPfcPauseRefresh, he, hpfc, Bool.not_true, Bool.false_eq_true, if_false]

/-- A CNP on a port with ECN is counted, and cuts the rate when one is due. -/
theorem exec_cnpReceived_enabled {s : State} {qpn : Nat} {q : Qp} (due : Bool) (hq : findQp s qpn = some q)
    (hecn : (ethCfg s (q.lport / 4)).ecnEnable = true) : exec (.cnpReceived qpn due) s
      = finish s (if due then setQp qpn (fun q =>
          { q with rt := q.rc, rc := max 65536 (q.rc * (131072 - q.alpha) / 131072), alpha := decayAlpha q.alpha + 4096, increases := 0 })
            (countPort q.lport 8 1 s)
        else countPort q.lport 8 1 s) := by
  simp only [exec, execCnpReceived, hq, hecn, Bool.not_true, Bool.false_eq_true, if_false]

/-- A tick of a queue pair's rate limiter, whose target rate rises from the fifth increase on. -/
theorem exec_rateLimiterTick_found {s : State} {qpn : Nat} {q : Qp} (hq : findQp s qpn = some q) :
    exec (.rateLimiterTick qpn) s = finish s (setQp qpn (fun x =>
      { x with alpha := decayAlpha x.alpha, rt := if 5 ≤ q.increases then min (portRate s q.lport) (q.rt + 5 * 65536) else q.rt,
               rc := max 65536 (min (portRate s q.lport)
                 ((x.rc + if 5 ≤ q.increases then min (portRate s q.lport) (q.rt + 5 * 65536) else q.rt) / 2)),
               increases := x.increases + 1 }) s) := by
  simp only [exec, execRateLimiterTick, hq]

/-- Settles O23: each frame, occupancy, CNP and tick by the branch that its values choose. -/
theorem pauseAndRateControl : Obligations.PauseAndRateControl := by
  unfold Obligations.PauseAndRateControl
  refine ⟨?pause, ?resume, ?expiry, ?xoff, ?xon, ?cnp, ?tickLow, ?tickHigh⟩
  case pause =>
    intro s port prio quanta hpfc hprio hquanta
    rw [exec_pfcFrame_heeded quanta hpfc hprio, if_neg (by simpa using hquanta), finish_eq]
  case resume =>
    exact fun s port prio hpfc hprio => exec_pfcFrame_heeded 0 hpfc hprio
  case expiry => exact fun s port prio => rfl
  case xoff =>
    intro s port occupancy e he hpfc hhigh
    rw [exec_pfcPauseRefresh_enabled he hpfc, if_pos hhigh, if_pos rfl, finish_eq]
  case xon =>
    intro s port occupancy e he hpfc hxoff hlow
    have hresumes : (if 6291456 < occupancy then true else if occupancy < 4194304 then false else e.xoff) = false := by
      rw [if_neg (Nat.not_lt.mpr (by omega)), if_pos hlow]
    rw [exec_pfcPauseRefresh_enabled he hpfc, hresumes, if_neg Bool.false_ne_true, if_pos hxoff, finish_eq]
  case cnp =>
    intro s qpn q hq hecn
    exact ⟨exec_cnpReceived_enabled true hq hecn, exec_cnpReceived_enabled false hq hecn⟩
  case tickLow =>
    intro s qpn q hq hfew
    rw [exec_rateLimiterTick_found hq, if_neg (Nat.not_le.mpr hfew)]
    rfl
  case tickHigh =>
    intro s qpn q hq hmany
    rw [exec_rateLimiterTick_found hq, if_pos hmany]
    rfl

/-! ## Links (R358, R482, Table 15.1) -/

/-- A present logical port that is down comes up from step 4 on, unless a hold-up flush runs. -/
theorem exec_ethLinkUp_trained {s : State} {lport : Nat} {l : LogicalPort} (hl : findLport s lport = some l) (hpresent : l.present = true)
    (hdown : l.up = false) (hadmin : (ethCfg s (lport / 4)).adminDown = false) (hstep : 4 ≤ s.power.step)
    (hflushing : s.power.flushing = none) : exec (.ethLinkUp lport) s
      = finish s (emit (.dhcpRequest lport) (portUp 1 lport (ethCfg s (lport / 4)).mode
        { s with net := { s.net with lports := updWhere (fun l => l.num == lport) (fun l => { l with up := true }) s.net.lports } })) := by
  simp only [exec, execEthLinkUp, hl, hpresent, hdown, hadmin, hflushing, decide_eq_true hstep, Bool.not_false, Bool.and_self,
    Option.isNone_none, if_true]

/-- The management link tries its own trial mode until the record is loaded. -/
theorem exec_mgmtLinkTrial_unloaded {s : State} (trained : Bool) (hdown : s.mgmt.linkUp = false) (hstep : 4 ≤ s.power.step)
    (hrecord : s.mgmt.recordLoaded = false) : exec (.mgmtLinkTrial trained) s
      = finish s (if trained then emit (.dhcpRequest 16) (portUp 4 0 s.mgmt.trialMode { s with mgmt := { s.mgmt with linkUp := true } })
        else { s with mgmt := { s.mgmt with trialMode := 1 - s.mgmt.trialMode } }) := by
  refine finish_of_eq ?_
  simp only [hdown, hrecord, decide_eq_false (Nat.not_lt.mpr hstep), Bool.or_self, Bool.false_eq_true, if_false]

/-- Settles O24: each link event by the tests that it passes. -/
theorem linksComeUpAndDown : Obligations.LinksComeUpAndDown := by
  unfold Obligations.LinksComeUpAndDown
  refine ⟨?ethDown, ?ethUp, ?mgmtTrial, ?splicePhy, ?spliceDown⟩
  case ethDown => exact fun s lport hup => finish_of_eq (if_pos hup)
  case ethUp =>
    intro s lport l hl hpresent hdown hadmin hstep hflushing
    exact exec_ethLinkUp_trained hl hpresent hdown hadmin hstep hflushing
  case mgmtTrial =>
    intro s hdown hstep hrecord
    exact ⟨exec_mgmtLinkTrial_unloaded true hdown hstep hrecord, exec_mgmtLinkTrial_unloaded false hdown hstep hrecord⟩
  case splicePhy =>
    intro s port hstep hflushing hadmin
    exact finish_of_eq (if_pos (by simp [hstep, hflushing, hadmin]))
  case spliceDown => exact fun s port => rfl

/-! ## Connections (R341 to R343) -/

/-- A REQ that nothing rejects takes the context that the pool gives. -/
theorem exec_cmReq_accepted {s : State} {r : CmReq} {context g : Nat} {pool : IndexPool} (hserved : lportServed s r.lport = true)
    (hok : reqRejected s r = none) (htake : s.net.qpPool.take = some (context, g, pool)) :
    exec (.cmReq r) s = finish s (emit (.cmRep ((g + 1) * 2 ^ 17 + context) (BitVec.ofNat 24 (Config.drbg s.free)))
      { s with free := s.free + 1,
               net := { s.net with qps := s.net.qps ++ [newQp s r context (g + 1) (BitVec.ofNat 24 (Config.drbg s.free))],
                                   qpPool := pool } }) := by
  simp only [exec, execCmReq, hserved, hok, htake, Bool.not_true, Bool.false_eq_true, if_false]
  rfl

theorem exec_cmReq_rejected {s : State} {r : CmReq} {why : RejReason} (hserved : lportServed s r.lport = true)
    (hwhy : reqRejected s r = some why) : exec (.cmReq r) s = finish s (emit (.cmRej r.lport why) s) := by
  simp only [exec, execCmReq, hserved, hwhy, Bool.not_true, Bool.false_eq_true, if_false]

/-- A ready pair is disconnected at once when no message formed on it waits, else after them. -/
theorem disconnectQp_ready {s : State} {qpn : Nat} {q : Qp} (hq : findQp s qpn = some q) (hready : q.state = .ready) :
    disconnectQp qpn s = if (formsOf s qpn).isEmpty then
        emit (.cmDreq qpn) (setQp qpn (fun q => { q with state := .disconnecting, leaveDue := false, pinnedInCache := false }) s)
      else setQp qpn (fun q => { q with leaveDue := true, pinnedInCache := false }) s := by
  simp [disconnectQp, hq, hready]

/-- A ready pair that no job bound within 256 windows is disconnected. -/
theorem exec_qpUnboundTimeout_due {s : State} {qpn : Nat} {q : Qp} (hq : findQp s qpn = some q) (hready : q.state = .ready)
    (hdue : q.readySince + 256 ≤ s.clk.window) (hunbound : findLane s qpn = none) :
    exec (.qpUnboundTimeout qpn) s = finish s (disconnectQp qpn s) :=
  finish_of_eq (if_pos (by simp [hq, hready, hdue, hunbound]))

/-- Settles O25: each message by the queue pair that it finds and its state. -/
theorem connectionsMadeAndEnded : Obligations.ConnectionsMadeAndEnded := by
  unfold Obligations.ConnectionsMadeAndEnded
  refine ⟨?accepted, ?rejected, ?rtu, ?abandoned, ?dreq, ?freed, ?unbound⟩
  case accepted => exact fun s r context g pool hserved hok htake => exec_cmReq_accepted hserved hok htake
  case rejected => exact fun s r why hserved hwhy => exec_cmReq_rejected hserved hwhy
  case rtu => exact fun s qpn => ⟨rfl, rfl⟩
  case abandoned =>
    intro s qpn q hq hawaiting
    have hrow : ((findQp s qpn).map fun q => q.state == .awaitingRtu).getD false = true := by simp [hq, hawaiting]
    exact ⟨finish_of_eq (if_pos hrow), finish_of_eq (if_pos hrow)⟩
  case dreq => exact fun s qpn q hq => finish_of_eq (if_pos (by rw [hq]; rfl))
  case freed =>
    intro s qpn q hq hstate
    have hrow : awaitsDrep s qpn = true := by
      rcases hstate with h | h <;> simp [awaitsDrep, hq, h]
    exact ⟨finish_of_eq (if_pos hrow), finish_of_eq (if_pos hrow)⟩
  case unbound =>
    intro s qpn q hq hready hdue hunbound
    rw [exec_qpUnboundTimeout_due hq hready hdue hunbound, disconnectQp_ready hq hready]
    refine ⟨fun hnone => ?_, fun hsome => ?_⟩
    · rw [if_pos (by rw [hnone]; rfl), finish_eq]
    · rw [if_neg (by simpa using hsome), finish_eq]

end Sys2Proof.Machine
end

section
/-! Obligations O26 and O27: RDMA requests in turn, and what a partner answers to the device's own requests. -/
namespace Sys2Proof.Machine

/-- A packet that enters the transport reaches its own effect. -/
theorem receive_of_enters {i : Instr} {h : Bth} {bytes : Nat} {s t : State} (k : State → State) (hin : Enters i h bytes s t) :
    receive i h bytes k s = k t := by
  unfold Enters at hin
  rw [receive, hin]

/-! ## Requests (R347, R348, R354) -/

/-- A request in turn that a NAK refuses. -/
theorem rcAccept_refused_in_turn {h : Bth} {n : Nat} {x : Nak} {again k : State → State} {s : State} {q : Qp}
    (hq : findQp s h.qpn = some q) (hp : h.psn = q.expectedPsn) : rcAccept h n (some x) again k s = sendNak h h.psn x s := by
  simp [rcAccept, hq, hp]

/-- A request in turn whose key and grant pass. -/
theorem rcAccept_granted {i : Instr} {h : Bth} {bytes n len : Nat} {rkey : U32} {addr : Nat} {again k : State → State}
    {s t : State} (hturn : InTurn i h bytes s t) (hok : landingOk t h.qpn rkey addr len = true) :
    rcAccept h n (landingNak t h.qpn rkey addr len) again k t = k (advancePsn h.qpn n t) := by
  obtain ⟨-, q, hq, hpsn⟩ := hturn
  have hnak : landingNak t h.qpn rkey addr len = none := if_pos hok
  rw [hnak, rcAccept_in_turn hq hpsn]

/-- A request in turn outside the grant. -/
theorem rcAccept_outside {i : Instr} {h : Bth} {bytes n len : Nat} {rkey : U32} {addr : Nat} {again k : State → State}
    {s t : State} (hturn : InTurn i h bytes s t) (hbad : landingOk t h.qpn rkey addr len = false) :
    rcAccept h n (landingNak t h.qpn rkey addr len) again k t = sendNak h h.psn .remoteAccess t := by
  obtain ⟨-, q, hq, hpsn⟩ := hturn
  have hnak : landingNak t h.qpn rkey addr len = some .remoteAccess := if_neg (Bool.eq_false_iff.mp hbad)
  rw [hnak, rcAccept_refused_in_turn hq hpsn]

/-- The acknowledgement that is due. -/
theorem sendAck_found {s : State} {qpn : Nat} {q : Qp} (hq : findQp s qpn = some q) :
    sendAck qpn s = emit (.rdmaAck qpn (q.expectedPsn - 1)) (setQp qpn (fun x => { x with ackDue := 0 }) s) := by
  simp only [sendAck, hq]

/-- Settles O26: each request enters in turn and passes or fails its grant. -/
theorem rdmaRequestsInTurn : Obligations.RdmaRequestsInTurn := by
  unfold Obligations.RdmaRequestsInTurn
  refine ⟨?write, ?writeRefused, ?consume, ?cue, ?read, ?invalid, ?timer⟩
  case write =>
    exact fun s t h rkey addr data hturn hok => finish_of_eq (receive_write_inTurn hturn hok)
  case writeRefused =>
    intro s t h rkey addr data hturn hbad
    exact finish_of_eq (by rw [receive_of_enters _ hturn.1, doRdmaWrite, rcAccept_outside hturn hbad])
  case consume =>
    intro s t h rkey addr data imm o hturn hok
    exact finish_of_eq (by rw [receive_of_enters _ hturn.1, doSlotConsume, rcAccept_granted hturn hok])
  case cue =>
    intro s t h imm j hturn hjob
    obtain ⟨hin, q, hq, hpsn⟩ := hturn
    refine finish_of_eq ?_
    rw [receive_of_enters _ hin, doCue, rcAccept_in_turn hq hpsn]
    simp only [hjob]
  case read =>
    intro s t h rkey addr len hturn hok
    exact finish_of_eq (by rw [receive_of_enters _ hturn.1, doRdmaRead, rcAccept_granted hturn hok])
  case invalid =>
    intro s t h hturn
    obtain ⟨hin, q, hq, hpsn⟩ := hturn
    exact finish_of_eq (by rw [receive_of_enters _ hin, doRdmaInvalid, rcAccept_refused_in_turn hq hpsn])
  case timer =>
    intro s qpn q hq hdue hcarries
    have hrow : ((findQp s qpn).map fun q => decide (0 < q.ackDue) && qpCarries s qpn).getD false = true := by
      simp [hq, hdue, hcarries]
    exact finish_of_eq ((if_pos hrow).trans (sendAck_found hq))

/-! ## Answers (R349 to R352, Table 12.4) -/

/-- An RNR NAK within the limit pauses the queue pair. -/
theorem doRnrNak_within {h : Bth} {t : State} {q : Qp} (hcarries : qpCarries t h.qpn = true)
    (hq : findQp (ackUpTo h.qpn (h.psn - 1) t) h.qpn = some q) (hlimit : q.rnrMax = 7 ∨ q.rnrRetries < q.rnrMax) :
    doRnrNak h t = goOn (setQp h.qpn (fun x => { x with rnrWaiting := true, rnrRetries := x.rnrRetries + 1 })
      (ackUpTo h.qpn (h.psn - 1) t)) := by
  have hspent : (q.rnrMax != 7 && decide (q.rnrMax ≤ q.rnrRetries)) = false := by
    rcases hlimit with h7 | hlt
    · simp [h7]
    · simp [Nat.not_le.mpr hlt]
  simp only [doRnrNak, hcarries, hq, hspent, Bool.not_true, Bool.false_eq_true, if_false, afterAck]

/-- An RNR NAK beyond the limit ends it. -/
theorem doRnrNak_spent {h : Bth} {t : State} {q : Qp} (hcarries : qpCarries t h.qpn = true)
    (hq : findQp (ackUpTo h.qpn (h.psn - 1) t) h.qpn = some q) (hne : q.rnrMax ≠ 7) (hle : q.rnrMax ≤ q.rnrRetries) :
    doRnrNak h t = goOn (qpError h.qpn 2 (ackUpTo h.qpn (h.psn - 1) t)) := by
  have hspent : (q.rnrMax != 7 && decide (q.rnrMax ≤ q.rnrRetries)) = true := by simp [hne, hle]
  simp only [doRnrNak, hcarries, hq, hspent, Bool.not_true, Bool.false_eq_true, if_false, if_true, afterAck]

/-- A retry within the limit goes back to the first message that is not acknowledged. -/
theorem retryQp_within {s : State} {qpn : Nat} {q : Qp} (hq : findQp s qpn = some q) (hsent : q.sent ≠ [])
    (hcarries : qpCarries s qpn = true) (hlimit : q.retryMax = 7 ∨ q.retries < q.retryMax) :
    retryQp qpn s = goBack qpn (setQp qpn (fun x => { x with retries := x.retries + 1 }) s) := by
  have hspent : (q.retryMax != 7 && decide (q.retryMax ≤ q.retries)) = false := by
    rcases hlimit with h7 | hlt
    · simp [h7]
    · simp [Nat.not_le.mpr hlt]
  simp only [retryQp, hq, List.isEmpty_eq_false_iff.mpr hsent, hcarries, hspent, Bool.not_true, Bool.or_self, Bool.false_eq_true, if_false]

/-- A retry beyond the limit fails the queue pair. -/
theorem retryQp_spent {s : State} {qpn : Nat} {q : Qp} (hq : findQp s qpn = some q) (hsent : q.sent ≠ [])
    (hcarries : qpCarries s qpn = true) (hne : q.retryMax ≠ 7) (hle : q.retryMax ≤ q.retries) : retryQp qpn s = qpError qpn 1 s := by
  have hspent : (q.retryMax != 7 && decide (q.retryMax ≤ q.retries)) = true := by simp [hne, hle]
  simp only [retryQp, hq, List.isEmpty_eq_false_iff.mpr hsent, hcarries, hspent, Bool.not_true, Bool.or_self, Bool.false_eq_true,
    if_false, if_true]

/-- A response that is not the last brings descriptor bytes and acknowledges what was sent before its READ. -/
theorem doReadResponse_more {h : Bth} {slot : Nat} {t : State} {q : Qp} {m : Sent} (hq : findQp t h.qpn = some q)
    (hm : readOf q slot = some m) : doReadResponse h slot .descriptors false t = ackUpTo h.qpn (m.firstPsn - 1) t := by
  simp only [doReadResponse, hq, Option.bind_some, hm, Bool.not_false, if_true]

/-- The last response of a descriptor's READ answers it. -/
theorem doReadResponse_last {h : Bth} {slot : Nat} {t : State} {q : Qp} {m : Sent} {rkey : U32} {address : Nat}
    (hq : findQp t h.qpn = some q) (hm : readOf q slot = some m) (hwhat : m.what = .readDesc slot rkey address) :
    doReadResponse h slot .descriptors true t = readArrived slot
      (setQp h.qpn (fun x => { x with sent := x.sent.erase m, retries := 0, rnrRetries := 0 }) (ackUpTo h.qpn (m.firstPsn - 1) t)) := by
  simp only [doReadResponse, hq, Option.bind_some, hm, Bool.not_true, Bool.false_eq_true, if_false, hwhat]

/-- Settles O27: each answer enters and meets the queue pair's own state. -/
theorem requesterAnswers : Obligations.RequesterAnswers := by
  unfold Obligations.RequesterAnswers
  refine ⟨?ack, ?nakSequence, ?rnr, ?rnrSpent, ?nakFatal, ?timeout, ?timeoutSpent, ?rnrExpiry, ?response, ?fetched⟩
  case ack =>
    intro s t h hin hcarries
    exact finish_of_eq ((receive_of_enters _ hin).trans (if_pos hcarries))
  case nakSequence =>
    intro s t h hin hcarries
    exact finish_of_eq ((receive_of_enters _ hin).trans (if_pos hcarries))
  case rnr =>
    intro s t h timer q hin hcarries hq hlimit
    exact finish_of_eq ((receive_of_enters _ hin).trans (doRnrNak_within hcarries hq hlimit))
  case rnrSpent =>
    intro s t h timer q hin hcarries hq hne hle
    exact finish_of_eq ((receive_of_enters _ hin).trans (doRnrNak_spent hcarries hq hne hle))
  case nakFatal =>
    intro s t h kind hin
    exact finish_of_eq (receive_of_enters _ hin)
  case timeout =>
    intro s qpn q hq hsent hcarries hlimit
    exact finish_of_eq (congrArg goOn (retryQp_within hq hsent hcarries hlimit))
  case timeoutSpent =>
    intro s qpn q hq hsent hcarries hne hle
    exact finish_of_eq (congrArg goOn (retryQp_spent hq hsent hcarries hne hle))
  case rnrExpiry =>
    intro s qpn q hq hwaiting
    exact finish_of_eq (if_pos (by simp [hq, hwaiting]))
  case response =>
    intro s t h slot data last q m hin hq hm
    refine ⟨finish_of_eq (receive_of_enters _ hin), ?_, ?_⟩
    · rintro rfl rfl
      exact finish_of_eq ((receive_of_enters _ hin).trans (doReadResponse_more hq hm))
    · rintro rkey address rfl rfl hwhat
      exact finish_of_eq ((receive_of_enters _ hin).trans (doReadResponse_last hq hm hwhat))
  case fetched =>
    intro s qpn q hq hfetching
    refine ⟨finish_of_eq (congrArg goOn ?_), finish_of_eq (congrArg goOn ?_)⟩
    · simp only [contextFetched, hq, hfetching, Bool.not_true, Bool.false_eq_true, if_false, if_true]
    · simp only [contextFetched, hq, hfetching, Bool.not_true, Bool.false_eq_true, if_false]

end Sys2Proof.Machine
end

section
/-! Obligations O28 to O30: how the units of each engine end. -/
namespace Sys2Proof.Machine

/-! ## The ends of a unit (R440) -/

section Ends
variable {kind : EngineKind} {inst : Nat} {want : UnitWork → Bool} {k : EUnit → State → State} {s : State} {u : EUnit}
  (hu : runningUnit s kind inst = some u) (hwant : want u.work = true)
include hu hwant

theorem unitEnded_passed : unitEnded kind inst .passed want k s = k u (endUnit kind inst u s) := by
  simp [unitEnded, hu, hwant]

/-- The first failure: the unit runs again. -/
theorem unitEnded_failed_first (hfirst : u.reruns = 0) : unitEnded kind inst .failed want k s = rerunUnit kind inst u s := by
  simp [unitEnded, hu, hwant, hfirst]

/-- A second failure: the input is bad. -/
theorem unitEnded_failed_again (hagain : u.reruns ≠ 0) : unitEnded kind inst .failed want k s = inputBad u (endUnit kind inst u s) := by
  simp [unitEnded, hu, hwant, hagain]

theorem unitEnded_inputFailed : unitEnded kind inst .inputFailed want k s = inputBad u (endUnit kind inst u s) := by
  simp [unitEnded, hu, hwant]

theorem unitEnded_weightsFailed : unitEnded kind inst .weightsFailed want k s = weightsFailed u (endUnit kind inst u s) := by
  simp [unitEnded, hu, hwant]

/-- A row whose unit fails its check answers by how often the unit has run. -/
theorem finish_unitEnded_failed (s0 : State) :
    (u.reruns = 0 → finish s0 (unitEnded kind inst .failed want k s) = .next (settled s0 (rerunUnit kind inst u s))) ∧
    (u.reruns ≠ 0 → finish s0 (unitEnded kind inst .failed want k s) = .next (settled s0 (inputBad u (endUnit kind inst u s)))) :=
  ⟨fun h => finish_of_eq (unitEnded_failed_first hu hwant h), fun h => finish_of_eq (unitEnded_failed_again hu hwant h)⟩

end Ends

/-- A unit that passes its check ends in what its row does with its work. -/
theorem finish_unitEnded_passed {kind : EngineKind} {inst : Nat} {want : UnitWork → Bool} {k : EUnit → State → State} {s v : State}
    {u : EUnit} (hu : runningUnit s kind inst = some u) (hwant : want u.work = true) (hk : k u (endUnit kind inst u s) = v) :
    finish s (unitEnded kind inst .passed want k s) = .next (settled s v) :=
  finish_of_eq ((unitEnded_passed hu hwant).trans hk)

/-! ## Units that pass their check -/

/-- An engine of a hasher, by its number over all hashers, ends its blocks. -/
theorem doKeyHasherUnitEnd_passed {s : State} {hasher inst slot blocks : Nat} {u : EUnit} (hinst : inst < 8)
    (hu : runningUnit s (.hasher hasher) inst = some u) (hw : u.work = .hash slot blocks) :
    doKeyHasherUnitEnd (8 * hasher + inst) .passed s = hashDone slot blocks hasher (endUnit (.hasher hasher) inst u s) := by
  have hdiv : (8 * hasher + inst) / 8 = hasher := by omega
  have hmod : (8 * hasher + inst) % 8 = inst := by omega
  rw [doKeyHasherUnitEnd, hdiv, hmod, unitEnded_passed hu (by rw [hw]; rfl)]
  simp only [hw]

/-- Settles O28: each unit passes its check, and its row goes on by the unit's work. -/
theorem computeUnitsEnd : Obligations.ComputeUnitsEnd := by
  unfold Obligations.ComputeUnitsEnd
  refine ⟨?attention, ?tile, ?codec, ?crypto, ?hasher⟩
  case attention =>
    intro s inst b h x g u hu hw
    exact finish_unitEnded_passed hu (by rw [hw]; rfl) (by simp only [spanEnd, hw])
  case tile =>
    intro s inst u hu
    refine ⟨fun sb l tile part hw => ?_, fun b h x part hw => ?_, fun b h g step hw => ?_⟩
    · exact finish_unitEnded_passed hu (by rw [hw]; rfl) (by simp only [projectEnd, hw])
    · exact finish_unitEnded_passed hu (by rw [hw]; rfl) (by simp only [projectEnd, hw])
    · exact finish_unitEnded_passed hu (by rw [hw]; rfl) (by simp only [mergeEnd, hw])
  case codec =>
    intro s inst u hu
    refine ⟨fun sb l tile part hw => ?_, fun b h x part hw => ?_, fun id part hw => ?_, fun id hw => ?_, fun hw => ?_⟩ <;>
      exact finish_unitEnded_passed hu rfl (by simp only [codecEnd, hw])
  case crypto =>
    intro s inst u hu
    refine ⟨fun sb l tile part hw => ?_, fun slot part hw => ?_, fun id hw => ?_, fun i block layer part hw => ?_,
      fun id part hw => ?_, fun slot layer src dst left hw => ?_⟩ <;>
      exact finish_unitEnded_passed hu rfl (by simp only [cryptoEnd, hw])
  case hasher =>
    intro s hasher inst slot blocks u hinst hu hw
    exact finish_of_eq (doKeyHasherUnitEnd_passed hinst hu hw)

/-! ## Units that fail -/

/-- An overrun ends the unit of its engine as a failed check does, once it is counted. -/
theorem exec_engineUnitOverrun {s : State} {kind inst i : Nat} {k : EngineKind} {u : EUnit} (hk : overrunUnit kind inst = some (k, i))
    (hu : runningUnit s k i = some u) : exec (.engineUnitOverrun kind inst) s
      = finish s (unitEnded k i .failed anyWork (fun _ s => s) (countFault 9 1 s)) :=
  finish_of_eq (by simp only [hk, hu])

theorem runningUnit_countFault (i n : Nat) (s : State) (k : EngineKind) (inst : Nat) :
    runningUnit (countFault i n s) k inst = runningUnit s k inst := by
  cases k <;> rfl

/-- Settles O29: each kind's row ends its unit by the check, an overrun as a failed one. -/
theorem failedUnitsRunAgain : Obligations.FailedUnitsRunAgain := by
  unfold Obligations.FailedUnitsRunAgain
  refine ⟨?span, ?project, ?merge, ?codec, ?crypto, ?mover, ?overrun⟩
  case span => exact fun s inst u hu hw => finish_unitEnded_failed hu hw s
  case project => exact fun s inst u hu hw => finish_unitEnded_failed hu hw s
  case merge => exact fun s inst u hu hw => finish_unitEnded_failed hu hw s
  case codec =>
    intro s inst u hu
    obtain ⟨hfirst, hagain⟩ := finish_unitEnded_failed (want := anyWork) (k := codecEnd) hu rfl s
    exact ⟨hfirst, hagain, finish_of_eq (unitEnded_inputFailed hu rfl), finish_of_eq (unitEnded_weightsFailed hu rfl)⟩
  case crypto => exact fun s inst u hu => finish_unitEnded_failed hu rfl s
  case mover => exact fun s inst o u hu => finish_unitEnded_failed hu rfl s
  case overrun =>
    intro s kind inst i k u hk hu
    rw [exec_engineUnitOverrun hk hu]
    exact finish_unitEnded_failed (by rw [runningUnit_countFault, hu]) rfl s

/-! ## Movers and port engines -/

/-- A host's segment that stays in its region and is wanted: the message is sent, or goes on after 64 KiB. -/
theorem hostEnd_hostSend {port lane left : Nat} {what : SentWhat} {recs : List IngestRecord} {u : EUnit} {s : State}
    (hw : u.work = .hostSend lane what left) (hwanted : messageWanted s what = true)
    (hregion : leavesRegion s lane what left = false) : hostEnd port true recs u s = if 65536 < left then
      queueUnit (.host port) (newUnit u.cls (.hostSend lane what (left - 65536)) 0 (unitCredits (left - 65536))) s
      else messageSent 0 what s := by
  simp only [hostEnd, hw, hregion, hwanted, Bool.not_true, Bool.false_eq_true, if_false, if_true]

/-- The last part of a splice message on a link that is up. -/
theorem spliceEnd_last {port src dst relays probes left regGen : Nat} {b : SpliceBody} {u : EUnit} {s : State} {p : SplicePort}
    (hw : u.work = .spliceMsg src dst relays probes regGen b left) (hleft : left ≤ 65536) (hup : spliceUp s port = true)
    (hp : findSplice s port = some p) : spliceEnd port u s
      = emit (.splice port src dst relays probes regGen (u.cls == .be) (higherIdentity p.peerDevice) (p.txCounter + 1) b)
        (setSplice port (fun x => { x with txCounter := p.txCounter + 1, frameRetries := 0 }) s) := by
  simp only [spliceEnd, hw, if_neg (Nat.not_lt.mpr hleft), hup, if_true, hp, Option.map_some, Option.getD_some]

/-- Settles O30: each unit passes its check, and its engine goes on by the unit's work. -/
theorem moversAndPortEnginesEnd : Obligations.MoversAndPortEnginesEnd := by
  unfold Obligations.MoversAndPortEnginesEnd
  refine ⟨?mover, ?rdma, ?hostSend, ?hostRead, ?splice⟩
  case mover =>
    intro s inst o u hu
    refine ⟨fun id hw => ?_, fun slot layer src dst left hw => ?_, fun sb l tile part hw hgood => ?_,
      fun i block layer part hw hgood => ?_⟩
    · exact finish_unitEnded_passed hu rfl (by simp only [moverEnd, hw])
    · exact finish_unitEnded_passed hu rfl (by simp only [moverEnd, hw])
    · exact finish_unitEnded_passed hu rfl (by simp only [moverEnd, hw, hgood, Bool.false_eq_true, if_false])
    · exact finish_unitEnded_passed hu rfl (by simp only [moverEnd, hw, hgood, Bool.false_eq_true, if_false])
  case rdma =>
    intro s port qpn u hu
    exact ⟨fun _ _ _ => finish_unitEnded_passed hu rfl rfl, fun _ _ _ _ => finish_unitEnded_passed hu rfl rfl⟩
  case hostSend =>
    intro s port lane what left recs u hu hw hwanted hregion
    have hsend := hostEnd_hostSend (port := port) (recs := recs) hw hwanted hregion
    refine ⟨fun hle => ?_, fun hlt => ?_, ?_⟩
    · exact finish_unitEnded_passed hu rfl (hsend.trans (if_neg (Nat.not_lt.mpr hle)))
    · exact finish_unitEnded_passed hu rfl (hsend.trans (if_pos hlt))
    · exact finish_unitEnded_passed hu rfl (by simp only [hostEnd, hw, Bool.not_false, if_true])
  case hostRead =>
    intro s port lane slot offset left recs u hu hw
    refine ⟨?_, ?_⟩
    · exact finish_unitEnded_passed hu rfl (by simp only [hostEnd, hw, if_true])
    · exact finish_unitEnded_passed hu rfl (by simp only [hostEnd, hw, Bool.false_eq_true, if_false])
  case splice =>
    intro s port src dst relays probes left regGen b u p hu hw hleft hup hp
    exact finish_unitEnded_passed hu rfl (spliceEnd_last hw hleft hup hp)

end Sys2Proof.Machine
end

section
/-! Obligations O31 and O32: the cores of the slivers, asked and unasked. -/
namespace Sys2Proof.Machine

/-! ## A core's next request -/

/-- A core whose next request is of the row's kind acts on it, once it has logged it. -/
theorem finish_sliverStep {s t : State} {n : Nat} {f : SliverEntry → Option (State → State)} {e : SliverEntry} {v : Sliver}
    (h : sliverNext s n = some (e, v)) (g : State → State) (hg : f e = some g) (ht : g (putSliver v s) = t) :
    finish s (sliverStep n f s) = .next (settled s t) :=
  finish_of_eq (by simp only [sliverStep, h, hg, ht])

/-! ## What each request does -/

section Requests
variable {s s1 t : State} {key : BlockKey} {run block tenant mask seq ptr : Nat} {hit : Option Hit}

/-- A pin request whose block is not found. -/
theorem applyPin_none (h : resolveBlock key tenant mask hit s = (none, s1)) :
    applyPin run block key tenant mask hit seq s = coreAnswer run block key none s1 := by
  simp only [applyPin, h]

/-- A pin request whose block is found, for a run that still waits for it or for one that has gone. -/
theorem applyPin_some {x : Nat × Nat} (h : resolveBlock key tenant mask hit s = (some x, s1)) :
    applyPin run block key tenant mask hit seq s = if wantsPin (takePin x.1 seq s1) run block key
      then coreAnswer run block key (some x) (takePin x.1 seq s1) else dropPin x.1 (takePin x.1 seq s1) := by
  simp only [applyPin, h]

/-- The last pin of an unkeyed node takes it along, unless it is dying already. -/
theorem applyPinDrop_eq {u : State} {m : Node} (hu : u = readNode ptr s)
    (ht : t = setNode ptr (fun m => { m with pinCount := pinCountOf u m - 1, pinGen := u.sec.resetGen, lastReq := seq })
      { u with index := { u.index with dropsInFlight := u.index.dropsInFlight - 1 } })
    (hm : findNode t ptr = some m) :
    applyPinDrop ptr seq s = if !m.keyed && m.pinCount == 0 && !m.dying then retireNode ptr (dropAll ptr t) else t := by
  subst hu
  subst ht
  simp only [applyPinDrop]
  rw [hm]

/-- A purge request marks a node that is neither purged nor dying. -/
theorem applyPurge_fresh {slot : Option Nat} {m : Node} (hm : findNode (readNode ptr s) ptr = some m) (hp : m.purged = false)
    (hd : m.dying = false) :
    applyPurge ptr slot seq s = answered slot true (purgeNode ptr (noteReq ptr seq (readNode ptr s))) := by
  simp [applyPurge, hm, hp, hd]

/-- The core reads the node of the transfer that it commits. -/
theorem applyCommit_eq {id : Nat} {m : Move} (hm : findMove s id = some m) :
    applyCommit id seq s = commitMove id seq (readNode m.ptr s) := by
  simp only [applyCommit, hm, Option.map_some, Option.getD_some]

/-- An unanswered insert request, that finds a slot or must wait. -/
theorem serveInsert_eq {slot : Nat} {g : Ingest} {j : Job} {pr : Profile} {taken : Bool}
    (hu : unanswered s slot block = some (g, j, pr)) (ha : applyInsert g j pr block seq s = (taken, t)) :
    serveInsert slot block seq s = (taken, if taken then answersIn g.index slot t else t) := by
  simp only [serveInsert, hu, ha]

/-- An unanswered skip request. -/
theorem serveSkip_eq {slot : Nat} {g : Ingest} {j : Job} {pr : Profile} (hu : unanswered s slot block = some (g, j, pr)) :
    serveSkip slot block seq s = answersIn g.index slot (applySkip g j block seq s) := by
  simp only [serveSkip, hu]

end Requests

/-- Settles O31: each request is the core's next, and meets what its node, transfer or ingest is. -/
theorem reelCoresServeRequests : Obligations.ReelCoresServeRequests := by
  unfold Obligations.ReelCoresServeRequests
  refine ⟨?confirm, ?pin, ?score, ?pinDrop, ?stateCommit, ?insert⟩
  case confirm =>
    intro s n run block tenant mask key hit e v hnext hreq
    exact finish_sliverStep hnext (applyConfirm run block key tenant mask hit) (by simp only [hreq]) rfl
  case pin =>
    intro s s1 n run block tenant mask key hit e v hnext hreq
    have hpin {t : State} (h : applyPin run block key tenant mask hit e.seq (putSliver v s) = t) :
        exec (.sliverPin n) s = .next (settled s t) :=
      finish_sliverStep hnext (applyPin run block key tenant mask hit e.seq) (by simp only [hreq]) h
    refine ⟨fun hnone => hpin (applyPin_none hnone), fun ptr h hsome => ⟨fun hwants => ?_, fun hgone => ?_⟩⟩
    · exact hpin ((applyPin_some hsome).trans (if_pos hwants))
    · exact hpin ((applyPin_some hsome).trans (if_neg (by simp [hgone])))
  case score =>
    rintro s t n ptr e v hnext hreq rfl
    exact finish_sliverStep hnext (applyScore ptr e.seq) (by simp only [hreq]) rfl
  case pinDrop =>
    intro s u t n ptr m e v hnext hreq hu ht hm
    have hdrop {w : State} (h : applyPinDrop ptr e.seq (putSliver v s) = w) :
        exec (.sliverPinDrop n) s = .next (settled s w) :=
      finish_sliverStep hnext (applyPinDrop ptr e.seq) (by simp only [hreq]) h
    refine ⟨fun hstays => hdrop ((applyPinDrop_eq hu ht hm).trans (if_neg ?_)), fun hk hc hd =>
      hdrop ((applyPinDrop_eq hu ht hm).trans (if_pos (by simp [hk, hc, hd])))⟩
    rcases hstays with hk | hc | hd
    · simp [hk]
    · simp [hc]
    · simp [hd]
  case stateCommit =>
    intro s n e v hnext
    refine ⟨fun id m hreq hm => ?_, fun ptr slot arg hreq => ?_, fun ptr slot m hreq hm hp hd => ?_, fun ptr g tier slot hreq => ?_,
      fun ptr hreq => ?_⟩
    · exact finish_sliverStep hnext (fun s => goOn (applyCommit id e.seq s)) (by simp only [hreq])
        (congrArg goOn (applyCommit_eq (s := putSliver v s) hm))
    · exact finish_sliverStep hnext (applyHint ptr slot arg e.seq) (by simp only [hreq]) rfl
    · exact finish_sliverStep hnext (fun s => goOn (applyPurge ptr slot e.seq s)) (by simp only [hreq])
        (congrArg goOn (applyPurge_fresh hm hp hd))
    · exact finish_sliverStep hnext (fun s => goOn (applyDropCopy ptr g tier slot e.seq s)) (by simp only [hreq]) rfl
    · exact finish_sliverStep hnext (fun s => goOn (applyDropNode ptr e.seq s)) (by simp only [hreq]) rfl
  case insert =>
    intro s t n slot block g j pr e v hnext hun
    refine ⟨fun hreq ha => ?_, fun hreq ha => ?_, fun hreq => ?_⟩
    · exact finish_sliverStep hnext _ (by simp only [hreq]; rfl) (by simp only [serveInsert_eq hun ha, if_true])
    · exact finish_sliverStep hnext _ (by simp only [hreq]; rfl)
        (by simp only [serveInsert_eq hun ha, Bool.false_eq_true, if_false])
    · exact finish_sliverStep hnext (serveSkip slot block e.seq) (by simp only [hreq]) (serveSkip_eq hun)

/-! ## Cores unasked -/

/-- What a visit to a node that reads well does, by the node's age. -/
theorem doSliverNodeVisit_eq {s t : State} {ptr : Nat} {n : Node} (ht : t = readNode ptr s) (hn : findNode t ptr = some n) :
    let u := if 4096 ≤ ageOf t n then setNode ptr (fun m => { m with score := 0 }) t else t
    doSliverNodeVisit ptr s = if decide (1024 ≤ ageOf t n) && n.entryPresent && !removeDue u ptr then askRemove n u else u := by
  subst ht
  simp only [doSliverNodeVisit, hn]

/-- Settles O32: an offer and a spare's replay are the model's own; a visit splits at the node's age. -/
theorem reelCoresActUnasked : Obligations.ReelCoresActUnasked := by
  unfold Obligations.ReelCoresActUnasked
  refine ⟨?offer, ?visit, ?watchdog⟩
  case offer => exact fun s n want => rfl
  case visit =>
    intro s t ptr n ht hn
    refine ⟨fun hyoung => ?_, fun hold hle hpresent hdue => ?_, fun hold habsent => ?_⟩
    all_goals refine finish_of_eq ((doSliverNodeVisit_eq ht hn).trans ?_)
    · simp [show ¬ 4096 ≤ ageOf t n by omega, show ¬ 1024 ≤ ageOf t n by omega]
    · simp [show ¬ 4096 ≤ ageOf t n by omega, hold, hpresent, hdue]
    · simp [hold, habsent]
  case watchdog =>
    intro s core hactive
    exact finish_of_eq (if_pos hactive)

end Sys2Proof.Machine
end

section
/-! Obligations O35 and O36: stop-alls and resets, and the tier manager's own work. -/
namespace Sys2Proof.Machine

/-! ## Faults beyond a unit (R437 to R448) -/

/-- Settles O35: each fault row at a step, a transition or a power state in which it acts. -/
theorem stopAllsAndResetFaults : Obligations.StopAllsAndResetFaults := by
  unfold Obligations.StopAllsAndResetFaults
  refine ⟨?control, ?restart, ?rootOfTrust, ?sram⟩
  case control =>
    intro s hstep
    have hearly : ¬ s.power.step < 5 := Nat.not_lt.mpr hstep
    refine ⟨finish_of_eq (if_pos hstep), fun source detail h1 h6 => ?_, fun detail => ?_, fun detail => ?_⟩
    · exact finish_of_eq (by simp [hearly, h1, h6])
    · exact finish_of_eq (if_neg hearly)
    · exact finish_of_eq (if_neg hearly)
  case restart =>
    intro s htransition
    exact finish_of_eq (if_pos htransition)
  case rootOfTrust =>
    intro s kind cause hstep
    have hoff : ¬ (s.power.step == 0) = true := by simp [hstep]
    exact ⟨finish_of_eq (if_neg hoff), finish_of_eq (if_neg hoff)⟩
  case sram =>
    intro s corrected uncorrectable victims hclocks
    have hon : ¬ (!s.power.clocksOn) = true := by simp [hclocks]
    exact ⟨finish_of_eq (if_neg hon), finish_of_eq (if_neg hon)⟩

/-! ## Patrol findings (R161, R438) -/

/-- An uncorrectable finding in an extent of a node is a data error of that extent. -/
theorem scrubBad_extent {s : State} {node grp : Nat} {n : Node} (tier : Tier) (hnode : node < weightsName)
    (hn : findNode s node = some n) (hgrp : grp < n.groups.length) : scrubBad node grp tier s = dataError node grp tier s := by
  simp [scrubBad, hn, hgrp, Nat.not_le.mpr hnode]

/-- A finding in codec weights names their profile and layer. -/
theorem scrubBad_weights {s : State} {node grp : Nat} (tier : Tier) (hnode : weightsName ≤ node) :
    scrubBad node grp tier s = weightsBad ((node - weightsName) / 256) ((node - weightsName) % 256) tier s :=
  if_pos hnode

/-! ## Epochs (R402) -/

/-- The epochs of a tenant are filed under that tenant. -/
theorem epochsOf_tenant (s : State) (t : Nat) : (epochsOf s t).tenant = t := by
  unfold epochsOf
  cases hfind : s.persist.epochs.find? fun e => e.tenant == t with
  | none => rfl
  | some e => simpa using List.find?_some hfind

/-- The epochs stored for a tenant are the ones read back. -/
theorem epochsOf_putEpochs (e : Epochs) (s : State) : epochsOf (putEpochs e s) e.tenant = e := by
  simp [epochsOf, putEpochs]

/-- `putEpochs` writes what persists only. -/
theorem putEpochs_sec (e : Epochs) (s : State) : (putEpochs e s).sec = s.sec := rfl

/-- The epochs of a state depend on what persists only. -/
theorem epochsOf_congr {s u : State} (h : s.persist = u.persist) (t : Nat) : epochsOf s t = epochsOf u t := by
  simp only [epochsOf, h]

/-- The state after the oldest epoch of a tenant is retired. -/
def retireOldest (t : Nat) (s : State) : State :=
  let s1 := putEpochs { epochsOf s t with oldest := (epochsOf s t).oldest + 1 } s
  { s1 with sec := { s1.sec with memKeys := s1.sec.memKeys.filter fun k => k != (t, (epochsOf s t).oldest) } }

theorem retireOldest_epochsOf (t : Nat) (s : State) :
    epochsOf (retireOldest t s) t = { epochsOf s t with oldest := (epochsOf s t).oldest + 1 } := by
  have h := epochsOf_putEpochs { epochsOf s t with oldest := (epochsOf s t).oldest + 1 } s
  rw [show ({ epochsOf s t with oldest := (epochsOf s t).oldest + 1 } : Epochs).tenant = t from epochsOf_tenant s t] at h
  exact (epochsOf_congr rfl t).trans h

/-- Settles O36: each row of the tier manager under its own condition. -/
theorem tierManagerWorks : Obligations.TierManagerWorks := by
  unfold Obligations.TierManagerWorks
  refine ⟨?evict, ?patrol, ?oldGeneration, ?reseal, ?retire⟩
  case evict => exact fun s => ⟨rfl, rfl, rfl⟩
  case patrol =>
    intro s tier node grp row
    refine ⟨rfl, rfl, rfl, rfl, fun n hnode hn hgrp => ⟨?_, ?_, ?_, ?_⟩, fun hnode => ?_⟩
    · exact finish_of_eq (congrArg goOn (scrubBad_extent .t1 hnode hn hgrp))
    · exact finish_of_eq (congrArg goOn (scrubBad_extent .t2 hnode hn hgrp))
    · exact finish_of_eq (congrArg goOn (scrubBad_extent .t3 hnode hn hgrp))
    · exact finish_of_eq (congrArg goOn (scrubBad_extent tier hnode hn hgrp))
    · exact finish_of_eq (congrArg goOn (scrubBad_weights tier hnode))
  case oldGeneration =>
    intro s ptr n hn hgen hpins hunheld hdying
    exact finish_of_eq (by simp [hn, oldGeneration, hgen, hpins, hunheld, hdying])
  case reseal =>
    rintro s t ptr n copies hn hable rfl
    refine ⟨fun hnone => finish_of_eq ?_, fun hsome hfold => finish_of_eq ?_⟩
    · simp only [doResealNode, hn, hable, Bool.not_true, Bool.false_eq_true, if_false, hnone, List.isEmpty_nil, if_true]
    · simp only [doResealNode, hn, hable, Bool.not_true, Bool.false_eq_true, if_false, List.isEmpty_eq_false_iff.mpr hsome]
      exact congrArg (Option.getD · s) hfold
  case retire =>
    intro s tenant epoch holdest hlive hpages hprofiles hweights hflushed hrecovering hstep
    refine ⟨settled s (retireOldest tenant.toNat s), finish_of_eq (if_pos ?_), ?_, ?_⟩
    · have hnoProfile : (s.eng.profiles.any fun p => p.tenant == tenant.toNat && hasWeights p.desc
          && p.sealEpoch == (epochsOf s tenant.toNat).oldest) = false := by
        rw [← holdest, List.any_eq_not_all_not, hprofiles]; rfl
      have hnoWeights : (s.persist.weights.any fun w => w.tenant == tenant.toNat
          && w.sealEpoch == (epochsOf s tenant.toNat).oldest) = false := by
        rw [← holdest, List.any_eq_not_all_not, hweights]; rfl
      simp [holdest, hlive, hpages, hnoProfile, hnoWeights, hflushed, hrecovering, hstep]
    · rw [holdest, ← retireOldest_epochsOf]
      exact epochsOf_congr (settled_persist _ _) _
    · rw [settled_sec, holdest]
      rfl

end Sys2Proof.Machine
end

section
/-! Obligations O37 to O39: NAND operations, the journal and its images, and garbage collection. -/
namespace Sys2Proof.Machine

/-! ## Programs, reads and erases (R264, R277 to R282) -/

/-- The slots that an unreadable extent may lose are those of its first run. -/
theorem execNandReadDone_lost {s t : State} {node grp retries slot part : Nat} {rain : Bool}
    {r : Nat × Nat × List (Nat × Nat)} {n : Node} {run : Nat × Nat} {rest : List (Nat × Nat)}
    (hr : s.flash.reads.find? (fun r => r.1 == node && r.2.1 == grp) = some r) (hruns : nandRuns s (.read node grp) = true)
    (ht : t = countFlash 4 (flagBit rain 0) (countFlash 3 retries (dropRead node grp { s with flash := { s.flash with
        bands := s.flash.bands.map fun b => if r.2.2.contains (b.row, b.index) then { b with reads := b.reads + 1 } else b } })))
    (hn : findNode s node = some n) (hrun : flashRun n grp = run :: rest)
    (hslot : (runSlots run.1 run.2)[Config.lostSlot s.free % max (runSlots run.1 run.2).length 1]? = some (slot, part)) :
    execNandReadDone node grp retries rain false s = finish s (goOn (loseSlot slot { t with free := s.free + 1 })) := by
  subst ht
  have hsame : findNode (useFree (countFlash 4 (flagBit rain 0) (countFlash 3 retries (dropRead node grp { s with flash := { s.flash with
      bands := s.flash.bands.map fun b => if r.2.2.contains (b.row, b.index) then { b with reads := b.reads + 1 } else b } })))).2 node
      = some n := hn
  have hfree : (useFree (countFlash 4 (flagBit rain 0) (countFlash 3 retries (dropRead node grp { s with flash := { s.flash with
      bands := s.flash.bands.map fun b => if r.2.2.contains (b.row, b.index) then { b with reads := b.reads + 1 } else b } })))).1
      = s.free := rfl
  simp only [execNandReadDone, hr, hruns, Bool.not_true, Bool.false_eq_true, if_false, hsame, hfree, Option.map_some, hrun, hslot]
  rfl

/-- The read of an extent that reads well carries its transfer on. -/
theorem execNandReadDone_carried {s t : State} {node grp retries : Nat} {rain : Bool} {r : Nat × Nat × List (Nat × Nat)} {m : Move}
    (hr : s.flash.reads.find? (fun r => r.1 == node && r.2.1 == grp) = some r) (hruns : nandRuns s (.read node grp) = true)
    (ht : t = countFlash 4 (flagBit rain 0) (countFlash 3 retries (dropRead node grp { s with flash := { s.flash with
        bands := s.flash.bands.map fun b => if r.2.2.contains (b.row, b.index) then { b with reads := b.reads + 1 } else b } })))
    (hm : s.tiers.moves.find? (fun m => m.ptr == node && m.group == grp && m.src == .t3) = some m) :
    execNandReadDone node grp retries rain true s = finish s (startStep m.id .carry t) := by
  have hmoves : t.tiers.moves = s.tiers.moves := by rw [ht]; rfl
  simp only [execNandReadDone, hr, hruns, Bool.not_true, Bool.false_eq_true, if_false, if_true, ← ht, hmoves, hm]

/-- Settles O37: each operation runs on its channels, and ends by what it was for. -/
theorem flashProgramsAndReadsEnd : Obligations.FlashProgramsAndReadsEnd := by
  unfold Obligations.FlashProgramsAndReadsEnd
  refine ⟨?programs, ?reads, ?erased, ?eraseFailed, ?silent⟩
  case programs =>
    intro s id p hp hruns
    constructor
    · change execNandProgramDone id s = _
      simp only [execNandProgramDone, hp, hruns, if_true, finish_eq]
    · change execNandProgramFail id s = _
      simp only [execNandProgramFail, hp, hruns, Bool.not_true, Bool.false_eq_true, if_false, finish_eq]
  case reads =>
    intro s t node grp retries rain r hr hruns ht
    refine ⟨fun m hm => execNandReadDone_carried hr hruns ht hm, fun n run rest x hn hrun hslot => ?_⟩
    exact execNandReadDone_lost hr hruns ht hn hrun hslot
  case erased =>
    rintro s band b rfl hstate hruns
    change execNandEraseDone band s = _
    simp only [execNandEraseDone, hstate, hruns, bne_self_eq_false, Bool.not_true, Bool.or_self, Bool.false_eq_true, if_false, finish_eq,
      erasedBand]
  case eraseFailed =>
    intro s die plane block hstate hruns
    exact if_pos (by simp [hstate, hruns])
  case silent =>
    intro s die hftl hdie
    exact if_pos (by simp [hftl, hdie])

/-! ## The journal and its images (R266 to R270) -/

/-- An operation that is asked for is listed until it ends, issued or not. -/
theorem settled_queueNand_has (s v : State) (j : NandJob) (dies : List Nat) :
    (settled s (queueNand j dies v)).flash.ops.any (fun o => o.job == j) = true := by
  have hjobs : (issueNand (queueNand j dies v)).flash.ops.map (·.job) = v.flash.ops.map (·.job) ++ [j] := by
    simp [issueNand_jobs, queueNand]
  have hmem : j ∈ (issueNand (queueNand j dies v)).flash.ops.map (·.job) := by simp [hjobs]
  obtain ⟨o, ho, hj⟩ := List.mem_map.mp hmem
  rw [settled_flash_ops]
  exact List.any_eq_true.mpr ⟨o, ho, by simp [hj]⟩

/-- What a flush writes, once the bands of the streams are reserved: the pending records, the index journal and the counters. -/
def flushRecs (t : State) : List JournalRec :=
  t.flash.pendingRecs ++ t.index.journalBuf.map JournalRec.index
    ++ [.counters t.flash.writeSeq t.tiers.writeNo t.persist.credit t.persist.theta]

/-- The state in which a flush of `t`'s records is under way. -/
def startFlush (t : State) : State :=
  queueNand .flush (flushDies t false (flushRecs t)) { t with
    index := { t.index with journalBuf := [] },
    flash := { t.flash with
      pendingRecs := [], flushing := some (flushRecs t), mapRecs := 0, markerDue := false,
      gcInFlush := t.flash.gcVictim.isSome && t.flash.gcLeft.isEmpty && !((t.flash.gcVictim.map (copiesFrom t)).getD false) } }

theorem execJournalFlush_due {s : State} (hftl : ftlRuns s = true) (hnone : s.flash.flushing = none) (hdue : flushDue s = true) :
    execJournalFlush s = finish s (startFlush ((s.flash.bands.filter fun b => b.state == .openBand).foldl
      (fun u b => reserveBand b.row b.stream u) s)) :=
  if_neg (by simp [hftl, hnone, hdue])

/-- Settles O38: a due flush takes the records along, and each image replaces what it covers. -/
theorem journalAndImagesReachFlash : Obligations.JournalAndImagesReachFlash := by
  unfold Obligations.JournalAndImagesReachFlash
  refine ⟨?flush, ?flushed, ?segment, ?directory, ?chunk⟩
  case flush =>
    intro s t hftl hnone hdue ht
    refine ⟨settled s (startFlush t), ?_, ?_, ?_, ?_, ?_, ?_, ?_⟩
    · rw [ht]
      exact execJournalFlush_due hftl hnone hdue
    · rw [settled_index]; rfl
    · rw [settled_flash_pendingRecs]; rfl
    · rw [settled_flash_mapRecs]; rfl
    · rw [settled_flash_markerDue]; rfl
    · unfold startFlush
      exact settled_queueNand_has _ _ _ _
    · rw [settled_flash_flushing]; rfl
  case flushed =>
    intro s recs hrecs hruns
    change execJournalFlushDone s = _
    simp only [execJournalFlushDone, hrecs, hruns, if_true, finish_eq]
  case segment =>
    intro s segment hftl hdirty
    exact if_pos (by rw [hftl, hdirty]; rfl)
  case directory =>
    intro s hftl
    exact if_pos hftl
  case chunk =>
    intro s chunk hftl hstep hchanged
    have hmine : ((s.index.nodes.filter fun n => chunkOf n.ptr == chunk).any (·.changed)) = true := by
      rw [List.any_filter]
      exact hchanged
    refine ⟨settled s _, if_pos ?_, ?_⟩
    · simp [hftl, hstep, hmine]
    · rw [settled_persist]
      rfl

/-! ## Garbage collection (R272 to R274) -/

/-- Collection of a band that is due. -/
theorem execGcStart_due {s : State} {b : Band} (hftl : ftlRuns s = true) (hnone : s.flash.gcVictim = none)
    (hdue : (if freeBands s * 100 < bandCount s * 2 then fullestVictim s else s.flash.bands.find? (mustMove s)) = some b) :
    execGcStart s = .next (settled s (gcNext (validSlots s b).length { s with flash := { s.flash with
      gcVictim := some (b.row, b.index), gcLeft := validSlots s b, gcInFlush := false, gcFlushed := false } })) := by
  simp only [execGcStart, hftl, hnone, Bool.not_true, Option.isSome_none, Bool.or_self, Bool.false_eq_true, if_false, hdue, finish_eq]

/-- Settles O39: the victim is chosen by how many bands are free, and erased once nothing of it is in use. -/
theorem garbageIsCollected : Obligations.GarbageIsCollected := by
  unfold Obligations.GarbageIsCollected
  refine ⟨?few, ?mustMove, ?erase, ?patrol⟩
  case few =>
    intro s b hftl hnone hfew hb
    exact execGcStart_due hftl hnone ((if_pos hfew).trans hb)
  case mustMove =>
    intro s b hftl hnone hmany hb
    exact execGcStart_due hftl hnone ((if_neg (Nat.not_lt.mpr hmany)).trans hb)
  case erase =>
    intro s v hftl hv hflushed hleft hvalid hcopies hreads
    have hidle : (s.flash.reads.any fun r => r.2.2.contains v) = false := by
      rw [List.any_eq_not_all_not, hreads]; rfl
    change execGcErase s = _
    simp only [execGcErase, hv]
    exact if_pos (by rw [hftl, hflushed, hleft, hvalid, hcopies, hidle]; rfl)
  case patrol =>
    rintro s band retrySteps b hftl rfl hclosed
    exact if_pos (by simp [hftl, hclosed])

end Sys2Proof.Machine
end

section
/-! Obligations O40 and O41: the cut marker, and parked commands that go on. -/
namespace Sys2Proof.Machine

/-! ## The cut marker (R454) -/

/-- The state after a marker, before what is due at it: a slate number taken, the snapshots made, the next window open. -/
def nextWindow (s : State) : State :=
  { takeSnapshots (countThrottle (tick s)) with
    clk := { (takeSnapshots (countThrottle (tick s))).clk with window := s.clk.window + 1 } }

theorem execCutMarker_on {s : State} (hclocks : s.power.clocksOn = true) :
    execCutMarker s = finish s (if 7 ≤ s.power.step && s.power.flushing.isNone then atMarker (nextWindow s) else nextWindow s) :=
  congrArg (finish s) (if_neg (by simp [hclocks]))

/-- Settles O40: the step of start-up decides what a marker does beyond closing its window. -/
theorem cutMarkerClosesWindow : Obligations.CutMarkerClosesWindow := by
  unfold Obligations.CutMarkerClosesWindow
  refine ⟨fun s hclocks hstep hflush => ?_, fun s hclocks hstep => ⟨settled s (nextWindow s), ?_, ?_, ?_⟩⟩
  · exact (execCutMarker_on hclocks).trans (finish_of_eq (if_pos (by simp [hstep, hflush])))
  · exact (execCutMarker_on hclocks).trans (finish_of_eq (if_neg (by simp [Nat.not_le.mpr hstep])))
  · rw [settled_clk]; rfl
  · rw [settled_clk]; rfl

/-! ## Parked commands (R18) -/

/-- A command that the wait table returns goes, behind the ready commands of LC, through the control complex. -/
theorem wakeSlot_returns {s : State} {slot : Nat} {c : Cmd} (hc : findCmd s slot = some c) (hreturns : returns s c = true) :
    wakeSlot slot s = runControl ((readyLc s c).length + 1) ((readyLc s c ++ [slot]).foldl (fun t i =>
      queueUnit .control (newUnit (((findCmd t i).map (·.cls)).getD .be) (.step i) 0 0) t) s) := by
  simp only [wakeSlot, hc, hreturns, Bool.not_true, Bool.false_eq_true, if_false, List.length_append, List.length_singleton]

/-- A command whose wait goes on. -/
theorem wakeSlot_stays {s : State} {slot : Nat} {c : Cmd} (hc : findCmd s slot = some c) (hstays : returns s c = false) :
    wakeSlot slot s = fetchAll (goOn s) := by
  simp only [wakeSlot, hc, hstays, Bool.not_false, if_true]

/-- A command that returns alone to an idle control complex runs at once. -/
theorem wakeSlot_alone {s : State} {slot : Nat} {c : Cmd} {x : CommandParts} (hc : findCmd s slot = some c)
    (hx : partsOf c.instr = some x) (hlcq : s.eng.control.lcq = []) (hbeq : s.eng.control.beq = [])
    (hidle : idleInst s.eng.control ≠ none) (hnone : readyLc s c = []) (hreturns : returns s c = true) :
    wakeSlot slot s = fetchAll (goOn (wakeCommand c x.run s)) := by
  rw [wakeSlot_returns hc hreturns, hnone]
  calc runControl 1 (queueUnit .control (newUnit (((findCmd s slot).map (·.cls)).getD .be) (.step slot) 0 0) s)
      = skometStep (.step slot) s := runControl_alone slot _ s hlcq hbeq hidle
    _ = fetchAll (goOn (wakeCommand c x.run s)) := by simp only [skometStep, hc, hx]

/-- Settles O41: alone a command runs directly, otherwise through the queues of the control complex. -/
theorem parkedCommandsGoOn : Obligations.ParkedCommandsGoOn := by
  unfold Obligations.ParkedCommandsGoOn
  refine ⟨?alone, ?queued⟩
  case alone =>
    intro s slot c x hc hx hlcq hbeq hidle hnone
    refine ⟨fun hwait hdue => finish_of_eq ?_, fun hwait => finish_of_eq ?_⟩
    · rw [wakeSlot_alone hc hx hlcq hbeq hidle hnone (by simp [returns, hdue])]
      simp only [wakeCommand, beq_iff_eq, hwait, hdue, if_false, if_true]
    · rw [wakeSlot_alone hc hx hlcq hbeq hidle hnone (by simp [returns, hwait])]
      simp only [wakeCommand, hwait, beq_self_eq_true, if_true]
  case queued =>
    intro s slot c hc
    exact ⟨fun h => finish_of_eq (wakeSlot_returns hc h), fun h => finish_of_eq (wakeSlot_stays hc h)⟩

end Sys2Proof.Machine
end

section
/-! Obligations O42 to O45: start-up, power events, temperature and the recovery service. -/
namespace Sys2Proof.Machine

/-! ## What leaves the power state as it is -/

/-- What each step of a fold keeps, the fold keeps. -/
theorem foldl_keeps {α β : Type} (g : State → β) (f : State → α → State) (hf : ∀ s a, g (f s a) = g s) (l : List α)
    (s : State) : g (l.foldl f s) = g s := by
  induction l generalizing s with
  | nil => rfl
  | cons a l ih => exact (ih (f s a)).trans (hf s a)

theorem applyModes_power (s : State) : (applyModes s).power = s.power :=
  foldl_keeps (·.power) (fun s n => applyMode n s) (fun _ _ => rfl) (List.range 4) s

theorem sendMsix_power (port link fn v : Nat) (s : State) : (sendMsix port link fn v s).power = s.power := by
  unfold sendMsix
  split
  · rfl
  · split <;> rfl

theorem setFuncEvent_power (bit : Nat) (s : State) : (setFuncEvent bit s).power = s.power :=
  foldl_keeps (·.power) _ (fun _ _ => sendMsix_power _ _ _ _ _) _ _

theorem thermalEvent_power (what sensor tj : Nat) (s : State) : (thermalEvent what sensor tj s).power = s.power :=
  setFuncEvent_power _ _

/-! ## Start-up (Table 17.8) -/

/-- The clocks are entered from step 1 with no reset held and no trip standing. -/
theorem enterClocks_free {s : State} (hstep : s.power.step = 1) (hreset : s.power.resetIn = false) (htrip : s.power.thermTrip = false) :
    enterClocks s = setPower (fun p => { p with step := 2, sagWarn := false }) s :=
  if_pos (by simp [hstep, hreset, htrip])

/-- The power state of step 1, as STARTUP leaves it. -/
def startedPower (vinMv : Nat) (sel : Bool) (p : Power) : Power :=
  { p with step := 1, vinMv := vinMv, overVolt := false, sagArmed := true, nandVcc := some (p.nandVcc.getD sel),
           fullChipStarts := p.fullChipStarts + 1 }

/-- The state of step 1, with the ports as their recorded blocks have them. -/
def started (vinMv : Nat) (sel : Bool) (s : State) : State :=
  applyModes { s with power := startedPower vinMv sel s.power, cfg := { s.cfg with ports := s.persist.config.ports } }

theorem execStartup_ready {s : State} {vinMv : Nat} {sel : Bool} (hstep : s.power.step = 0)
    (hvolt : s.power.overVolt = false ∨ vinMv < 65000) :
    execStartup vinMv sel s = finish s (enterClocks (started vinMv sel s)) := by
  refine congrArg (finish s) (if_neg ?_)
  rcases hvolt with h | h
  · simp [hstep, h]
  · simp [hstep, Nat.not_le.mpr h]

/-- Steps 1 to 3 follow one another. -/
theorem startup_reaches_clocks {s : State} {vinMv : Nat} {sel : Bool} (hstep : s.power.step = 0)
    (hvolt : s.power.overVolt = false ∨ vinMv < 65000) (hreset : s.power.resetIn = false) (htrip : s.power.thermTrip = false) :
    ∃ t, exec (.startup vinMv sel) s = .next t ∧
      t.power = { startedPower vinMv sel s.power with step := 2, sagWarn := false } := by
  have hpower : (started vinMv sel s).power = startedPower vinMv sel s.power := applyModes_power _
  have hclocks : enterClocks (started vinMv sel s)
      = setPower (fun p => { p with step := 2, sagWarn := false }) (started vinMv sel s) :=
    enterClocks_free (by rw [hpower]; rfl) (by rw [hpower]; exact hreset) (by rw [hpower]; exact htrip)
  refine ⟨settled s _, (execStartup_ready hstep hvolt).trans rfl, ?_⟩
  rw [settled_power, hclocks, setPower_power, hpower]

/-- At lock the clocks run, and the strap is sampled unless the release of RESET_IN_N has sampled it. -/
theorem execPllLock_atStep2 {s : State} {strapHigh : Bool} (hstep : s.power.step = 2) :
    ∃ t, execPllLock strapHigh s = .next t ∧ t.power.step = 3 ∧ t.power.clocksOn = true ∧
      t.boot.strapLow = if s.boot.strapSampled then s.boot.strapLow else !strapHigh := by
  refine ⟨settled s _, finish_of_eq (if_neg (by simp [hstep])), ?_⟩
  rw [settled_power, settled_boot]
  cases s.boot.strapSampled <;> exact ⟨rfl, rfl, rfl⟩

/-- A boot that starts the firmware of a slot. -/
theorem execBootVerifyDone_slot {s : State} {n : Nat} {b : Boot} (hstep : s.power.step = 3) (hstrap : s.boot.strapLow = false)
    (hslot : bootSlot s.boot = some (n, b)) :
    execBootVerifyDone s = .next (settled s
      { s with power := { s.power with step := 5, stopCause := 0 }, boot := { b with running := some n } }) :=
  finish_of_eq (by simp [hstep, hstrap, hslot])

/-- A boot that ends in the recovery service. -/
theorem execBootVerifyDone_recovery {s : State} (hstep : s.power.step = 3) (h : s.boot.strapLow = true ∨ bootSlot s.boot = none) :
    execBootVerifyDone s = .next (settled s { s with power := { s.power with step := 4 }, boot := { s.boot with recovery := true } }) := by
  refine finish_of_eq ?_
  cases hstrap : s.boot.strapLow with
  | true => simp [hstep]
  | false => simp [hstep, h.resolve_left (by simp [hstrap])]

/-- Settles O42: each start-up row at its own step. -/
theorem startUpStepsFollow : Obligations.StartUpStepsFollow := by
  unfold Obligations.StartUpStepsFollow
  refine ⟨?startup, ?lock, ?boot, ?recovery, ?trained, ?stopped, ?ftl, ?load, ?replay⟩
  case startup =>
    intro s vinMv sel hstep hvolt hreset htrip
    obtain ⟨t, hexec, hpower⟩ := startup_reaches_clocks (sel := sel) hstep hvolt hreset htrip
    exact ⟨t, hexec, by simp [hpower, startedPower]⟩
  case lock => exact fun s strapHigh hstep => execPllLock_atStep2 hstep
  case boot => exact fun s n b hstep hstrap hslot => execBootVerifyDone_slot hstep hstrap hslot
  case recovery => exact fun s hstep h => execBootVerifyDone_recovery hstep h
  case trained =>
    intro s pop hstep hcause hfits
    refine finish_of_eq ((if_neg (by simp [hstep, hcause])).trans (if_pos (by simp [hfits])))
  case stopped =>
    intro s pop hstep hcause hstops
    have hbad : ¬ (trainingCause pop == 0) = true := by simp [hstops]
    refine ⟨settled s (trainMemory pop s), finish_of_eq ((if_neg (by simp [hstep, hcause])).trans (if_neg hbad)), ?_, ?_⟩
    · rw [settled_power]; rfl
    · rw [settled_power]; exact if_neg hbad
  case ftl =>
    intro s hstep hflush hmedia
    refine finish_of_eq (if_pos ?_)
    rcases hmedia with h | h <;> simp [hstep, hflush, h]
  case load => exact fun s hstep hflush => finish_of_eq (if_neg (by simp [hstep, hflush]))
  case replay => exact fun s hstep hflush => finish_of_eq (if_neg (by simp [hstep, hflush]))

/-! ## Power events (R461 to R463, R472, R475) -/

/-- Settles O43: each power event in the state of the supply and of the flush that it names. -/
theorem powerEventsReset : Obligations.PowerEventsReset := by
  unfold Obligations.PowerEventsReset
  refine ⟨?sag, ?flushEnd, ?belowReset, ?overVoltage, ?clocks, ?resetIn, ?release⟩
  case sag =>
    intro s vinMv harmed hstep
    have hon : ¬ (s.power.step == 0) = true := by simp; omega
    exact finish_of_eq (((if_neg (by simp [harmed])).trans (if_neg hon)).trans (congrArg (flushOrReset 2) (if_pos hstep)))
  case flushEnd => exact fun s cause hflush => finish_of_eq (if_pos (by simp [hflush]))
  case belowReset => exact fun s vinMv => rfl
  case overVoltage => exact fun s vinMv hstep => finish_of_eq (if_neg (by simp [hstep]))
  case clocks =>
    intro s hclocks href
    exact ⟨finish_of_eq (if_pos (by simp [hclocks, href])), finish_of_eq (if_pos (by simp [hclocks, href]))⟩
  case resetIn =>
    intro s hreset
    have hhigh : ¬ s.power.resetIn = true := by simp [hreset]
    refine ⟨fun h => finish_of_eq ((if_neg hhigh).trans (if_pos ?_)), fun hflush hstep =>
      finish_of_eq ((if_neg hhigh).trans (if_neg (by simp [hflush, hstep])))⟩
    rcases h with h | h
    · simp [Option.isSome_iff_ne_none, h]
    · simp [h]
  case release => exact fun s strapHigh hreset => finish_of_eq (if_neg (by simp [hreset]))

/-! ## Temperature (R468, R469) -/

/-- The power state after a tick's reading. -/
def tickedPower (tj : Nat) (p : Power) : Power :=
  { p with skip := skipAfter tj p.skip, throttledNow := p.throttledNow || decide (0 < skipAfter tj p.skip) }

/-- Below the trip points a tick moves the skip count. -/
theorem execThermalTick_skip {s : State} {sensor tj hbm : Nat} (hclocks : s.power.clocksOn = true) (htj : tj < 1100) (hhbm : hbm < 1050) :
    ∃ t, exec (.thermalTick sensor tj hbm) s = .next t ∧ t.power.skip = skipAfter tj s.power.skip := by
  have hcool (u v : State) : (if (1100 ≤ tj || 1050 ≤ hbm) && !u.power.thermTrip then v else u) = u :=
    if_neg (by simp [Nat.not_le.mpr htj, Nat.not_le.mpr hhbm])
  refine ⟨settled s _, finish_of_eq ((if_neg (by simp [hclocks])).trans (hcool _ _)), ?_⟩
  rw [settled_power]
  split
  · rw [thermalEvent_power]; rfl
  · split
    · rw [thermalEvent_power]; rfl
    · rfl

/-- Beyond a trip point a tick at full throttle trips. -/
theorem execThermalTick_trip {s : State} {sensor tj hbm : Nat} (hclocks : s.power.clocksOn = true) (hhot : 1100 ≤ tj ∨ 1050 ≤ hbm)
    (htrip : s.power.thermTrip = false) (hskip : s.power.skip = 12) (htj : 1000 ≤ tj) :
    exec (.thermalTick sensor tj hbm) s = .next (settled s (thermalTrip sensor tj
      { s with power := { s.power with skip := 12, throttledNow := true } })) := by
  have hafter : skipAfter tj s.power.skip = 12 := by simp [skipAfter, htj, hskip]
  have hbeyond : (decide (1100 ≤ tj) || decide (1050 ≤ hbm)) = true := by simpa using hhot
  refine finish_of_eq ((if_neg (by simp [hclocks])).trans ?_)
  simp only [hafter]
  simp [hskip, setPower, hbeyond, htrip]

/-- Settles O44: the reading's range decides the skip count, the trip and the release. -/
theorem temperatureThrottlesAndTrips : Obligations.TemperatureThrottlesAndTrips := by
  unfold Obligations.TemperatureThrottlesAndTrips
  refine ⟨?throttle, ?trip, ?release⟩
  case throttle =>
    intro s sensor tj hbm hclocks htj hhbm
    obtain ⟨t, hexec, hskip⟩ := execThermalTick_skip (s := s) (sensor := sensor) hclocks htj hhbm
    refine ⟨fun hhot => ⟨t, hexec, hskip.trans (if_pos hhot)⟩, fun hcold => ⟨t, hexec, hskip.trans ?_⟩,
      fun hwarm hhot => ⟨t, hexec, hskip.trans ?_⟩⟩
    · exact (if_neg (by omega)).trans (if_pos hcold)
    · exact (if_neg (by omega)).trans (if_neg (by omega))
  case trip => exact fun s sensor tj hbm hclocks hhot htrip hskip htj => execThermalTick_trip hclocks hhot htrip hskip htj
  case release => exact fun s tj hbm htj hhbm => finish_of_eq (if_pos (by simp [htj, hhbm]))

/-! ## The recovery service (R495, R496) -/

/-- A request that the service takes is answered with what its row makes of it. -/
theorem recAnswer_served {k : State → Status × State} {s u : State} {st : Status} (hserved : recServed s = true) (hk : k s = (st, u)) :
    recAnswer k s = emit (.recovery (.done st)) u := by
  simp only [recAnswer, hserved, if_true, hk]

/-- Without the strap, a request for the media is denied. -/
theorem withMedia_denied {pop : Population} {k : State → Status × State} {s : State} (hstrap : s.boot.strapLow = false) :
    withMedia pop k s = (.denied, s) :=
  if_pos (by simp [hstrap])

/-- With the strap, on media that are trained and formatted, the request acts. -/
theorem withMedia_ready {pop : Population} {k : State → Status × State} {s : State} (hstrap : s.boot.strapLow = true)
    (htrained : s.power.trained ≠ none) (hformatted : s.persist.formatted = true) : withMedia pop k s = k s := by
  have hsome : s.power.trained.isSome = true := Option.isSome_iff_ne_none.mpr htrained
  simp [withMedia, hstrap, hsome, htrained, hformatted]

/-- Settles O45: the service is served, and the strap and the media decide. -/
theorem recoveryServiceAnswers : Obligations.RecoveryServiceAnswers := by
  unfold Obligations.RecoveryServiceAnswers
  refine ⟨?status, ?writeSlot, ?denied, ?format, ?anchor⟩
  case status => exact fun s hserved => ⟨finish_of_eq (if_pos hserved), finish_of_eq (if_pos hserved)⟩
  case writeSlot =>
    intro s image hserved hform hvalid
    exact finish_of_eq (recAnswer_served hserved (by simp [hform, hvalid]))
  case denied =>
    intro s pop hserved hstrap
    refine ⟨fun op r => finish_of_eq (recAnswer_served hserved (if_pos (by simp [hstrap]))), ?_⟩
    exact finish_of_eq (recAnswer_served hserved (withMedia_denied hstrap))
  case format =>
    intro s op pop hserved hstrap hop htrained hformatted
    have hform : ¬ (decide (2 < op.toNat) || (0 : BitVec 56) != 0) = true := by simp [Nat.not_lt.mpr hop]
    refine finish_of_eq (recAnswer_served hserved ?_)
    exact ((if_neg (by simp [hstrap])).trans (if_neg hform)).trans (withMedia_ready hstrap htrained hformatted)
  case anchor =>
    intro s pop hserved hstrap htrained hformatted hwritten
    refine ⟨settled s _, finish_of_eq (recAnswer_served hserved (withMedia_ready hstrap htrained hformatted)), ?_, ?_⟩
    · rw [settled_persist]; rfl
    · have hkept : ¬ s.persist.erased = true := by simp [hwritten]
      rw [settled_out, if_neg hkept]
      rfl

end Sys2Proof.Machine
end

section
/-! Obligations O46 to O48: management sessions, the bring-up of splice links and their messages. -/
namespace Sys2Proof.Machine

/-! ## Sessions (R483 to R487) -/

/-- Settles O46: connections by their number, handshakes by the certificate and the anchor. -/
theorem managementSessionsOpenAndClose : Obligations.ManagementSessionsOpenAndClose := by
  unfold Obligations.ManagementSessionsOpenAndClose
  refine ⟨?accepted, ?refused, ?handshake, fun s n => rfl⟩
  case accepted =>
    intro s hlink hroom
    exact finish_of_eq ((if_neg (by simp [hlink])).trans (if_neg (Nat.not_le.mpr hroom)))
  case refused =>
    intro s hlink hfull
    exact finish_of_eq ((if_neg (by simp [hlink])).trans (if_pos hfull))
  case handshake =>
    intro s n cert hopen
    refine ⟨fun hprofile => ?_, fun hprofile hloaded => ?_, fun r hprofile hloaded hrole hanchor hsame => ?_,
      fun hprofile hloaded hrole hanchor hself => ?_, fun hprofile hloaded hanchor hother => ?_⟩
    all_goals refine finish_of_eq ?_
    · simp [handshake, hopen, hprofile]
    · simp [handshake, hopen, hprofile, hloaded]
    · have hclaimed : (s.cfg.anchor == 0) = false := beq_eq_false_iff_ne.mpr hanchor
      simp only [handshake, hopen, hprofile, hloaded, hrole, hclaimed, hsame, beq_self_eq_true, Bool.not_true, Bool.false_eq_true,
        if_false, if_true]
    · simp [handshake, hopen, hprofile, hloaded, hrole, hanchor, hself]
    · have hclaimed : (s.cfg.anchor == 0) = false := beq_eq_false_iff_ne.mpr hanchor
      have hforeign : (cert.anchorDigest == s.cfg.anchor) = false := beq_eq_false_iff_ne.mpr hother
      simp only [handshake, hopen, hprofile, hloaded, hclaimed, hforeign, Bool.not_true, Bool.false_eq_true, if_false]
      split <;> rfl

/-! ## Bring-up (Table 15.1) -/

/-- Settles O47: each message meets the link's step. -/
theorem spliceLinksBringUp : Obligations.SpliceLinksBringUp := by
  unfold Obligations.SpliceLinksBringUp
  refine ⟨?hello, ?passes, ?fails, ?retries⟩
  case hello =>
    intro s port device gen nonce root p hp hstep
    refine finish_of_eq ?_
    simp only [hp, hstep, beq_self_eq_true, if_true, Option.map_some, Option.getD_some]
    rfl
  case passes =>
    intro s port r p hp hstep hpass
    refine finish_of_eq ?_
    simp only [hp, hstep, bne_self_eq_false, Bool.false_eq_true, if_false, hpass, if_true]
    rfl
  case fails =>
    intro s port r p hp hstep hfail
    refine finish_of_eq ?_
    simp only [hp, hstep, bne_self_eq_false, Bool.false_eq_true, if_false, hfail]
  case retries =>
    intro s port p hp
    refine ⟨fun hstep => ?_, fun hstep => ?_, fun contribution root hstep => ?_, fun hphy hfew => ?_, fun hphy hmany => ?_⟩
    · exact finish_of_eq (if_pos (by simp [hp, hstep]))
    · exact finish_of_eq (if_pos (by simp [hp, hstep]))
    · have hkey : (p.step == .key || p.step == .held) = true := by simpa using hstep
      exact finish_of_eq (by simp only [hp, hkey, if_true])
    · exact finish_of_eq (by simp only [hp, hphy, Bool.not_true, Bool.false_eq_true, if_false, Nat.not_le.mpr hfew])
    · exact finish_of_eq (by simp only [hp, hphy, Bool.not_true, Bool.false_eq_true, if_false, hmany, if_true])

/-! ## Messages (R429 to R434) -/

section Receive
variable {s : State} {port : Nat} {env : Envelope} {b : SpliceBody} {k : State → State} (hup : spliceUp s port = true)
include hup

/-- A message for this device is taken. -/
theorem receiveSplice_here (htag : env.tagOk = true) (hdst : env.dstDevice.toNat = s.cfg.deviceNumber) :
    receiveSplice port env b k s = k s := by
  simp [receiveSplice, hup, htag, hdst]

/-- A message for another device is relayed, with one relay more. -/
theorem receiveSplice_relayed (htag : env.tagOk = true) (hdst : env.dstDevice.toNat ≠ s.cfg.deviceNumber) (hfew : env.relays < 63) :
    receiveSplice port env b k s = (sendSplice env.srcDevice.toNat env.dstDevice.toNat (env.relays + 1) env.probes env.regGen.toNat
      (if bitOf env.spFlags.toNat 0 then .be else .lc) b s).2 := by
  simp [receiveSplice, hup, htag, hdst, Nat.not_le.mpr hfew]

/-- A message whose tag fails is counted. -/
theorem receiveSplice_badTag (htag : env.tagOk = false) : receiveSplice port env b k s = countSplice 3 s := by
  simp [receiveSplice, hup, htag]

/-- A message that was relayed too often is counted. -/
theorem receiveSplice_relayLimit (htag : env.tagOk = true) (hdst : env.dstDevice.toNat ≠ s.cfg.deviceNumber) (hmany : 63 ≤ env.relays) :
    receiveSplice port env b k s = countSplice 4 s := by
  simp [receiveSplice, hup, htag, hdst, hmany]

end Receive

/-- Settles O48: the envelope decides what becomes of a message. -/
theorem spliceMessagesTaken : Obligations.SpliceMessagesTaken := by
  unfold Obligations.SpliceMessagesTaken
  refine ⟨?here, ?relayed, ?dropped, ?expired⟩
  case here =>
    intro s port env hup htag hdst
    refine ⟨fun body => finish_of_eq (receiveSplice_here hup htag hdst), fun body => finish_of_eq (receiveSplice_here hup htag hdst),
      fun lport bytes hlport => finish_of_eq ((receiveSplice_here hup htag hdst).trans (if_pos ?_))⟩
    rw [hlport]; rfl
  case relayed =>
    intro s port env hup htag hdst hfew
    exact ⟨fun body => finish_of_eq (receiveSplice_relayed hup htag hdst hfew),
      fun body => finish_of_eq (receiveSplice_relayed hup htag hdst hfew)⟩
  case dropped =>
    intro s port env body hup
    exact ⟨fun htag => finish_of_eq (receiveSplice_badTag hup htag),
      fun htag hdst hmany => finish_of_eq (receiveSplice_relayLimit hup htag hdst hmany)⟩
  case expired =>
    intro s id k hk
    exact finish_of_eq (congrArg goOn (by simp [endCont, hk]))

end Sys2Proof.Machine
end

section
/-! Obligations O49 to O51: an unknown opcode, and the commands of jobs and models. -/
namespace Sys2Proof.Machine

/-! ## An unknown opcode (R299) -/

/-- Opcode 0 stands for every opcode that no table lists, and step 5 refuses it first. -/
theorem acceptPacket_unknown (p : Packet) (job : Option Job) (s : State) :
    acceptPacket (.unknownOpcode p) (opEarly 0) p job s = (reject job p .badOpcode 0 0 s, none) := rfl

/-- The management path has no job to authenticate. -/
theorem intake_mgmt {i : Instr} {op : OpInfo} {p : Packet} {s : State} (hpath : p.path = .mgmt) (hserved : laneServed s p = true)
    (hframing : framingOk p = true) (htransition : answersTransition s p = false) : intake i op p s = acceptPacket i op p none s := by
  simp [intake, hpath, hserved, hframing, htransition]

/-- Settles O49: the packet is delivered to intake, which refuses it at step 5. -/
theorem unknownOpcodeRefused : Obligations.UnknownOpcodeRefused := by
  unfold Obligations.UnknownOpcodeRefused
  refine ⟨fun s s0 p hdelivered => finish_of_eq (onLane_delivered _ hdelivered), fun s p hpath hserved hframing htransition => ?_⟩
  have hlane : onLane (.unknownOpcode p) p (doUnknownOpcode p) s = doUnknownOpcode p s := by simp only [onLane, hpath]
  refine finish_of_eq (hlane.trans ?_)
  rw [doUnknownOpcode, intake_mgmt hpath hserved hframing htransition, acceptPacket_unknown]

/-! ## Jobs (R305 to R308) -/

/-- A JOB_OPEN that passes every check opens its job. -/
theorem doJobOpen_passes {p : Packet} {a : JobOpenParams} {s : State} (hpath : p.path ≠ .mgmt) (hserved : laneServed s p = true)
    (hframing : framingOk p = true) (hlen : paramLen p = 0x440) (hdescs : descCount p = 0) (htransition : answersTransition s p = false)
    (hdenied : openDenied s p = false) (hgen : a.reportGen.toNat = s.sec.resetGen) (hauthentic : openAuthentic p a = true)
    (hfailure : openFailure s p a = none) : doJobOpen p a s = openJob (.jobOpen p a) p a s := by
  simp [doJobOpen, hpath, hserved, hframing, hlen, hdescs, htransition, hdenied, hgen, hauthentic, hfailure]

/-- Settles O50: each job command in its own form. -/
theorem jobCommandsComplete : Obligations.JobCommandsComplete := by
  unfold Obligations.JobCommandsComplete
  refine ⟨?jobOpen, ?jobClose, ?finish, ?query⟩
  case jobOpen =>
    intro s t p a hdelivered hpath hserved hframing hlen hdescs htransition hdenied hgen hauthentic hfailure
    exact finish_of_eq ((onLane_delivered _ hdelivered).trans (congrArg (afterPacket p)
      (doJobOpen_passes hpath hserved hframing hlen hdescs htransition hdenied hgen hauthentic hfailure)))
  case jobClose =>
    intro s t p c hruns hform
    exact runs_to hruns (if_neg (by simpa using hform))
  case finish =>
    intro s job j hj hdue
    exact finish_of_eq (by simp only [doJobCloseFinish, hj, hdue, if_true])
  case query =>
    intro s t p c j hruns hform hj
    have hok : formOk p 8 [] ((0 : U64) == 0) = true := hform
    exact runs_to hruns (by simp only [runJobQuery, hj, hok, Bool.not_true, Bool.false_eq_true, if_false])

/-! ## MODEL_LOAD (R145 to R150) -/

section Load
variable {p : Packet} {a : ModelLoadParams} {c : Cmd} {j : Job} {t u : State} (hu : u = freeEntries t) (hj : jobOf u c = some j)
  (hlen : paramLen p = 0x290) (hdescs : descsOk u j p [kindWeights] = true) (hmodel : a.profile.modelId = j.modelId)
  (hform : loadFormOk u j p a = true) (hkey : keyFailure u j a = none)
include hu hj hlen hdescs hmodel hform hkey

/-- A variant that is not loaded takes its records. -/
theorem runModelLoad_new (hnew : loadedVariant u j a.profile = none) : runModelLoad p a c t = loadRecords c j p a u := by
  subst hu
  simp only [runModelLoad, hj, hlen, hmodel, hdescs, hform, hkey, hnew, bne_self_eq_false, Bool.not_true, Bool.or_self, Bool.false_eq_true,
    if_false]

/-- A variant that is loaded and has no weights is answered at once. -/
theorem runModelLoad_loaded {x : Profile} (hx : loadedVariant u j a.profile = some x) (hlost : x.lost = false)
    (hplain : a.profile.weightsDigest = 0) :
    runModelLoad p a c t = done c (BitVec.ofNat 32 (loadResult x.slot x.variant x.preference)) 0 u := by
  subst hu
  simp only [runModelLoad, hj, hlen, hmodel, hdescs, hform, hkey, hx, hlost, hplain, bne_self_eq_false, beq_self_eq_true, Bool.not_true,
    Bool.or_self, Bool.false_eq_true, if_false, if_true]

/-- A variant that is loaded with its weights: the caller proves by one record that it has the key. -/
theorem runModelLoad_loaded_sealed {x : Profile} {r : SealedRecord} {rs : List SealedRecord} (hx : loadedVariant u j a.profile = some x)
    (hlost : x.lost = false) (hsealed : a.profile.weightsDigest ≠ 0) (hblob : a.blob = .opened (r :: rs)) (htag : r.tagOk = true) :
    runModelLoad p a c t = reading c p kindWeights (recordSize a.profile + 16)
      (done c (BitVec.ofNat 32 (loadResult x.slot x.variant x.preference)) 0) u := by
  subst hu
  have hdigest : (a.profile.weightsDigest == 0) = false := beq_eq_false_iff_ne.mpr hsealed
  simp only [runModelLoad, hj, hlen, hmodel, hdescs, hform, hkey, hx, hlost, hdigest, hblob, bne_self_eq_false, Bool.not_true, Bool.or_self,
    Bool.false_eq_true, if_false, List.head?_cons, Option.map_some, htag, Option.getD_some, if_true]

end Load

/-- The caller's records that all check. -/
theorem allRecords_good {a : ModelLoadParams} {c : Cmd} {j : Job} {v : Nat} {rs : List SealedRecord} (hblob : a.blob = .opened rs)
    (hcount : rs.length = a.profile.layers.toNat) (htags : rs.all (fun r => r.tagOk) = true) (hdigest : a.digestOk = true)
    (hgood : ((List.range a.profile.layers.toNat).all fun l => ((rs[l]?).map fun r => recordOk a.profile l r.plain).getD false) = true) :
    loadRecords.allRecords c j a v = takeProfile c j a v (rs.map fun r => r.plain) false := by
  funext s
  simp only [loadRecords.allRecords, hblob, hcount, htags, hdigest, bne_self_eq_false, Bool.not_true, Bool.or_self, Bool.false_eq_true,
    if_false, hgood, if_true]

section Records
variable {p : Packet} {a : ModelLoadParams} {c : Cmd} {j : Job} {v : Nat} {u : State} (hnew : loadedVariant u j a.profile = none)
  (hv : loadVariant u j a.profile = some v) (hroom : u.eng.profiles.length < Config.maxProfiles)
include hnew hv hroom

/-- A profile without weights takes no T1 space. -/
theorem loadRecords_plain (hplain : a.profile.weightsDigest = 0) (hspace : u.tiers.weightsT1 ≤ 2 ^ 25) :
    loadRecords c j p a u = takeProfile c j a v [] false u := by
  have hfits : ¬ 2 ^ 25 < u.tiers.weightsT1 + 0 := Nat.not_lt.mpr hspace
  simp only [loadRecords, hnew, hv, hplain, Option.isNone_none, beq_self_eq_true, if_true, Nat.not_le.mpr hroom, hfits, decide_false,
    Bool.or_self, Bool.and_false, Bool.false_eq_true, if_false]

variable (hsealed : a.profile.weightsDigest ≠ 0)
  (hspace : u.tiers.weightsT1 + a.profile.layers.toNat * recordSize a.profile / 512 ≤ 2 ^ 25)
include hsealed hspace

/-- Records that all check come from the persisted copy, once the caller has proved that it has the key. -/
theorem loadRecords_persisted {w : WeightsT3} {r : SealedRecord} {rs : List SealedRecord} (hw : persistedCopy u j a = some w)
    (hblob : a.blob = .opened (r :: rs)) (htag : r.tagOk = true) (hfirst : w.records.head? = some r.plain)
    (hgood : ((List.range w.records.length).all fun l => ((w.records[l]?).map (recordOk a.profile l)).getD false) = true) :
    loadRecords c j p a u = reading c p kindWeights (recordSize a.profile + 16) (takeProfile c j a v w.records true) u := by
  have hdigest : (a.profile.weightsDigest == 0) = false := beq_eq_false_iff_ne.mpr hsealed
  simp only [loadRecords, hnew, hv, hdigest, Option.isNone_none, Nat.not_le.mpr hroom, Nat.not_lt.mpr hspace, decide_false, Bool.or_self,
    Bool.and_false, Bool.false_eq_true, if_false, hw, hblob, List.head?_cons, hfirst, htag, Bool.not_true, beq_self_eq_true, if_true, hgood]

/-- Without a persisted copy the records come from the caller. -/
theorem loadRecords_fromCaller {rs : List SealedRecord} (hw : persistedCopy u j a = none)
    (hblob : a.blob = .opened rs) (hcount : rs.length = a.profile.layers.toNat)
    (htags : rs.all (fun r => r.tagOk) = true) (hdigest : a.digestOk = true)
    (hgood : ((List.range a.profile.layers.toNat).all fun l => ((rs[l]?).map fun r => recordOk a.profile l r.plain).getD false) = true) :
    loadRecords c j p a u
      = reading c p kindWeights (descBytes kindWeights p) (takeProfile c j a v (rs.map fun r => r.plain) false) u := by
  have hdigest0 : (a.profile.weightsDigest == 0) = false := beq_eq_false_iff_ne.mpr hsealed
  simp only [loadRecords, hnew, hv, hdigest0, Option.isNone_none, Nat.not_le.mpr hroom, Nat.not_lt.mpr hspace, decide_false, Bool.or_self,
    Bool.and_false, Bool.false_eq_true, if_false, hw, allRecords_good hblob hcount htags hdigest hgood]

end Records

/-! ## MODEL_UNLOAD and MODEL_QUERY (R151, R152) -/

section Unload
variable {t : State} {p : Packet} {a : ModelNameParams} {c : Cmd} {j : Job} {x : Profile} (hj : jobOf t c = some j)
  (hform : formOk p 8 [] true = true) (hmodel : a.modelId = j.modelId) (hreserved : a.reserved = 0)
  (hflags : bitsOf a.ulFlags.toNat 1 7 = 0) (hvariant : a.variant.toNat < 4)
  (hx : variantProfile t j.tenant a.modelId a.variant.toNat = some x)
include hj hform hmodel hreserved hflags hvariant hx

/-- An unload without the purge flag drops the profile. -/
theorem runModelUnload_keep (hpurge : bitOf a.ulFlags.toNat 0 = false) :
    runModelUnload p a c t = freeEntries (dropProfileIfDone x.slot (done c 0 0
      (setProfile x.slot (fun x => { x with unloading := true }) t))) := by
  simp only [runModelUnload, hj, hform, hmodel ▸ hx, hmodel, hreserved, hflags, Nat.not_le.mpr hvariant, hpurge, bne_self_eq_false,
    Bool.not_true, Bool.or_self, decide_false, Bool.false_eq_true, if_false]

/-- An unload with the purge flag drops the profile and its data. -/
theorem runModelUnload_purge (hpurge : bitOf a.ulFlags.toNat 0 = true) :
    runModelUnload p a c t = freeEntries (purgeVariant j.tenant a.modelId a.variant.toNat
      (dropProfileIfDone x.slot (done c 0 0 { setProfile x.slot (fun x => { x with unloading := true }) t with
        persist := { t.persist with weights := t.persist.weights.filter fun w =>
          !(w.tenant == j.tenant && w.desc.modelId == a.modelId && w.variant == a.variant.toNat) } }))) := by
  simp only [runModelUnload, hj, hform, hmodel ▸ hx, hmodel, hreserved, hflags, Nat.not_le.mpr hvariant, hpurge, bne_self_eq_false,
    Bool.not_true, Bool.or_self, decide_false, Bool.false_eq_true, if_false, if_true]
  rfl

end Unload

/-- A query answers the entry of its variant. -/
theorem runModelQuery_found {t : State} {p : Packet} {a : ModelNameParams} {c : Cmd} {j : Job} {e : VariantEntry}
    (hj : jobOf (freeEntries t) c = some j) (hform : formOk p 8 [] true = true) (hmodel : a.modelId = j.modelId)
    (hreserved : a.reserved = 0) (hflags : a.ulFlags = 0)
    (he : (variantEntries (freeEntries t) j.tenant a.modelId).find? (fun e => e.variant == a.variant.toNat) = some e) :
    runModelQuery p a c t = done c (modelResults (freeEntries t) j e).1 (modelResults (freeEntries t) j e).2 (freeEntries t) := by
  rw [hmodel] at he
  simp only [runModelQuery, hj, hform, hmodel, hreserved, hflags, he, bne_self_eq_false, Bool.not_true, Bool.or_self, Bool.false_eq_true,
    if_false]

/-- Settles O51: each form of a load, both forms of an unload, and the query. -/
theorem modelCommandsComplete : Obligations.ModelCommandsComplete := by
  unfold Obligations.ModelCommandsComplete
  refine ⟨?load, ?unload, ?query⟩
  case load =>
    intro s t u p a c j hruns hu hj hlen hdescs hmodel hform hkey
    refine ⟨fun x hx hlost hplain => ?_, fun x r rs hx hlost hsealed hblob htag => ?_, fun v hnew hv hroom => ?_⟩
    · exact runs_to hruns (runModelLoad_loaded hu hj hlen hdescs hmodel hform hkey hx hlost hplain)
    · exact runs_to hruns (runModelLoad_loaded_sealed hu hj hlen hdescs hmodel hform hkey hx hlost hsealed hblob htag)
    · have hrecords := runModelLoad_new hu hj hlen hdescs hmodel hform hkey hnew
      refine ⟨fun hplain hspace => ?_, fun hsealed hspace => ⟨fun w r rs hw hblob htag hfirst hgood => ?_,
        fun rs hw hblob hcount htags hdigest hgood => ?_⟩⟩
      · exact runs_to hruns (hrecords.trans (loadRecords_plain hnew hv hroom hplain hspace))
      · exact runs_to hruns (hrecords.trans (loadRecords_persisted hnew hv hroom hsealed hspace hw hblob htag hfirst hgood))
      · exact runs_to hruns (hrecords.trans (loadRecords_fromCaller hnew hv hroom hsealed hspace hw hblob hcount htags hdigest hgood))
  case unload =>
    intro s t p a c j x hruns hj hform hmodel hreserved hflags hvariant hx
    exact ⟨fun hpurge => runs_to hruns (runModelUnload_keep hj hform hmodel hreserved hflags hvariant hx hpurge),
      fun hpurge => runs_to hruns (runModelUnload_purge hj hform hmodel hreserved hflags hvariant hx hpurge)⟩
  case query =>
    intro s t p a c j e hruns hj hform hmodel hreserved hflags he
    exact runs_to hruns (runModelQuery_found hj hform hmodel hreserved hflags he)

end Sys2Proof.Machine
end

section
/-! Obligation O52: the lookup commands. -/
namespace Sys2Proof.Machine

/-! ## LOOKUP and LOOKUP_PIN (R73, R78) -/

/-- A lookup that passes R78's tests reads its tokens and starts its run; `bound` is how many blocks it may probe. -/
theorem lookupRun_starts {p : Packet} {a : LookupParams} {pins inl : Bool} {c : Cmd} {t : State} {j : Job} {mask bound : Nat}
    (hj : jobOf t c = some j) (hform : lookupForm t j p a pins = true) (hinl : bitOf a.lkFlags.toNat 0 = inl)
    (htokens : tokensAgree p 0x10 inl a.tokenCount.toNat = true) (hmask : acceptMask t j a.variantMask = some mask)
    (hhops : a.hopBudget.toNat ≤ 63) (hscope : scopeAllowed j a.scopeId = true)
    (hbound : bound = if pins then pinBound (inputBlocks t j mask 0 a.tokenCount.toNat) a.maxBlocks
      else inputBlocks t j mask 0 a.tokenCount.toNat)
    (hquota : (if pins then pinShortage t j bound bound none else none) = none) :
    lookupRun p a pins c t = withTokens c p inl a.tokenCount.toNat a.tokens (fun ts u =>
      startRun c (if pins then .lookupPin else .lookup) j a.scopeId mask a.hopBudget.toNat 1 (modelBlockSize u j)
        (inputBlocks t j mask 0 a.tokenCount.toNat) bound (seedKey u j.tenant j.modelId a.scopeId) ts u) t := by
  subst hinl hbound
  simp only [lookupRun, hj, hform, htokens, Bool.not_true, Bool.or_self, Bool.false_eq_true, if_false, hmask, Nat.not_lt.mpr hhops, hscope,
    hquota]

/-! ## LOOKUP_EXTEND (R74, R79, R80) -/

/-- An extension in its turn reads its tokens and continues its record's chain. -/
theorem runLookupExtend_starts {p : Packet} {a : ExtendParams} {inl fork : Bool} {c : Cmd} {t : State} {j : Job} {mask bound : Nat}
    {r : PinRecord} (hj : jobOf t c = some j) (hflags : bitsOf a.lkFlags.toNat 2 6 = 0) (hreserved : a.reserved0B = 0)
    (hreserved14 : a.reserved14 = 0) (hdescs : descsOk t j p [kindToken, kindReplyPayload] = true)
    (hinl : bitOf a.lkFlags.toNat 0 = inl) (hfork : bitOf a.lkFlags.toNat 1 = fork)
    (htokens : tokensAgree p 0x18 inl a.tokenCount.toNat = true) (hmask : acceptMask t j a.variantMask = some mask)
    (hhops : a.hopBudget.toNat ≤ 63) (hr : resolvePin t j a.pinHandle = .ok r)
    (hturn : (if fork then growing t r.record else extending t r.record) = false)
    (hbound : bound = pinBound (inputBlocks t j mask r.blocks a.tokenCount.toNat) a.maxBlocks)
    (hquota : pinShortage t j (if fork then r.blocks + bound else bound) bound (if fork then none else some r.record) = none) :
    runLookupExtend p a c t = withTokens c p inl a.tokenCount.toNat a.tokens (fun ts u =>
      startRun c (.extend r.record fork) j r.scope mask a.hopBudget.toNat (r.blocks + 1) (modelBlockSize u j)
        (inputBlocks t j mask r.blocks a.tokenCount.toNat) bound r.lastKey ts u) t := by
  subst hinl hfork hbound
  simp only [runLookupExtend, hj, hflags, hreserved, hreserved14, hdescs, htokens, bne_self_eq_false, Bool.not_true, Bool.or_self,
    Bool.false_eq_true, if_false, hmask, Nat.not_lt.mpr hhops, hr, hturn, hquota]

/-! ## UNPIN (R56, R76) -/

section Unpin
variable {p : Packet} {a : UnpinParams} {c : Cmd} {t : State} {j : Job} (hj : jobOf t c = some j) (hform : formOk p 16 [] true = true)
  (hreserved : a.reserved08 = 0)
include hj hform hreserved

/-- An UNPIN whose record was released at its acceptance. -/
theorem runUnpin_released (hphase : c.phase = 1) :
    runUnpin p a c t = settleRecord (bitsOf a.pinHandle.toNat 24 20) (done c 0 0 t) := by
  simp only [runUnpin, hj, hreserved, hform, hphase, beq_self_eq_true, Bool.not_true, Bool.false_eq_true, if_false, if_true]

/-- The record is released when its UNPIN is accepted. -/
theorem acceptUnpin_releases {r : PinRecord} (hr : resolvePin t j a.pinHandle = .ok r) :
    acceptUnpin p a c t = setRecord r.record (fun x => { x with released := true }) (setCmd c.slot (fun c => { c with phase := 1 }) t) := by
  simp only [acceptUnpin, hj, hreserved, hform, hr, beq_self_eq_true, Bool.not_true, Bool.false_eq_true, if_false]
  rfl

end Unpin

/-- Settles O52: each lookup command that passes its checks. -/
theorem lookupCommandsStart : Obligations.LookupCommandsStart := by
  unfold Obligations.LookupCommandsStart
  refine ⟨?lookup, ?lookupPin, ?extend, ?unpin, ?release⟩
  case lookup =>
    intro s t p a c j mask inl hruns hj hform hinl htokens hmask hhops hscope
    exact runs_to hruns (lookupRun_starts hj hform hinl htokens hmask hhops hscope rfl rfl)
  case lookupPin =>
    intro s t p a c j mask bound inl hruns hj hform hinl htokens hmask hhops hscope hbound hquota
    exact runs_to hruns (lookupRun_starts hj hform hinl htokens hmask hhops hscope hbound hquota)
  case extend =>
    intro s t p a c j mask bound r inl fork hruns hj hflags hreserved hreserved14 hdescs hinl hfork htokens hmask hhops hr hturn hbound
      hquota
    exact runs_to hruns (runLookupExtend_starts hj hflags hreserved hreserved14 hdescs hinl hfork htokens hmask hhops hr hturn hbound
      hquota)
  case unpin =>
    intro s t p a c j hruns hj hform hreserved hphase
    exact runs_to hruns (runUnpin_released hj hform hreserved hphase)
  case release =>
    intro s p a c j r hj hform hreserved hr
    exact acceptUnpin_releases hj hform hreserved hr

end Sys2Proof.Machine
end

section
/-! Obligation O53: the ingest commands. -/
namespace Sys2Proof.Machine

/-! ## INGEST_OPEN (R187 to R190) -/

/-- The scope of an ingest: its base record's, or the one that the command names. -/
def openScope (a : IngestOpenParams) (base : Option PinRecord) : U16 :=
  match base with
  | some r => r.scope
  | none => a.scopeId

/-- Of the BE commands only, the dirty mark turns an ingest away. -/
theorem be_aboveMark_false {c : Cmd} {t : State} (h : c.cls = .lc ∨ t.tiers.aboveMark = false) :
    (c.cls == .be && t.tiers.aboveMark) = false := by
  rcases h with h | h <;> simp [h]

/-- An ingest that passes its tests reads its tokens and starts its skip run. -/
theorem runIngestOpen_starts {p : Packet} {a : IngestOpenParams} {c : Cmd} {t : State} {j : Job} {base : Option PinRecord} {pr : Profile}
    {b : Nat} (hj : jobOf t c = some j) (hopen : j.closing = false) (hflags : bitsOf a.ioFlags.toNat 3 5 = 0)
    (hdescs : descsOk t j p [kindToken] = true) (htokens : tokensAgree p 0x10 (ioFlag a 0) a.tokenCount.toNat = true)
    (hbase : ingestBase t j a = .ok base) (hpr : openProfile t j a c.holds = some pr) (hlost : pr.lost = false)
    (hb : b = a.tokenCount.toNat / blockSize pr.desc) (hpos : 1 ≤ b) (hmany : b ≤ 4096)
    (hlimit : (base.map (·.blocks)).getD 0 + b ≤ maxBlock pr.desc)
    (hpins : ioFlag a 1 = false ∨ pinShortage t j b b (base.map (·.record)) = none) (hphase : c.phase = 0)
    (hspent : ingestSpent t j.tenant = false) (hroom : Config.ingestHeadroom < t.tiers.ingestPool.free)
    (hmark : c.cls = .lc ∨ t.tiers.aboveMark = false) :
    runIngestOpen p a c t = withTokens c p (ioFlag a 0) a.tokenCount.toNat a.tokens (fun toks u => startRun c .ingestOpen j
      (openScope a base) (2 ^ a.variant.toNat) 0 ((base.map (·.blocks)).getD 0 + 1) (blockSize pr.desc) b b (ingestPrev u j a base)
      toks u) t := by
  subst hb
  have hshort : (ioFlag a 1 && (pinShortage t j (a.tokenCount.toNat / blockSize pr.desc) (a.tokenCount.toNat / blockSize pr.desc)
      (base.map (·.record))).isSome) = false := by
    rcases hpins with h | h <;> simp [h]
  have hfree : (t.tiers.ingestPool.free == 0) = false := by simp; omega
  simp only [runIngestOpen, hj, hopen, hflags, hdescs, htokens, hbase, hpr, hlost, Nat.not_lt.mpr hpos, Nat.not_lt.mpr hmany,
    Nat.not_lt.mpr hlimit, hshort, hphase, hspent, hfree, Nat.not_le.mpr hroom, be_aboveMark_false hmark, bne_self_eq_false,
    beq_self_eq_true, Bool.not_true, Bool.or_self, Bool.and_false, decide_false, Bool.false_eq_true, if_false, if_true]
  rfl

/-! ## INGEST_PULL and INGEST_PUSH_SLOTS (R190 to R192) -/

section OnIngest
variable {p : Packet} {a : IngestParams} {c : Cmd} {t : State} {j : Job} {g : Ingest} {pr : Profile} (hj : jobOf t c = some j)
  (hlen : paramLen p = 16) (hreserved : a.reserved0C = 0) (hg : ingestFor t j c a.ingestHandle = .ok g)
  (hpr : ingestProfile t g = some pr) (hlost : pr.lost = false) (hspent : ingestSpent t j.tenant = false)
include hj hlen hreserved hg hpr hlost hspent

/-- A pull that passes its tests starts its reads. -/
theorem runIngestPull_starts (hdescs : descsOk t j p [kindRemoteBuffer] = true) (hkeys : pullKeysOk p a = true) :
    runIngestPull p a c t = startPull c p t := by
  simp only [runIngestPull, hj, hlen, hreserved, hg, hpr, hdescs, hkeys, hlost, hspent, bne_self_eq_false, Bool.not_true, Bool.or_self,
    Bool.false_eq_true, if_false]

/-- A push takes as many landing slots as its count, its reply, the job's limit and the pool allow. -/
theorem runIngestPushSlots_takes {cap n : Nat} (hpath : p.path ≠ .pcie) (hrkey : a.rkey = 0)
    (hdescs : descsOk t j p [kindReplyPayload] = true) (hcap : c.payloadCap = some cap) (hroom : 40 ≤ cap) (hcount : a.count ≠ 0)
    (hmany : a.count.toNat ≤ 4096)
    (hn : n = min (min a.count.toNat ((cap - 32) / 8)) (min (Config.jobLandingSlots - jobSlots t j.index) (landingFree t c.cls)))
    (hsome : n ≠ 0) :
    runIngestPushSlots p a c t = completeWith c (8 * n) 0 8 (.addresses ((lowestSlots t n).map landingAddr)) noFlags (BitVec.ofNat 32 n)
      (BitVec.ofNat 64 j.landingKey.toNat) (takeLanding c.cls (lowestSlots t n) j.index (.ingest g.index) t) := by
  subst hn
  have hhost : (p.path == .pcie) = false := beq_eq_false_iff_ne.mpr hpath
  have hfits : ((cap - 32) / 8 == 0) = false := by simp; omega
  have hasked : (a.count == 0) = false := beq_eq_false_iff_ne.mpr hcount
  have hany := beq_eq_false_iff_ne.mpr hsome
  simp only [runIngestPushSlots, hj, hhost, hlen, hreserved, hrkey, hdescs, hcap, Option.getD_some, hfits, hasked, Nat.not_lt.mpr hmany,
    hg, hpr, hlost, hspent, hany, bne_self_eq_false, Bool.not_true, Bool.or_self, decide_false, Bool.false_eq_true, if_false]

end OnIngest

/-! ## INGEST_COMMIT and INGEST_ABORT (R194, R195) -/

/-- A commit that nothing before it holds back sends its inserts. -/
theorem runIngestCommit_sends {p : Packet} {a : IngestParams} {c : Cmd} {t : State} {j : Job} {g : Ingest} {pr : Profile}
    (hj : jobOf t c = some j) (hform : endForm p a = true) (hphase : c.phase = 1)
    (hg : findIngest t (bitsOf a.ingestHandle.toNat 0 12) = some g) (hpr : ingestProfile t g = some pr) (hlost : pr.lost = false)
    (hpulls : (t.jobs.cmds.any fun x => pullOf g x && decide (x.acceptSlate < c.acceptSlate)) = false) (hbusy : ingestBusy t g = false)
    (hpurge : purgeBefore t j.tenant g.scope c.acceptSlate = false) (hbase : baseBusy t g = false) :
    runIngestCommit p a c t = sendInserts c g pr.desc t := by
  simp only [runIngestCommit, hj, hform, hphase, hg, hpr, hlost, hpulls, hbusy, hpurge, hbase, bne_self_eq_false, Bool.not_true,
    Bool.or_self, Bool.false_eq_true, if_false]

/-- An abort has acted at its acceptance, and replies. -/
theorem runIngestAbort_replies {p : Packet} {a : IngestParams} {c : Cmd} {t : State} {j : Job} (hj : jobOf t c = some j)
    (hform : endForm p a = true) (hphase : c.phase = 1) : runIngestAbort p a c t = done c 0 0 t := by
  simp only [runIngestAbort, hj, hform, hphase, beq_self_eq_true, Bool.not_true, Bool.false_eq_true, if_false, if_true]

/-- Settles O53: each ingest command that passes its tests. -/
theorem ingestCommandsComplete : Obligations.IngestCommandsComplete := by
  unfold Obligations.IngestCommandsComplete
  refine ⟨?openIt, ?pull, ?push, ?commit, ?abort⟩
  case openIt =>
    intro s t p a c j base pr b hruns hj hopen hflags hdescs htokens hbase hpr hlost hb hpos hmany hlimit hpins hphase hspent hroom hmark
    exact runs_to hruns (congrArg sweepProfiles
      (runIngestOpen_starts hj hopen hflags hdescs htokens hbase hpr hlost hb hpos hmany hlimit hpins hphase hspent hroom hmark))
  case pull =>
    intro s t p a c j g pr hruns hj hlen hreserved hg hpr hdescs hkeys hlost hspent
    exact runs_to hruns (runIngestPull_starts hj hlen hreserved hg hpr hlost hspent hdescs hkeys)
  case push =>
    intro s t p a c j g pr cap n hruns hj hpath hlen hreserved hrkey hdescs hcap hroom hcount hmany hg hpr hlost hspent hn hsome
    exact runs_to hruns
      (runIngestPushSlots_takes hj hlen hreserved hg hpr hlost hspent hpath hrkey hdescs hcap hroom hcount hmany hn hsome)
  case commit =>
    intro s t p a c j g pr hruns hj hform hphase hg hpr hlost hpulls hbusy hpurge hbase
    exact runs_to hruns (runIngestCommit_sends hj hform hphase hg hpr hlost hpulls hbusy hpurge hbase)
  case abort =>
    intro s t p a c j hruns hj hform hphase
    exact runs_to hruns (runIngestAbort_replies hj hform hphase)

end Sys2Proof.Machine
end

section
/-! Obligation O54: the delivery commands. -/
namespace Sys2Proof.Machine

/-! ## DELIVER (R199, R211) -/

section Deliver
variable {p : Packet} {a : DeliverParams} {c : Cmd} {t : State} {b : Storyboard} {bt : List U64} (hb : ownSb t c = some b)
  (hclosed : b.opened = false) (htable : a.blockTable = .opened bt)
include hb hclosed htable

/-- A DELIVER with its storyboard reads its block table. -/
theorem runDeliver_reads :
    runDeliver p a c t = reading c p kindBlockTable (descBytes kindBlockTable p) (withTable c a b bt) t := by
  simp only [runDeliver, hb, hclosed, Bool.false_eq_true, if_false, readTable, htable]

/-- A DELIVER whose block table has been read goes on with it. -/
theorem runDeliver_fetched (hfetched : c.fetched = true) : runDeliver p a c t = withTable c a b bt t := by
  rw [runDeliver_reads hb hclosed htable]
  exact if_pos (by simp [hfetched])

end Deliver

/-- A block table of the right length opens the storyboard of a network target. -/
theorem withTable_opens {a : DeliverParams} {c : Cmd} {s : State} {b : Storyboard} {bt : List U64} {j : Job}
    (hj : findJob s b.job = some j) (hlen : bt.length = a.blockCount.toNat) (hnet : toHost a = false) :
    withTable c a b bt s = openSb c b bt s := by
  simp [withTable, hj, hlen, hostOffsetsOk, hnet]

/-- A storyboard that still runs, and has lost no block, moves once it is opened. -/
theorem openSb_advances {c : Cmd} {s : State} {b : Storyboard} {bt : List U64} (hstate : b.state ≠ .draining)
    (hlost : lostAmong s b.ptrs = false) :
    openSb c b bt s = advanceSb b.id (setCmd c.slot (fun c => { c with wait := .storyboard, phase := 1 })
      (setSb b.id (fun b => { b with opened := true, blockTable := bt }) s)) := by
  simp [openSb, hstate, hlost]

/-- Settles O54: each delivery command on the storyboard that it owns or names. -/
theorem deliverCommandsComplete : Obligations.DeliverCommandsComplete := by
  unfold Obligations.DeliverCommandsComplete
  refine ⟨?deliver, ?tableRead, ?cancel, ?status, ?raw⟩
  case deliver =>
    intro s t p a c b bt hruns hb hclosed htable
    exact runs_to hruns (runDeliver_reads hb hclosed htable)
  case tableRead =>
    intro s p a c b j bt hc hinstr hwait hfetched hb hclosed htable hj hlen hnet hstate hlost hlcq hbeq hidle hnone
    have hparts : partsOf c.instr = some ⟨opLate 0x0501, p, acceptDeliver p a, runDeliver p a⟩ := by rw [hinstr]; rfl
    have hdue : wakeDue s c = true := by simp only [wakeDue, hwait, hfetched]
    have hrun : runDeliver p a c s = advanceSb b.id (setCmd c.slot (fun c => { c with wait := .storyboard, phase := 1 })
        (setSb b.id (fun b => { b with opened := true, blockTable := bt }) s)) := by
      rw [runDeliver_fetched hb hclosed htable hfetched, withTable_opens hj hlen hnet, openSb_advances hstate hlost]
    exact ((parkedCommandsGoOn.1 s c.slot c _ hc hparts hlcq hbeq hidle hnone).1 (by simp [hwait]) hdue).trans
      (finish_of_eq (congrArg (fun u => fetchAll (goOn u)) hrun))
  case cancel =>
    intro s t p a c j b hruns hj hform hb
    exact runs_to hruns (by simp only [runDeliverCancel, hj, hform, hb, Bool.not_true, Bool.false_eq_true, if_false])
  case status =>
    intro s t p a c j b hruns hj hform hb
    exact runs_to hruns (by simp only [runDeliverStatus, hj, hform, hb, Bool.not_true, Bool.false_eq_true, if_false])
  case raw => exact fun s id l b hb hmay => rfl

end Sys2Proof.Machine
end

section
/-! Obligation O55: the attention commands. -/
namespace Sys2Proof.Machine

/-! ## ATTEND_OPEN (R225 to R228) -/

/-- The tests on the target of a session: a host session has its ring pair, a network session fits its reply and has its queue pair. -/
theorem attendTarget_passes {a : AttendOpenParams} {c : Cmd} {t : State} {j : Job}
    (h : (if attendHost a then (primaryLane t j).isSome else addressesFit c a && qpOfJob t j (bitsOf a.qpn.toNat 0 24)) = true) :
    (attendHost a && (primaryLane t j).isNone) = false ∧ (!attendHost a && !addressesFit c a) = false ∧
      (!attendHost a && !qpOfJob t j (bitsOf a.qpn.toNat 0 24)) = false := by
  cases hhost : attendHost a with
  | true =>
    have hsome : (primaryLane t j).isSome = true := by simpa [hhost] using h
    simp [hsome]
  | false =>
    obtain ⟨hfit, hqp⟩ : addressesFit c a = true ∧ qpOfJob t j (bitsOf a.qpn.toNat 0 24) = true := by simpa [hhost] using h
    simp [hfit, hqp]

/-- Of the BE commands only, the headroom of the membership table turns a session away. -/
theorem be_headroom_false {c : Cmd} {n : Nat} (h : c.cls = .lc ∨ Config.membershipHeadroom < n) :
    (c.cls == .be && decide (n ≤ Config.membershipHeadroom)) = false := by
  rcases h with h | h
  · simp [h]
  · simp [Nat.not_le.mpr h]

/-- A session that passes its tests is opened. -/
theorem runAttendOpen_opens {p : Packet} {a : AttendOpenParams} {c : Cmd} {t : State} {j : Job} {r : PinRecord} {ps : List Profile}
    {d : ProfileDesc} {layers : Nat × Nat} (hj : jobOf t c = some j) (hopen : j.closing = false)
    (hr : heldRecord t j c a.pinHandle = .ok r) (hform : attendOpenForm p a = true) (hdescs : descsOk t j p [kindReplyPayload] = true)
    (hfirst : 1 ≤ a.firstBlock.toNat) (hlast : a.firstBlock.toNat + a.blockCount.toNat - 1 ≤ r.blocks)
    (hps : blockProfiles t j c.holds (rangePtrs t r.record a.firstBlock.toNat a.blockCount.toNat) = some ps)
    (hd : ps.head?.map (·.desc) = some d) (hlayers : attendLayers d a = some layers)
    (hsize : a.maxEntries.toNat * queryHeads d * d.headDim.toNat * 2 ≤ 2097152)
    (htarget : (if attendHost a then (primaryLane t j).isSome else addressesFit c a && qpOfJob t j (bitsOf a.qpn.toNat 0 24)) = true)
    (hlost : ps.any (·.lost) = false) (hmembers : (t.eng.memberships.filter fun m => m.job == j.index).length < Config.jobMemberships)
    (hslots : jobSlots t j.index + (if attendHost a then 0 else a.querySlots.toNat * querySlotUnits d a.maxEntries.toNat)
      ≤ Config.jobLandingSlots)
    (hroom : c.cls = .lc ∨ Config.membershipHeadroom < t.eng.memberPool.free) :
    runAttendOpen p a c t = openMember c j a r layers d (ps.map (·.slot)) (rangePtrs t r.record a.firstBlock.toNat a.blockCount.toNat)
      t := by
  obtain ⟨hring, hfit, hqp⟩ := attendTarget_passes htarget
  simp only [runAttendOpen, hj, hopen, hr, hform, hdescs, Nat.not_lt.mpr hfirst, Nat.not_lt.mpr hlast, hps, hd, hlayers,
    Nat.not_lt.mpr hsize, hring, hfit, hqp, hlost, Nat.not_le.mpr hmembers, Nat.not_lt.mpr hslots, be_headroom_false hroom, Bool.not_true,
    Bool.or_self, decide_false, Bool.false_eq_true, if_false]

/-! ## ATTEND (R231, R232, R246) -/

section Attend
variable {p : Packet} {a : AttendParams} {c : Cmd} {t : State} {j : Job} {m : Membership} {d : ProfileDesc} (hj : jobOf t c = some j)
  (hm : resolveSession t j a.session = .ok m) (hd : memberDesc t m = some d)
  (hclose : ((closeSlate t m).map fun x => decide (x < c.acceptSlate)).getD false = false)
  (hform : attendForm t j p a m d c.slot = true)
include hj hm hd hclose hform

/-- A host session's query block is read first. -/
theorem runAttend_reads (hhost : attendHost m.prm = true) (hfetched : c.fetched = false) : runAttend p a c t = readQuery c j a d t := by
  simp only [runAttend, hj, hm, hd, hclose, hform, hhost, hfetched, Bool.not_true, Bool.not_false, Bool.or_self, Bool.and_self,
    Bool.false_eq_true, if_false, if_true]

/-- A query that is there and passes its tests joins its batch. -/
theorem runAttend_joins (hthere : attendHost m.prm = false ∨ c.fetched = true) (htag : a.query.tagOk = true)
    (hnonce : bitOf a.query.nonce.toNat 95 = false) (hquery : queryOk m d a = true) (hbroken : m.broken = false)
    (hlost : lostAmong t m.ptrs = false) (hprofiles : (m.slots.any fun x => ((findProfile t x).map (·.lost)).getD false) = false)
    (hspent : attendSpent t j.tenant = false) : runAttend p a c t = joinBatch c m a t := by
  have hread : (attendHost m.prm && !c.fetched) = false := by rcases hthere with h | h <;> simp [h]
  simp only [runAttend, hj, hm, hd, hclose, hform, hread, htag, hnonce, hquery, hbroken, hlost, hprofiles, hspent, Bool.not_true,
    Bool.or_self, Bool.false_eq_true, if_false]

end Attend

/-- Settles O55: each attention command that passes its tests, and the window that ends. -/
theorem attendCommandsComplete : Obligations.AttendCommandsComplete := by
  unfold Obligations.AttendCommandsComplete
  refine ⟨?openIt, ?attend, ?close, ?window⟩
  case openIt =>
    intro s t p a c j r ps d layers hruns hj hopen hr hform hdescs hfirst hlast hps hd hlayers hsize htarget hlost hmembers hslots hroom
    exact runs_to hruns (congrArg sweepProfiles (runAttendOpen_opens hj hopen hr hform hdescs hfirst hlast hps hd hlayers hsize htarget
      hlost hmembers hslots hroom))
  case attend =>
    intro s t p a c j m d hruns hj hm hd hclose hform
    refine ⟨fun hhost hfetched => ?_, fun hthere htag hnonce hquery hbroken hlost hprofiles hspent => ?_⟩
    · exact runs_to hruns (runAttend_reads hj hm hd hclose hform hhost hfetched)
    · exact runs_to hruns
        (runAttend_joins hj hm hd hclose hform hthere htag hnonce hquery hbroken hlost hprofiles hspent)
  case close =>
    intro s t p a c j m hruns hj hform hreserved hm hslot
    refine runs_to hruns ?_
    simp only [runAttendClose, hj, hreserved, beq_self_eq_true, hform, hm, hslot, Option.isSome_none, Bool.not_true, Bool.false_eq_true,
      if_false]
  case window =>
    intro s batch b hb hopen
    exact finish_of_eq (if_pos (by simp [hb, hopen]))

end Sys2Proof.Machine
end

section
/-! Obligations O56 and O57: cache control and key rotation. -/
namespace Sys2Proof.Machine

/-! ## EVICT and HINT (R182, R184) -/

/-- The form of a command that names a block range and no layers. -/
theorem rangeForm_ok {p : Packet} {a : RangeParams} (hform : formOk p 0x18 [] true = true) (hreserved : a.reserved16 = 0)
    (hlayer : a.firstLayer = 0) (hcount : a.layerCount = 0) (hflags : a.opFlags = 0) :
    formOk p 0x18 [] (a.reserved16 == 0 && a.firstLayer == 0 && a.layerCount == 0 && a.opFlags == 0) = true := by
  simp only [hreserved, hlayer, hcount, hflags, beq_self_eq_true, Bool.and_self, hform]

section Range
variable {p : Packet} {a : RangeParams} {c : Cmd} {t : State} {j : Job} {ptrs : List Nat} (hj : jobOf t c = some j)
  (hform : formOk p 0x18 [] (a.reserved16 == 0 && a.firstLayer == 0 && a.layerCount == 0 && a.opFlags == 0) = true)
  (hrange : namedRange t j a = .ok ptrs)
include hj hform hrange

/-- At depth 3 the cores purge the nodes. -/
theorem runEvict_purges (hdepth : a.opArg.toNat = 3) :
    runEvict p a c t = askEach c ptrs (fun x => .purge x (some c.slot)) t := by
  simp only [runEvict, hj, hform, hrange, hdepth, Nat.reduceLT, beq_self_eq_true, Bool.not_true, Bool.or_self, decide_false,
    Bool.false_eq_true, if_false, if_true]

/-- At depths 1 and 2 the extents that can leave do; the command waits for the others. -/
theorem runEvict_moves {u v : State} (hlow : 1 ≤ a.opArg.toNat) (hhigh : a.opArg.toNat ≤ 2)
    (hu : u = (evictTodo t ptrs).foldl (fun w x => evictOne c.slot c.cls x w) t)
    (hv : v = (evictTodo2 u a.opArg.toNat ptrs).foldl (fun w x => evictOne2 c.slot c.cls x w) u) :
    runEvict p a c t = if (evictTodo v ptrs).isEmpty && (evictTodo2 v a.opArg.toNat ptrs).isEmpty
      then done c (BitVec.ofNat 32 (((findCmd v c.slot).map (·.moved.length)).getD 0)) 0 v
      else setCmd c.slot (fun c => { c with wait := .moves }) v := by
  subst hu hv
  have hthree : (a.opArg.toNat == 3) = false := by simp; omega
  have hlarge : ¬ 3 < a.opArg.toNat := by omega
  simp only [runEvict, hj, hform, hrange, Nat.not_lt.mpr hlow, hlarge, hthree, Bool.not_true, Bool.or_self, decide_false,
    Bool.false_eq_true, if_false]

/-- A hint asks the cores of the nodes. -/
theorem runHint_asks (hsmall : a.opArg.toNat < 8) (hany : a.opArg.toNat ≠ 0)
    (hone : (bitOf a.opArg.toNat 0 && bitOf a.opArg.toNat 1) = false) :
    runHint p a c t = askEach c ptrs (fun x => .hint x c.slot a.opArg.toNat) t := by
  have hzero : (a.opArg.toNat == 0) = false := beq_eq_false_iff_ne.mpr hany
  simp only [runHint, hj, hform, hrange, Nat.not_le.mpr hsmall, hone, hzero, Bool.not_true, Bool.or_self, decide_false,
    Bool.false_eq_true, if_false]

end Range

/-! ## PROMOTE (R183) -/

/-- What a PROMOTE of the blocks `ptrs` does with the extents that it moves. -/
theorem runPromote_eq {p : Packet} {a : RangeParams} {c : Cmd} {t : State} {j : Job} {ptrs : List Nat} {f n : Nat} {target : Tier}
    (hj : jobOf t c = some j) (hform : formOk p 0x18 [] true = true) (hreserved : a.reserved16 = 0)
    (hflags : bitsOf a.opFlags.toNat 1 7 = 0) (htarget : (a.opArg.toNat = 1 ∧ target = .t1) ∨ (a.opArg.toNat = 2 ∧ target = .t2))
    (hrange : namedRange t j a = .ok ptrs)
    (hlayers : promoteLayers a (((ptrs.head?.bind (findNode t)).map (·.layers)).getD 0) = some (f, n)) :
    runPromote p a c t = if bitOf a.opFlags.toNat 0 then
        startPromotions (done c 0 0 { t with tiers := { t.tiers with
          promoteQueue := t.tiers.promoteQueue ++ (promoteTodo t target f n ptrs).map fun x => (x.1, x.2, target) } })
      else if (promoteTodo t target f n ptrs).isEmpty then done c 0 0 t
      else park c.slot .moves (promoteAll target (some c.slot) c.cls (promoteTodo t target f n ptrs) t) := by
  have hknown : (a.opArg.toNat != 1 && a.opArg.toNat != 2) = false := by rcases htarget with ⟨h, -⟩ | ⟨h, -⟩ <;> simp [h]
  have htier : (if (a.opArg.toNat == 1) = true then Tier.t1 else .t2) = target := by
    rcases htarget with ⟨h, rfl⟩ | ⟨h, rfl⟩ <;> simp [h]
  simp only [runPromote, hj, hreserved, hflags, beq_self_eq_true, Bool.and_self, hform, hknown, Bool.not_true, Bool.or_self,
    Bool.false_eq_true, if_false, hrange, hlayers, htier]

/-! ## Cache control -/

/-- Settles O56: each cache control command by its depth, its flag and its range. -/
theorem cacheControlCommandsComplete : Obligations.CacheControlCommandsComplete := by
  unfold Obligations.CacheControlCommandsComplete
  refine ⟨?evict, ?promote, ?hint, ?purgeScope, ?purgeTenant⟩
  case evict =>
    intro s t p a c j ptrs hruns hj hform hreserved hlayer hcount hflags hrange
    have hrow := rangeForm_ok hform hreserved hlayer hcount hflags
    refine ⟨fun hdepth => runs_to hruns (runEvict_purges hj hrow hrange hdepth), fun u v hlow hhigh hu hv => ?_⟩
    have hrun := runEvict_moves hj hrow hrange hlow hhigh hu hv
    refine ⟨fun hnone hnone2 => runs_to hruns (hrun.trans (if_pos (by simp [hnone, hnone2]))), fun hleft =>
      runs_to hruns (hrun.trans (if_neg ?_))⟩
    rcases hleft with h | h <;> simp [h]
  case promote =>
    intro s t p a c j ptrs f n target todo hruns hj hform hreserved hflags htarget hrange hlayers htodo
    subst htodo
    have hrun := runPromote_eq hj hform hreserved hflags htarget hrange hlayers
    refine ⟨fun hbackground => ?_, fun hwaits hnone => ?_, fun hwaits hsome => ?_⟩
    · exact runs_to hruns (hrun.trans (if_pos hbackground))
    · exact runs_to hruns ((hrun.trans (if_neg (by simp [hwaits]))).trans (if_pos (by simp [hnone])))
    · exact runs_to hruns ((hrun.trans (if_neg (by simp [hwaits]))).trans (if_neg (by simp [hsome])))
  case hint =>
    intro s t p a c j ptrs hruns hj hform hreserved hlayer hcount hflags hsmall hany hone hrange
    exact runs_to hruns (runHint_asks hj (rangeForm_ok hform hreserved hlayer hcount hflags) hrange hsmall hany hone)
  case purgeScope =>
    intro s t p a c j hruns hj hform hreserved hscope
    exact runs_to hruns (by simp only [runPurgeScope, hj, hreserved, beq_self_eq_true, hform, hscope, Bool.not_true, Bool.false_eq_true,
      if_false])
  case purgeTenant =>
    intro s t p c hruns hform
    exact runs_to hruns (if_neg (by simpa using hform))

/-! ## KEY_ROTATE (R402) -/

/-- Settles O57: a rotation below the limit of live epochs, and a query. -/
theorem keyRotationCompletes : Obligations.KeyRotationCompletes := by
  unfold Obligations.KeyRotationCompletes
  refine ⟨fun s t p a c hruns hform hreserved hlive hlast u hu => runs_to hruns ?_, fun s t p a c hruns hform hreserved =>
    runs_to hruns (if_neg (by simpa [hreserved] using hform))⟩
  have hroom : ¬ (decide (4 ≤ (epochsOf t c.tenant).newest + 1 - (epochsOf t c.tenant).oldest)
      || (epochsOf t c.tenant).newest == 0xFFFFFFFF) = true := by
    simp [Nat.not_le.mpr hlive, hlast]
  subst hu
  exact (if_neg (by simpa [hreserved] using hform)).trans (if_neg hroom)

end Sys2Proof.Machine
end

section
/-! Obligations O58 and O59: reports, counters and settings. -/
namespace Sys2Proof.Machine

/-! ## ATTEST, STATS_READ, EVENTS_READ and DEBUG_UNLOCK -/

/-- A report that is not refused and fits its buffer is answered. -/
theorem runAttest_reports {p : Packet} {a : AttestParams} {c : Cmd} {t : State} {cap : Nat}
    (hform : formOk p 0x28 [kindReplyPayload] true = true) (hreserved : a.reserved21 = 0) (hflags : bitsOf a.atFlags.toNat 2 6 = 0)
    (hready : reportsRefused t = false) (hclaims : (atJobClaims a && p.path == .mgmt) = false) (hcap : c.payloadCap = some cap)
    (hfits : 32 + attestLen a ≤ cap) :
    runAttest p a c t = completeWith c (attestLen a) (attestLen a) 1 (.report (reportOf (tick t) a (jobOf (tick t) c))) noFlags
      (BitVec.ofNat 32 (attestLen a)) (BitVec.ofNat 64 t.sec.resetGen) (tick t) := by
  simp only [runAttest, hreserved, hflags, beq_self_eq_true, Bool.and_self, hform, hready, hclaims, hcap, Option.getD_some,
    Nat.not_lt.mpr hfits, Bool.not_true, Bool.false_eq_true, if_false]
  rfl

/-- The counters of a set that the caller may read. -/
theorem runStatsRead_replies {p : Packet} {a : StatsParams} {c : Cmd} {t : State} {rs : List CounterRec}
    (hform : formOk p 8 [kindReplyPayload] true = true) (hreserved : a.reserved01 = 0)
    (hset : statsSet t p (jobOf t c) a.set = some rs) :
    runStatsRead p a c t = completeWith c (16 + 16 * rs.length) 16 16 (.stats (t.clk.window - 1) rs) noFlags (BitVec.ofNat 32 rs.length) 0
      { t with free := t.free + 1 } := by
  simp only [runStatsRead, hreserved, beq_self_eq_true, hform, hset, Bool.not_true, Bool.false_eq_true, if_false]

/-- The events asked for, and the slate number of the oldest event in the ring. -/
theorem runEventsRead_replies {p : Packet} {a : EventsParams} {c : Cmd} {t : State} {e : EventRec}
    (hform : formOk p 16 [kindReplyPayload] true = true) (hreserved : a.reserved0A = 0) (hany : a.maxRecords ≠ 0)
    (hmany : a.maxRecords.toNat ≤ 4096) (he : t.clk.events.head? = some e) :
    runEventsRead p a c t = completeWith c (16 + 32 * (eventsFor t (jobOf t c) a).length) 16 32
      (.events (eventsFor t (jobOf t c) a)) noFlags (BitVec.ofNat 32 (entriesFit c (eventsFor t (jobOf t c) a).length 32))
      (BitVec.ofNat 64 e.slate) { t with free := t.free + 1 } := by
  have hzero : (a.maxRecords == 0) = false := beq_eq_false_iff_ne.mpr hany
  simp only [runEventsRead, hreserved, beq_self_eq_true, hform, hzero, Nat.not_lt.mpr hmany, he, Option.map_some, Option.getD_some,
    Bool.not_true, Bool.or_self, decide_false, Bool.false_eq_true, if_false]

/-- A valid token unlocks its scopes, in the command's turn. -/
theorem runDebugUnlock_unlocks {p : Packet} {a : DebugUnlockParams} {c : Cmd} {t : State} (hturn : TurnHasCome t c)
    (hform : formOk p 1160 [] true = true) (hreserved : a.reserved02 = 0) (hidle : t.sec.transition = false)
    (htoken : tokenFailure t a = none) :
    runDebugUnlock p a c t
      = done c 0 0 (commitRecord (fun r => { r with debugState := r.debugState ||| a.token.debugScope.toNat }) t) := by
  rw [runDebugUnlock, inTurn_now hturn]
  simp only [hreserved, beq_self_eq_true, hform, hidle, htoken, Bool.not_true, Bool.false_eq_true, if_false]

/-- Settles O58: each report, set and token that passes its checks. -/
theorem reportsAndCountersRead : Obligations.ReportsAndCountersRead := by
  unfold Obligations.ReportsAndCountersRead
  refine ⟨?attest, ?stats, ?events, ?debug⟩
  case attest =>
    intro s t p a c cap hruns hform hreserved hflags hready hclaims hcap hfits
    exact runs_to hruns (runAttest_reports hform hreserved hflags hready hclaims hcap hfits)
  case stats =>
    intro s t p a c rs hruns hform hreserved hset
    exact runs_to hruns (runStatsRead_replies hform hreserved hset)
  case events =>
    intro s t p a c e hruns hform hreserved hany hmany he
    exact runs_to hruns (runEventsRead_replies hform hreserved hany hmany he)
  case debug =>
    intro s t p a c hruns hturn hform hreserved hidle htoken
    exact runs_to hruns (runDebugUnlock_unlocks hturn hform hreserved hidle htoken)

/-! ## HOST_WINDOW_SET (R311, R379) -/

/-- A window that no other command changes is kept, shrunk or grown. -/
theorem runHostWindowSet_eq {p : Packet} {a : HostWindowParams} {c : Cmd} {t : State} (hform : formOk p 16 [] true = true)
    (hreserved : a.reserved01 = 0) (hreserved08 : a.reserved08 = 0) (hport : a.port.toNat ≤ 1) (hsize : a.granules.toNat ≤ 2048)
    (hfree : (findWindow t a.port.toNat).waitSlot = none) (hopen : (findWindow t a.port.toNat).fenceFrom = none) :
    runHostWindowSet p a c t = if (findWindow t a.port.toNat).granules < a.granules.toNat then growWindow c a.port.toNat a.granules.toNat t
      else if a.granules.toNat < (findWindow t a.port.toNat).granules then shrinkWindow c a.port.toNat a.granules.toNat t
      else done c (BitVec.ofNat 32 a.granules.toNat) 0 t := by
  simp only [runHostWindowSet, hreserved, hreserved08, beq_self_eq_true, Bool.and_self, hform, Nat.not_lt.mpr hport, Nat.not_lt.mpr hsize,
    hfree, hopen, Option.isSome_none, Bool.false_and, Bool.not_true, Bool.or_self, decide_false, Bool.false_eq_true, if_false]

/-! ## PORT_CONFIG (R313) -/

section PortConfig
variable {p : Packet} {a : PortConfigParams} {c : Cmd} {t : State} (hform : formOk p 8 [] true = true) (hport : portForm a = true)
include hform hport

/-- A block that says what the record says already changes nothing. -/
theorem runPortConfig_same (hsame : portCfg t a.portKind.toNat a.port.toNat = portBlock a) : runPortConfig p a c t = done c 0 0 t := by
  simp only [runPortConfig, hport, hform, hsame, beq_self_eq_true, Bool.not_true, Bool.false_eq_true, if_false, if_true]

/-- A changed block is recorded and resets its port; the management port replies first. -/
theorem runPortConfig_changed (hchanged : portCfg t a.portKind.toNat a.port.toNat ≠ portBlock a) :
    let u := commitRecord (fun r => { r with ports := r.ports.set (portIndex a.portKind.toNat a.port.toNat) (portBlock a) }) t
    let why := if a.pcFlags.toNat % 2 == 1 then 2 else 3
    runPortConfig p a c t = if a.portKind.toNat == 4 then resetPort a.portKind.toNat a.port.toNat why (done c 0 0 u)
      else done c 0 0 (resetPort a.portKind.toNat a.port.toNat why u) := by
  have hdiffers : (portCfg t a.portKind.toNat a.port.toNat == portBlock a) = false := beq_eq_false_iff_ne.mpr hchanged
  simp only [runPortConfig, hport, hform, hdiffers, Bool.not_true, Bool.false_eq_true, if_false]

end PortConfig

/-! ## Settings -/

/-- Settles O59: each setting within its ranges. -/
theorem settingsAreRecorded : Obligations.SettingsAreRecorded := by
  unfold Obligations.SettingsAreRecorded
  refine ⟨?window, ?quota, ?cls, ?wear, ?route, ?device, ?port⟩
  case window =>
    intro s t p a c hruns hform hreserved hreserved08 hport hsize hfree hopen
    have hrun := runHostWindowSet_eq (c := c) hform hreserved hreserved08 hport hsize hfree hopen
    refine ⟨fun hsame => runs_to hruns ?_, fun hsmaller => runs_to hruns ?_, fun hlarger => runs_to hruns ?_⟩
    · exact (hrun.trans (if_neg (by omega))).trans (if_neg (by omega))
    · exact (hrun.trans (if_neg (by omega))).trans (if_pos hsmaller)
    · exact hrun.trans (if_pos hlarger)
  case quota =>
    intro s t p a c hruns hform hquota htenant
    exact runs_to hruns (if_neg (by simp [hquota, hform, htenant]))
  case cls =>
    intro s t p a c hruns hform hclass
    refine ⟨fun hdevice => runs_to hruns ?_, fun htenant hknown => runs_to hruns ?_⟩
    · exact (if_neg (by simp [hclass, hform, hdevice])).trans (if_pos (by simp [hdevice]))
    · exact (if_neg (by simp [hclass, hform, hknown])).trans (if_neg (by simpa using htenant))
  case wear =>
    intro s t p a c hruns hform
    exact runs_to hruns (if_neg (by simp [hform]))
  case route =>
    intro s t p a c hruns hform hreserved hflags hentry hport
    exact runs_to hruns (if_neg (by simp [hreserved, hflags, hform, Nat.not_lt.mpr hentry, Nat.not_lt.mpr hport]))
  case device =>
    intro s t p a c hruns hform hreserved hflags hentry hport hzero hall hnew
    refine runs_to hruns ((if_neg ?_).trans (if_neg (by simpa using hnew)))
    have hzero' : (a.destDevice.toNat == 0) = false := beq_eq_false_iff_ne.mpr hzero
    have hall' : (a.destDevice.toNat == 0xFFFF) = false := beq_eq_false_iff_ne.mpr hall
    simp only [hreserved, hflags, hentry, hport, beq_self_eq_true, Bool.and_self, hform, hzero', hall', Bool.not_true, Bool.or_self,
      Bool.false_eq_true, not_false_eq_true]
  case port =>
    intro s t p a c hruns hform hport
    refine ⟨fun hsame => runs_to hruns (runPortConfig_same hform hport hsame), fun hchanged hkind => runs_to hruns ?_,
      fun hchanged hkind => runs_to hruns ?_⟩
    · exact (runPortConfig_changed hform hport hchanged).trans (if_neg (by simpa using hkind))
    · rw [← hkind]
      exact (runPortConfig_changed hform hport hchanged).trans (if_pos (by simpa using hkind))

end Sys2Proof.Machine
end

section
/-! Obligation O60: the maintenance commands. -/
namespace Sys2Proof.Machine

/-! ## SPARE_MAP (R450, R451) -/

/-- A query answers the map and the spares left. -/
theorem runSpareMapRead_replies {p : Packet} {a : SpareMapParams} {c : Cmd} {t : State}
    (hform : formOk p 16 [kindReplyPayload] true = true) (hreserved : a.reserved02 = 0) (hreserved08 : a.reserved08 = 0)
    (hkind : a.unitKind = 0) (hunit : a.unit = 0) :
    runSpareMapRead p a c t = completeWith c (16 + 16 * t.faults.spareMap.length) 16 16
      (.spareMap ((List.range 5).map fun k => sparesLeft t (k + 1)) t.faults.spareMap) noFlags
      (BitVec.ofNat 32 (entriesFit c t.faults.spareMap.length 16)) 0 t :=
  if_neg (by simp [hreserved, hreserved08, hkind, hunit, hform])

section InTurn
variable {c : Cmd} {t : State} (hturn : TurnHasCome t c)
include hturn

/-- A retirement maps a spare for an active unit. -/
theorem runSpareMapRetire_retires {p : Packet} {a : SpareMapParams} {u : State} (hform : formOk p 16 [] true = true)
    (hreserved : a.reserved02 = 0) (hreserved08 : a.reserved08 = 0) (hlow : 1 ≤ a.unitKind.toNat) (hhigh : a.unitKind.toNat ≤ 5)
    (hactive : unitActive t a.unitKind.toNat a.unit.toNat = true) (hu : u = mapSpare a.unitKind.toNat 3 a.unit.toNat t) :
    runSpareMapRetire p a c t = done c (BitVec.ofNat 32 ((u.faults.spareMap.getLast?.bind fun l => l.spare).getD 0xFFFFFFFF))
      (BitVec.ofNat 64 (sparesLeft u a.unitKind.toNat)) u := by
  subst hu
  have hkind : (a.unitKind.toNat == 0) = false := by simp; omega
  rw [runSpareMapRetire, inTurn_now hturn]
  simp only [hreserved, hreserved08, beq_self_eq_true, Bool.and_self, hform, hkind, Nat.not_lt.mpr hhigh, hactive, Bool.not_true,
    Bool.or_self, decide_false, Bool.false_eq_true, if_false]

/-! ## Firmware (R493, R494) -/

/-- A valid image is stored in the slot that the boot record does not name, and staged. -/
theorem runFwStage_stages {p : Packet} {a : FwStageParams} (hform : formOk p 0x48 [kindFirmware] true = true) (hreserved : a.reserved04 = 0)
    (hsize : a.imageLen.toNat ≤ slotBytes) (hlen : a.imageLen.toNat = descBytes kindFirmware p)
    (hdigest : a.image.imageDigest = a.imageDigest) (himage : imageForm a.image = true)
    (hvalid : imageFailure t.boot.fuses a.image = none) :
    runFwStage p a c t = done c (BitVec.ofNat 32 (inactiveSlot t.boot)) 0
      { t with boot := { withSlot (inactiveSlot t.boot) (some a.image) (withSlot (inactiveSlot t.boot) none t.boot) with
        staged := some (inactiveSlot t.boot, a.imageDigest) } } := by
  rw [runFwStage, inTurn_now hturn]
  have hfits : ¬ slotBytes < descBytes kindFirmware p := hlen ▸ Nat.not_lt.mpr hsize
  simp only [hreserved, beq_self_eq_true, hform, hlen, hfits, hdigest, himage, hvalid, bne_self_eq_false, Bool.not_true, Bool.or_self,
    decide_false, Bool.false_eq_true, if_false]

/-- An activation of the staged slot clears the compute domain and waits for the reset's end. -/
theorem runFwActivate_resets {p : Packet} {a : FwActivateParams} {d : Digest} (hform : formOk p 8 [] true = true)
    (hreserved : a.reserved02 = 0) (hflags : bitsOf a.faFlags.toNat 1 7 = 0) (hstaged : t.boot.staged = some (a.slot.toNat, d))
    (hidle : t.sec.transition = false) :
    runFwActivate p a c t = clearCompute (setFuncEvent 4
      (park c.slot .reset { t with sec := { t.sec with activation := some c.slot } })) := by
  rw [runFwActivate, inTurn_now hturn]
  simp only [hreserved, hflags, beq_self_eq_true, Bool.and_self, hform, hstaged, Option.map_some, bne_self_eq_false, hidle, Bool.not_true,
    Bool.or_self, Bool.false_eq_true, if_false]

/-! ## DEVICE_RESET (R315) -/

section Reset
variable {p : Packet} {a : DeviceResetParams} (hform : formOk p 8 [] true = true) (hreserved : a.reserved03 = 0)
include hform hreserved

theorem runDeviceResetCompute_resets (hkind : a.portKind = 0) (hport : a.port = 0) (hidle : t.sec.transition = false) :
    runDeviceResetCompute p a c t = finishCompute (clearCompute (setFuncEvent 4
      { t with sec := { t.sec with resetSlots := t.sec.resetSlots ++ [c.slot] } })) := by
  rw [runDeviceResetCompute, inTurn_now hturn]
  simp only [hreserved, hkind, hport, beq_self_eq_true, Bool.and_self, hform, hidle, Bool.not_true, Bool.false_eq_true, if_false]

theorem runDeviceResetFull_resets (hkind : a.portKind = 0) (hport : a.port = 0) :
    runDeviceResetFull p a c t = flushOrReset 6 (done c 0 0 t) := by
  rw [runDeviceResetFull, inTurn_now hturn]
  simp only [hreserved, hkind, hport, beq_self_eq_true, Bool.and_self, hform, Bool.not_true, Bool.false_eq_true, if_false]

theorem runDeviceResetPort_resets (hexists : portExists a.portKind.toNat a.port.toNat = true) :
    runDeviceResetPort p a c t = done c 0 0 (resetPort a.portKind.toNat a.port.toNat 3 t) := by
  rw [runDeviceResetPort, inTurn_now hturn]
  simp only [hreserved, beq_self_eq_true, hform, hexists, Bool.not_true, Bool.or_self, Bool.false_eq_true, if_false]

end Reset

/-! ## Tenants (R316, R392, R393) -/

/-- A registration takes the next generation; a tenant registered before is swept first. -/
theorem runTenantRegister_registers {p : Packet} {a : TenantRegisterParams} {u : State} (hphase : c.phase = 0)
    (hform : formOk p 0x208 [] true = true) (hregister : registerForm a = true) (hjobs : tenantJobs t a.tenant.toNat = 0)
    (hgen : regGenOf t a.tenant.toNat ≠ 0xFFFFFFFF)
    (hu : u = commitRecord (fun r => withTenant a.tenant.toNat
        (fun e => { e with registered := true, regGen := e.regGen + 1, keyDigest := modulusDigest a.modulus a.pubExponent })
        (addTenant a.tenant.toNat r)) t) :
    runTenantRegister p a c t = endRegister c a.tenant.toNat (setCmd c.slot (fun c => { c with phase := 1 })
      (if ((findTenant t a.tenant.toNat).map (·.registered)).getD false then askSweep a.tenant.toNat u else u)) := by
  subst hu
  have hfirst : (c.phase == 1) = false := by simp [hphase]
  have hlast : (regGenOf t a.tenant.toNat == 0xFFFFFFFF) = false := beq_eq_false_iff_ne.mpr hgen
  simp only [runTenantRegister, hfirst, inTurn_now hturn, hregister, hform, hjobs, hlast, bne_self_eq_false, Bool.not_true,
    Bool.false_eq_true, if_false]

/-- A removal of a registered tenant, by its open jobs and the flag FORCE. -/
theorem runTenantRemove_eq {p : Packet} {a : TenantRemoveParams} (hphase : c.phase = 0) (hform : removeForm t p a = true) :
    runTenantRemove p a c t = if tenantJobs t a.tenant.toNat == 0 then removeTenant c a.tenant.toNat t
      else if !forced a then fail c .denied t
      else goOn ((t.jobs.table.filter fun j => j.tenant == a.tenant.toNat && !j.closing).foldl (fun u j => startClose j.index none u)
        (park c.slot .jobDrain t)) := by
  have hfirst : (c.phase == 1) = false := by simp [hphase]
  simp only [runTenantRemove, hfirst, inTurn_now hturn, hform, Bool.not_true, Bool.false_eq_true, if_false]

end InTurn

/-! ## Maintenance -/

/-- Settles O60: each maintenance command in its turn. -/
theorem maintenanceCommandsComplete : Obligations.MaintenanceCommandsComplete := by
  unfold Obligations.MaintenanceCommandsComplete
  refine ⟨?spareRead, ?spareRetire, ?stage, ?activate, ?reset, ?register, ?remove, ?removed⟩
  case spareRead =>
    intro s t p a c hruns hform hreserved hreserved08 hkind hunit
    exact runs_to hruns (runSpareMapRead_replies hform hreserved hreserved08 hkind hunit)
  case spareRetire =>
    intro s t p a c u hruns hturn hform hreserved hreserved08 hlow hhigh hactive hu
    exact runs_to hruns (runSpareMapRetire_retires hturn hform hreserved hreserved08 hlow hhigh hactive hu)
  case stage =>
    intro s t p a c hruns hturn hform hreserved hsize hlen hdigest himage hvalid
    exact runs_to hruns (runFwStage_stages hturn hform hreserved hsize hlen hdigest himage hvalid)
  case activate =>
    intro s t p a c d hruns hturn hform hreserved hflags hstaged hidle
    exact runs_to hruns (runFwActivate_resets hturn hform hreserved hflags hstaged hidle)
  case reset =>
    intro s t p a c hturn hform hreserved
    refine ⟨fun hruns hkind hport hidle => ?_, fun hruns hkind hport => ?_, fun hruns hexists => ?_⟩
    · exact runs_to hruns (runDeviceResetCompute_resets hturn hform hreserved hkind hport hidle)
    · exact runs_to hruns (runDeviceResetFull_resets hturn hform hreserved hkind hport)
    · exact runs_to hruns (runDeviceResetPort_resets hturn hform hreserved hexists)
  case register =>
    intro s t p a c hruns hturn hphase hform hregister hjobs hgen u hu
    exact runs_to hruns (runTenantRegister_registers hturn hphase hform hregister hjobs hgen hu)
  case remove =>
    intro s t p a c hruns hturn hphase hform
    have hrun := runTenantRemove_eq hturn hphase hform
    refine ⟨fun hnone => runs_to hruns (hrun.trans (if_pos (by simp [hnone]))), fun hsome hforce => runs_to hruns ?_⟩
    exact (hrun.trans (if_neg (by simp [hsome]))).trans (if_neg (by simp [hforce]))
  case removed =>
    intro s tenant c hc hnone
    exact finish_of_eq (by simp only [doTenantRemoveComplete, hc, hnone, beq_self_eq_true, if_true])

end Sys2Proof.Machine
end
